-- ==== Sys2Proof/Word.lean ====
section
/-! DEFINITION. The word types of the OV3224 and the sparse table: every register is 32 bits wide (R4), every
multi-byte structure is little-endian (R3), and a table of like things (ports, slots, queues, bytes of staging memory)
is a list of key and value pairs in one canonical form. -/

namespace Sys2Proof

/-- A byte of a structure in host memory or of the staging memory. -/
abbrev Byte := BitVec 8
/-- A setup or instance register (R4). -/
abbrev Word := BitVec 32
/-- A host address. -/
abbrev Addr := BitVec 64

/-- A sparse table: keys strictly rising, and no entry that equals what an unlisted key reads as. -/
abbrev Tbl (α : Type) := List (Nat × α)

end Sys2Proof
end

