-- ==== Sys2Proof/Syntax.lean ====
section
/-! DEFINITION. The commands of the block: one constructor of `Instr` for each row of spec/opcode_table.json, and the
operand types. A row is one step of the part, whole and indivisible (spec/95); its operands are everything about the
step that comes from outside the chip (what a device answered, what a host read returned, which register was written
with which value, which port or link the step is about). -/

namespace Sys2Proof

/-- Who writes a register: a PCIe function, named by its instance number (R232), the SMBus embedded controller (R243),
or a Fielder, which writes with the manager's rights (R312). -/
inductive Writer where
  | fn (inst : Fin 128)
  | smbus
  | fielder (f : Fin 12)
deriving DecidableEq, Repr

/-- How a read ends (R71, R285, R302): only `ok` carries data; `noRoute` is an internal channel's, whose node is not
reachable (R361). -/
inductive ReadEnd where
  | ok | ur | ca | timeout | poison | noRoute
deriving DecidableEq, Repr

/-- The strap balls at a latching edge (R23). -/
structure StrapPins where
  mgr : BitVec 2 := 0
  bifur : Bool := false
  smb : BitVec 2 := 0
  refclk : Bool := false
  passOff : Bool := false
  compat : Bool := false
deriving DecidableEq, Repr

/-- The state of a PCIe link as the BC 1.2 policy and the wake logic see it (R278, R384). -/
inductive LinkPm where
  | down | training | l0 | l1 | l11 | l12 | l2 | l3
deriving DecidableEq, Repr

/-- The fifteen instance commands (R58), in the order of their TYPE values 0x20 to 0x2E. -/
inductive CmdKind where
  | enableSlot | addressDevice | configureEp | resetEp | stopEp | setDequeue | disableSlot | createRing
  | destroyRing | portReset | portSuspend | portResume | portPower | getScorebook | noop
deriving DecidableEq, Repr

/-- How a USB 2.0 or split transaction ends on the bus (R137, R153 to R159, R170, R172). -/
inductive XactEnd where
  /-- The device or translator answered ACK. -/
  | ack
  | nak
  /-- NYET to an OUT, or to a complete-split. -/
  | nyet
  | stall
  /-- A good data packet of `len` bytes with the expected toggle; `last` says that PID DATA0 or a short packet ended a
  high-bandwidth opportunity. -/
  | data (len : Nat) (last : Bool)
  /-- A good packet that carries the toggle already received (R156). -/
  | resent (len : Nat)
  /-- No response, bad CRC, bad PID, bit stuffing, false end of packet, garbled handshake (R170). -/
  | error
  /-- A packet longer than MAX_PACKET; `eof` says the device was still sending at the end-of-frame point (R172). -/
  | babble (eof : Bool)
  /-- ERR from the transaction translator (R137, R159). -/
  | ttErr
deriving DecidableEq, Repr

/-- How a SuperSpeed burst ends (R160, R161, R163). -/
structure BurstEnd where
  /-- Bytes of the packets accepted in sequence. -/
  bytes : Nat
  /-- Data packets among them. -/
  pkts : Nat
  /-- The last packet was short. -/
  short : Bool := false
  /-- A packet was retried, or no acknowledgement came: one strike (R170). -/
  strike : Bool := false
  nrdy : Bool := false
  stall : Bool := false
  /-- The device sent more than the packet or TD allows (R172). -/
  babble : Bool := false
  /-- The device ended the current stream (R163). -/
  streamEnd : Bool := false
  /-- Packets the device's acknowledgement advertised for the next OUT burst. -/
  numP : Nat := 16
deriving DecidableEq, Repr

/-- A Carry channel as a step names it: a local channel of an instance (R287), or an internal one 240 + k (R286). -/
inductive ChanRef where
  | loc (inst : Fin 128) (c : Fin 256)
  | internal (k : Fin 16)
deriving DecidableEq, Repr

/-- The kinds of Fielder fault (R319, R412): an uncorrectable word (`inIram`: in its instruction RAM), the watchdog,
the fetch loop; and a corrected register-file error, which moves the role as a fault does (R404). -/
inductive FaultKind where
  | uncorrectable (inIram : Bool) | watchdog | fetchLoop | correctedReg
deriving DecidableEq, Repr

/-- The result of a replay check (R400, R401). -/
inductive CheckEnd where
  | transient | lasting | inconclusive
deriving DecidableEq, Repr

/-- The wake sources of R384. -/
inductive WakeEvent where
  | clkreq (link : Fin 2)
  | perstRise (link : Fin 2)
  /-- A pull-up or termination appears or is lost on the bus. -/
  | portConnect (bus : Fin 32)
  | portWake (bus : Fin 32)
  | ufpVbus (high : Bool)
  | ufpResume
  | tap (p : Fin 2)
  | gpio (n : Fin 16) (high : Bool)
  | slTimer
  | overcurrent (poc : Fin 24)
deriving DecidableEq, Repr

/-- A change that a service hub reports on one of its ports (R271). -/
inductive HubPortEvent where
  | connect (speed : BitVec 4) | disconnect | overcurrent
deriving DecidableEq, Repr

/-- How the transfer of an enumeration step ends (R265 to R267): it succeeds with the bytes read, the device gives no
answer, or what it read is malformed. -/
inductive EnumEnd where
  | ok (bytes : List Byte)
  | noAnswer
  | malformed
deriving DecidableEq, Repr

/-- Requests of a member to EP 0x00 of a shared slot (R275). -/
inductive ShareReq where
  /-- GET_DESCRIPTOR of a device, configuration, HID or report descriptor. -/
  | getDescriptor
  | getString
  /-- GET_STATUS, GET_CONFIGURATION, GET_INTERFACE. -/
  | getState
  /-- SET_CONFIGURATION(1), SET_INTERFACE to setting 0. -/
  | setConfig
  | setReport (bytes : List Byte)
  | setIdle (v : Byte)
  | setProtocol (v : Byte)
  | getReport
  | getIdle
  | getProtocol
  | remoteWake (on : Bool)
  | clearHalt (ep : Fin 32)
  /-- An interrupt OUT TD of the member (the paragraph below the table of R275). -/
  | outReport (bytes : List Byte)
  | other
deriving DecidableEq, Repr

/-- How the device ends a request or an OUT TD that the service sends on to it (R275): data of an IN request, STALL, or three strikes. -/
inductive DevEnd where
  | ok (bytes : List Byte)
  | stall
  | error
deriving DecidableEq, Repr

/-- A member's request with what the device answers if the service sends it on (R275). -/
structure ShareAsk where
  req : ShareReq
  dev : DevEnd := .ok []
deriving DecidableEq, Repr

/-- What an SMBus transaction sends to the chip: a value, or a transaction with a bad PEC or a wrong byte count (R243). -/
inductive Sent (α : Type) where
  | good (v : α)
  | bad
deriving DecidableEq, Repr

/-- Standard device requests a hub answers (R229). -/
inductive StdReq where
  | getDescriptor (kind : Byte)
  | setAddress (a : BitVec 7)
  | getConfiguration
  | setConfiguration (v : Byte)
  | getStatus
  | getInterface
  | setInterface (v : Byte)
  | setRemoteWake (on : Bool)
  | interfaceStatus
  | endpointStatus (ep : Byte)
  | setHalt (ep : Byte) (on : Bool)
  /-- TEST_MODE of the USB 2.0 hub's upstream port. -/
  | testMode (sel : Byte)
  /-- SET_SEL and SET_ISOCH_DELAY, U1_ENABLE, U2_ENABLE and FUNCTION_SUSPEND of the USB 3.2 hub. -/
  | setSel
  | setIsochDelay
  | u1Enable (on : Bool)
  | u2Enable (on : Bool)
  | functionSuspend (suspend wake : Bool)
  /-- One that USB does not require of a hub. -/
  | other
deriving DecidableEq, Repr

/-- Hub port features and feature selectors (R229). -/
inductive HubFeature where
  | portEnable | portSuspend | portPower | portReset | bhPortReset | portLinkState | portU1Timeout | portU2Timeout
  | portRemoteWakeMask | forceLinkpmAccept | portTest
  | cConnection | cEnable | cSuspend | cOverCurrent | cReset | cBhReset | cLinkState | cConfigError
  | cHubLocalPower | cHubOverCurrent
  | other
deriving DecidableEq, Repr

/-- What a transaction from the upstream host is (R227): a poll of the hub's status endpoint, or traffic for a port. -/
inductive UpXact where
  | statusPoll (ss : Bool)
  /-- High-speed traffic, repeated electrically. -/
  | highSpeed (port : Fin 24)
  /-- Full- or low-speed traffic through the port's own translator. -/
  | translated (port : Fin 24)
  /-- A SuperSpeed packet, stored and forwarded. -/
  | superSpeed (port : Fin 8)
deriving DecidableEq, Repr

/-- A word of SRAM as a scrub read finds it (R396, R398). -/
inductive ScrubFind where
  | clean
  | corrected (word : Fin 128) (bit : BitVec 6)
  | uncorrectable (word : Fin 128)
deriving DecidableEq, Repr

/-- The fields of a routed frame's header that the chip acts on (R344). -/
structure FrameHdr where
  dst : BitVec 4
  src : BitVec 4
  tc : BitVec 2
  len : Nat
  seq : BitVec 12
  ack : Option (BitVec 12) := none
  inst : BitVec 7 := 0
  gen : BitVec 8 := 0
  /-- The endpoint: the slot index on the home node and the endpoint number of R91 (bit 16 + n of EP_MASK is IN). -/
  slot : Fin 256 := 0
  ep : Fin 32 := 0
  epoch : BitVec 6 := 0
  tdid : BitVec 16 := 0
  /-- CRC-32 good, KIND and TC not reserved, reserved bits zero, LENGTH at most 2,048 (R345). -/
  good : Bool := true
deriving DecidableEq, Repr

/-- The fields of a link-control frame (R345). -/
structure LinkHdr where
  uid : BitVec 64 := 0
  captain : BitVec 64 := 0
  /-- The number the peer has, where it has one. -/
  node : Option (BitVec 4) := none
  topo : BitVec 16 := 0
  lanes : Nat := 2
  /-- Credits returned, for TC0, TC1 and TC2. -/
  credits : Nat × Nat × Nat := (0, 0, 0)
  good : Bool := true
deriving DecidableEq, Repr

/-- PROTOCOL messages (R350, R362, R363, R365, R369): the firmware's message in its meaning. -/
inductive ProtoMsg where
  /-- A neighbour's candidate report, with its election round. -/
  | candidate (uid : BitVec 64) (round : Nat)
  /-- The captain's distribution: the numbers by UID tag, the routes of this node, and the tick to install them at. -/
  | install (node : BitVec 4) (captain : BitVec 4) (captainUid : BitVec 64) (members : List (BitVec 4 × BitVec 64))
      (routes : List (BitVec 4 × BitVec 2 × BitVec 4 × BitVec 2 × BitVec 4)) (topo : BitVec 16) (tick : BitVec 16)
  /-- The neighbour list of a node (R350 step 3): its UID, the number it has, its preference, and the UIDs of its
  neighbours on FA and FB; 0: none. -/
  | neighbours (uid : BitVec 64) (node pref : Option (BitVec 4)) (fa fb : BitVec 64)
  /-- A link-down notice: what this node finds over the topology it holds, the nodes it no longer reaches and those it now
  reaches by their alternate path. -/
  | linkDown (lost moved : List (BitVec 4))
  /-- This node cannot be numbered: the fabric is full (R351). -/
  | excluded
  | sleepAsk (node : BitVec 4)
  | sleepGrant
deriving DecidableEq, Repr

/-- An endpoint context of a far device, as the home node tells it to a new host node (R357): the bit of EP_MASK, TYPE,
sizes, streams and EPOCH. -/
structure FarEp where
  bit : Fin 32
  ty : BitVec 2
  mps : Nat
  burst : Nat := 0
  mult : Nat := 0
  streams : Nat := 0
  epoch : BitVec 6 := 0
deriving DecidableEq, Repr

/-- What a far event carries (R345 EVENT): a port change with the status after it, or the end of a far device. -/
inductive FarEvent where
  | portChange (subject : BitVec 16) (change : BitVec 7) (status : BitVec 12)
  | detach (slot : BitVec 12) (reason : BitVec 4)
  | attach (slot : BitVec 12) (subject : BitVec 16) (speed : BitVec 4) (cls : Byte) (vid pid : BitVec 16)
      (eps : List FarEp)
  | overcurrent (subject : BitVec 16) (d1 d2 : BitVec 32)
  /-- The port has passed to another owner (R252). -/
  | released (subject : BitVec 16)
  /-- A device behind a far connector is parked (R267). -/
  | enumFail (subject : BitVec 16) (route : BitVec 20) (reason attempts : BitVec 8)
deriving DecidableEq, Repr

/-- What a COMMAND frame asks of the home node for an instance of the host node (R345, R357). -/
inductive FarCmd where
  /-- An instance command, with its parameter bytes. -/
  | inst (k : CmdKind)
  /-- A mailbox request, with its opcode; the parameter bytes are MBOX_REQ0 and MBOX_REQ1. -/
  | mbox (op : Byte)
  /-- ASSIGN_PORT of a port of the home node, named in the first two parameter bytes (R252). -/
  | assignPort (pass unassign keep : Bool)
  /-- ASSIGN_DEVICE of a device of the home node, named in the first two parameter bytes (R253). -/
  | assignDevice
  /-- The instance's settings on a bus (R178): WEIGHT, CIR, PIR, CBS, PBS. -/
  | settings (bus : Byte) (weight : BitVec 10) (cir pir cbs pbs : BitVec 24)
  /-- The instance is frozen, or thawed (R119, R176). -/
  | freeze (on : Bool)
  /-- The lost-host policy switches off the connector named in the first two parameter bytes (R258). -/
  | powerOff
  /-- The instance's link has come to L0 or L1, or has left them (R278). -/
  | linkMode (up : Bool)
  /-- An assignment asked for under the frame's tag is given up (R116, R256). -/
  | cancel
  /-- The instance is reset (R250): its endpoints are stopped and their rings released. -/
  | reset
  /-- The instance is destroyed (R186, R248). -/
  | destroy
deriving DecidableEq, Repr

/-- A timed perturbation of the Spin registers (R420). -/
inductive SpinTimed where
  /-- SPIN_CREDIT's HOLD ends. -/
  | creditHold
  /-- SPIN_CREDIT's PERIOD repeats. -/
  | creditPeriod
  | fabDuration
deriving DecidableEq, Repr

/-- The commands of the block, in the order of spec/opcode_table.json. -/
inductive Instr where
  | powerOn (straps : StrapPins)
  | resetAssert
  | resetRelease (straps : StrapPins)
  | pwrgdInLow
  | crystalStable
  | pllLock
  | sramRdy
  | logicRdy
  | bootSelfTestDone (f : Fin 12) (pass : Bool)
  | perstAssert (link : Fin 2)
  | perstRelease (link : Fin 2)
  | hotReset (link : Fin 2)
  | flr (inst : Fin 128)
  | linkTrainStart (link : Fin 2)
  | linkReachesL0 (link : Fin 2)
  | passFallbackTimeout
  | linkPmStateChange (link : Fin 2) (pm : LinkPm)
  | linkLost (link : Fin 2)
  | hostLinkDelayExpiry (link : Fin 2)
  | vfEnable (inst : Fin 128)
  | vfDisable (inst : Fin 128)
  | instCreate (w : Writer)
  | instResize (w : Writer)
  | instDestroy (w : Writer)
  | instReset (w : Writer)
  | instResetEscalation (inst : Fin 128)
  | assignPort (w : Writer)
  | assignDevice (w : Writer)
  | setRates (w : Writer)
  | setWeight (w : Writer)
  | freeze (w : Writer)
  | thaw (w : Writer)
  | chipReset (w : Writer)
  | mgrReservedOpcode (w : Writer) (op : Byte)
  | fwLoad (w : Writer)
  | fwSwap (w : Writer)
  | fwFetchDone (r : ReadEnd) (image : List Byte)
  | fwVerifyDone (keyOk sigOk : Bool)
  | fwStartTimeout (f : Fin 12)
  | swapDrainDone
  | drainTimeout
  | fuseBlown
  | fwDiscard (w : Writer)
  | registerWrite (w : Writer) (bar : BitVec 3) (off : Word) (val : BitVec 64) (size : Nat)
  | cmdRingSizeWrite (inst : Fin 128) (val : Word)
  | cring0SizeWrite (inst : Fin 128) (val : Word)
  | instCtlWrite (inst : Fin 128) (val : Word)
  | doorbellProducer (inst : Fin 128) (ring : BitVec 15) (idx : BitVec 16)
  | doorbellConsumer (inst : Fin 128) (ring : BitVec 15) (idx : BitVec 16)
  | elementFetchDone (inst : Fin 128) (ring : BitVec 15) (r : ReadEnd) (raw : List Byte)
  | confirmReadDone (slot : BitVec 12) (ep : Fin 32) (r : ReadEnd)
  | outDataReadDone (slot : BitVec 12) (ep : Fin 32) (r : ReadEnd)
  | huddleTimerExpiry (inst : Fin 128) (ring : Fin 64)
  | huddleCtlWrite (inst : Fin 128) (ring : Fin 64) (val : Word)
  | cringReadbackDone (inst : Fin 128) (ring : Fin 64) (r : ReadEnd)
  | msixUnmask (inst : Fin 128) (entry : Option (Fin 64))
  | enableSlot (inst : Fin 128) (tag : BitVec 16) (par : BitVec 192)
  | addressDevice (inst : Fin 128) (tag : BitVec 16) (par : BitVec 192)
  | configureEp (inst : Fin 128) (tag : BitVec 16) (par : BitVec 192)
  | resetEp (inst : Fin 128) (tag : BitVec 16) (par : BitVec 192)
  | stopEp (inst : Fin 128) (tag : BitVec 16) (par : BitVec 192)
  | setDequeue (inst : Fin 128) (tag : BitVec 16) (par : BitVec 192)
  | disableSlot (inst : Fin 128) (tag : BitVec 16) (par : BitVec 192)
  | createRing (inst : Fin 128) (tag : BitVec 16) (par : BitVec 192)
  | destroyRing (inst : Fin 128) (tag : BitVec 16) (par : BitVec 192)
  | portReset (inst : Fin 128) (tag : BitVec 16) (par : BitVec 192)
  | portSuspend (inst : Fin 128) (tag : BitVec 16) (par : BitVec 192)
  | portResume (inst : Fin 128) (tag : BitVec 16) (par : BitVec 192)
  | portPower (inst : Fin 128) (tag : BitVec 16) (par : BitVec 192)
  | getScorebook (inst : Fin 128) (tag : BitVec 16) (par : BitVec 192)
  | noop (inst : Fin 128) (tag : BitVec 16) (par : BitVec 192)
  | microframeTick
  | busMicroframeStart (bus : Fin 32)
  | isochStageDeadline (slot : Fin 256) (ep : Fin 32)
  | usb2TransactionEnd (bus : Fin 24) (r : XactEnd) (pos : Nat) (us : BitVec 7)
  | ssBurstEnd (ssp : Fin 8) (r : BurstEnd) (us : BitVec 7)
  | erdyReceived (slot : Fin 256) (ep : Fin 32) (stream : BitVec 16) (numP : BitVec 5)
  | rallyReady (slot : Fin 256) (ep : Fin 32)
  | scorebookSample
  | sbClear (w : Writer)
  | sbSelWrite (w : Writer) (val : Word)
  | refSelWrite (w : Writer) (val : Word)
  | poolSelWrite (w : Writer) (val : Word)
  | carrySelWrite (w : Writer) (val : Word)
  | ocMapWrite (w : Writer) (k : Fin 6) (val : Word)
  | pocFall (n : Fin 24)
  | ocTripQualified (n : Fin 24)
  | pocRise (n : Fin 24)
  | portPowerOnWaitEnd (port : Fin 24)
  | pullupSeen (port : Fin 24) (low : Bool)
  | pullupLostInDebounce (port : Fin 24)
  | debounceEnd (port : Fin 24)
  | resetSe0End (port : Fin 24) (chirp : Bool)
  | resetRecoveryEnd (port : Fin 24)
  | suspendEntryTimer (port : Fin 24)
  | deviceResumeK (port : Fin 24)
  | resumeKEnd (port : Fin 24)
  | resumeRecoveryEnd (port : Fin 24)
  | usb2Disconnect (port : Fin 24)
  | ssRxDetectPoll (ssp : Fin 8) (found : Bool)
  | ssPollingU0 (ssp : Fin 8) (speed : BitVec 4)
  | ssPollingTimeout (ssp : Fin 8)
  | ssIdleTimeout (ssp : Fin 8) (u2 : Bool)
  | ssLinkError (ssp : Fin 8) (recovered : Bool)
  | ssTerminationLost (ssp : Fin 8)
  | ssWakeLfps (ssp : Fin 8)
  | u3ExitRetryTimeout (ssp : Fin 8)
  | bcPowerCycleEnd (port : Fin 24)
  | ufpVbusChange (high : Bool)
  | passCtlWrite (w : Writer) (val : Word)
  | hubGetHubStatus (ss : Bool)
  | hubGetPortStatus (ss : Bool) (port : Fin 24)
  | hubGetHubDescriptor (ss : Bool)
  | hubClearHubFeature (ss : Bool) (f : HubFeature)
  | hubClearPortFeature (ss : Bool) (port : Fin 24) (f : HubFeature)
  | hubSetPortFeature (ss : Bool) (port : Fin 24) (f : HubFeature) (sel : Byte)
  | hubClearTtBuffer (port : Fin 24)
  | hubResetTt (port : Fin 24)
  | hubSetHubDepth (depth : Byte)
  | hubGetPortErrorCount (port : Fin 8)
  | hubStandardRequest (ss : Bool) (r : StdReq)
  | hubRequestStalled (ss : Bool) (req : Byte)
  | upstreamReset (warm : Bool)
  | upstreamHotReset
  | upstreamSuspend (ss : Bool) (port : Option (Fin 24))
  | upstreamResume (ss : Bool) (port : Option (Fin 24))
  | svcPortWrite (w : Writer) (port : Fin 24) (val : Word)
  | enumStepComplete (job : Nat) (r : EnumEnd)
  | hubPortChange (slot : Fin 256) (port : BitVec 8) (e : HubPortEvent)
  | sharedHidReport (slot : Fin 256) (ep : Fin 32) (report : List Byte)
  | shareCtlWrite (w : Writer) (g : Fin 8) (val : Word)
  | shareMemWrite (w : Writer) (g : Fin 8) (hi : Bool) (val : Word)
  | sharedEp0Request (inst : Fin 128) (slot : Fin 256) (r : ShareAsk)
  | mboxDevDesc (inst : Fin 128)
  | mboxCfgDesc (inst : Fin 128)
  | mboxTopology (inst : Fin 128)
  | mboxRescan (inst : Fin 128)
  | mboxEnumFail (inst : Fin 128)
  | mboxShareInfo (inst : Fin 128)
  | mboxChargeInfo (inst : Fin 128)
  | mboxReservedOpcode (inst : Fin 128) (op : Byte)
  | smbRegWrite (off : BitVec 16) (val : Sent Word)
  | smbRegAddr (off : Sent (BitVec 16))
  | smbRegRead
  | smbEvtRead
  | smbStatus
  | smbEscape (key : Sent Word) (op target flags : Byte)
  | escCmdWrite (val : Word)
  | smbAlertResponse
  | smbFlogStatus
  | smbFlogRead
  | smbFlogAck (count : Sent Byte)
  | smbFlogSeek (slot : Sent Byte)
  | smbFlogPeek
  | flogAckWrite (w : Writer) (val : Word)
  | chStart (inst : Fin 128) (c : Fin 256)
  | chResume (inst : Fin 128) (c : Fin 256)
  | chSkip (inst : Fin 128) (c : Fin 256)
  | chAbort (inst : Fin 128) (c : Fin 256)
  | chCmdRefused (inst : Fin 128) (c : Fin 256) (val : Word)
  | carryDescFetchDone (ch : ChanRef) (r : ReadEnd) (raw : List Byte)
  | carryFetchTimeout (ch : ChanRef)
  | carryBurstReadDone (ch : ChanRef) (r : ReadEnd)
  | carryConfirmDone (ch : ChanRef) (r : ReadEnd)
  | whistleLineChange (src : Fin 512) (level : Bool)
  | whistleDeliveryCommit (f : Fin 12) (nextPc : Word)
  | fielderWfi (f : Fin 12) (pc : Word)
  | wfiWake (f : Fin 12)
  | wdoneWrite (f : Fin 12) (val : Word)
  | wthreshWrite (f : Fin 12) (val : Word)
  | fielderException (f : Fin 12) (cause : BitVec 5) (pc tval : Word)
  | wsrcCfgWrite (f : Fin 12) (src : Fin 512) (val : Word)
  | wpendSetWrite (f : Fin 12) (k : Fin 16) (val : Word)
  | wpendClrWrite (f : Fin 12) (k : Fin 16) (val : Word)
  | wvecWrite (f : Fin 12) (bank : Bool) (src : Fin 512) (val : Word)
  | holdoffExpiry (g : Fin 32)
  | ftimerWrite (f : Fin 12) (val : Word)
  | ftimerExpiry (f : Fin 12)
  | fwdogWrite (f : Fin 12) (val : Word)
  | fwdogExpiry (f : Fin 12)
  | freadyWrite (f : Fin 12) (val : Word)
  | flockRead (f : Fin 12) (lock : Fin 64)
  | flockFreeWrite (f : Fin 12) (val : Word)
  | fielderFault (f : Fin 12) (k : FaultKind)
  | takeoverCopyDone (f : Fin 12)
  | roleSuspend (f : Fin 12)
  | pwrModeWrite (w : Writer) (val : Word)
  | dozeEntry
  | scrumStart
  | scrumPhase1Done
  | scrumStopStep
  | fielderStateSaved
  | sramRetentionDone
  | clockStopDone
  | powerEntryComplete
  | wakeSource (e : WakeEvent) (slTime : Word)
  | vrdyRise
  | vrdyWaitTimeout
  | padRelease (w : Writer) (val : Word)
  | dvfsCtlWrite (w : Writer) (val : Word)
  | dvfsSettleEnd
  | dvfsVrdyTimeout
  | thermalSample (temp : Int)
  | throttleStep
  | slTimerExpiry
  | fabSignalDetect (p : Fin 2)
  | fabLockHeld (p : Fin 2) (lanes : Nat)
  | fabTrainingTimeout (p : Fin 2)
  | linkInit (p : Fin 2) (h : LinkHdr)
  | hello (p : Fin 2) (h : LinkHdr)
  | helloTxTimer (p : Fin 2)
  | ack (p : Fin 2) (seq : BitVec 12) (h : LinkHdr)
  | nak (p : Fin 2) (seq : BitVec 12) (h : LinkHdr)
  | sync (p : Fin 2) (mf : BitVec 16) (offset : BitVec 12) (trim : BitVec 16) (h : LinkHdr)
  | syncEcho (p : Fin 2) (delay : BitVec 16) (h : LinkHdr)
  | element (p : Fin 2) (h : FrameHdr) (raw : List Byte)
  | dataOut (p : Fin 2) (h : FrameHdr)
  | dataIn (p : Fin 2) (h : FrameHdr) (off : Nat)
  | result (p : Fin 2) (h : FrameHdr) (code : Byte) (moved elem : Nat) (mf : Option (BitVec 16))
  | command (p : Fin 2) (h : FrameHdr) (k : FarCmd) (tag : BitVec 16) (par : BitVec 192)
  | reply (p : Fin 2) (h : FrameHdr) (tag : BitVec 16) (code : Byte) (result : BitVec 24) (data : List Byte)
  | event (p : Fin 2) (h : FrameHdr) (e : FarEvent)
  | carry (p : Fin 2) (h : FrameHdr) (space2 : BitVec 64)
  | protocol (p : Fin 2) (h : FrameHdr) (m : ProtoMsg)
  | e2eAck (p : Fin 2) (h : FrameHdr)
  | fabReplayTimeout (p : Fin 2)
  | fabSignalLoss (p : Fin 2)
  | helloLossTimeout (p : Fin 2)
  | captainDeclare
  | topoInstall
  | sleepGrantLapse
  | tapSeen (p : Fin 2) (slTime : Word)
  | replayCheckStart
  | sramShadowCopyDone (bank : Fin 16)
  | sramCheckDone (bank : Fin 16) (r : CheckEnd) (bits us : BitVec 16)
  | fielderCheckDone (f : Fin 12) (r : CheckEnd)
  | laneError (lane : Fin 20) (kind : BitVec 3)
  | laneCheckDone (lane : Fin 20) (r : CheckEnd)
  | otpCommitDone
  | scrubRow (find : ScrubFind)
  | sidelineScrub (corrected : Bool) (bad : Bool)
  | spinKeyWrite (w : Writer) (val : Word) (late : Bool)
  | spinLock (w : Writer)
  | spinEccArm (w : Writer)
  | pwrgdInRise (straps : StrapPins)
  | vddSlFall
  | mieWrite (f : Fin 12) (mie meie : Bool)
  | swapCopyDone
  | fabTrainingRestart (p : Fin 2)
  | ackTxTimer (p : Fin 2)
  | deviceInitiatedU1U2 (ssp : Fin 8) (u2 : Bool)
  | u3ExitU0 (ssp : Fin 8)
  | upstreamTransaction (x : UpXact)
  | spinPerturbationEnd (x : SpinTimed)
deriving DecidableEq, Repr

end Sys2Proof
end

