-- ==== Sys2Proof/Config.lean ====
section
/-! DEFINITION. What a part fixes at manufacture and what the manual leaves open. An opaque constant has no body:
nothing can be proved about its value beyond what its type says, so a claim holds whatever it is. -/

namespace Sys2Proof.Config

/-- CHIP_ID (R423). -/
def chipId : Word := 0x57023224
/-- STEPPING (R423): stepping A1. -/
def stepping : Word := 0x000000A1
/-- CAPS0 (R423). -/
def caps0 : Word := 0x3C802818
/-- CAPS1 (R423). -/
def caps1 : Word := 0x08B99CB8
/-- Packet buffer cells of the shared pool, and the floor of each bus (R11). -/
def poolCells : Nat := 9216
def floorCells : Nat := 32
/-- The pool of R237, in the order of its resource codes. -/
def poolSlots : Nat := 256
def poolPeps : Nat := 512
def poolEps : Nat := 2048
def poolStreams : Nat := 4096
def poolCrings : Nat := 512
def poolVectors : Nat := 2048
def poolChannels : Nat := 240
/-- The escape and chip-reset key (R118, R245). -/
def escKey : Word := 0x5A3CC35A
/-- The two values that unlock the Spin registers (R419). -/
def spinKey1 : Word := 0x00005917
def spinKey2 : Word := 0x0000A6E8

/-- The part's UID less one (R447: the UID is never zero). DESIGN CHOICE, log entry 3. -/
opaque uidLessOne : Fin (18446744073709551614 + 1)
/-- The 64-bit UID (R423). -/
def uid : BitVec 64 := BitVec.ofNat 64 (uidLessOne.val + 1)
/-- Woryan's USB vendor and product IDs less one (R447: never zero). -/
opaque vidLessOne : Fin (65534 + 1)
opaque pidHsLessOne : Fin (65534 + 1)
opaque pidSsLessOne : Fin (65534 + 1)
def vid : BitVec 16 := BitVec.ofNat 16 (vidLessOne.val + 1)
def pidHs : BitVec 16 := BitVec.ofNat 16 (pidHsLessOne.val + 1)
def pidSs : BitVec 16 := BitVec.ofNat 16 (pidSsLessOne.val + 1)
/-- OTP repair entries that production test used, 0 to 16 (R447: OTP_LEFT never below 112). -/
opaque otpUsed : Fin 17
/-- Spare rows of a bank that the OTP repairs of production test use (R403, log entry 3). -/
opaque sparesUsed : Nat → Fin 17
def otpLeft : Nat := 128 - otpUsed.val

/-- The boot ROM's contents, which the manual does not give (R20, R311; log entry 47). -/
opaque bootRom : Nat → Byte

/-- Values the manual leaves open, one fresh value for each index; State holds the index of the next one. -/
opaque freeWord : Nat → Word
/-- How far the Sideline clock runs ahead in one micro-frame: 0 to 13 counts beyond 125 (R373: 1.00 to 1.11 counts
per microsecond, whole counts). -/
opaque freeSideline : Nat → Fin 14

/-- The role that firmware gives a kind of work: an instance command (0 to 14), a manager command (32 + opcode), a mailbox
request (64 + opcode), an instance reset (80), managed enumeration and hubs (81), device sharing (82). The image decides it; the
manual leaves it open (log entry 6). -/
opaque roleOf : Nat → Fin 8

end Sys2Proof.Config
end

