-- ==== Sys2Proof/Machine/State.lean ====
section
/-! DEFINITION. The state of the OV3224: everything the manual gives the block, as plain data. A table lists only the
entries that differ from their reset value, so that a reset empties it. Each structure's default field values are the
reset values its rule gives. -/

namespace Sys2Proof.Machine

/-! ### Outputs -/

/-- What a transaction puts on the bus first (R133, R153, R158 to R160): SETUP, IN, PING, a start-split or complete-split; OUT
with the data PID of its packet; a SuperSpeed burst from a sequence number. -/
inductive Tok where
  | setup | inn | ping | ssplit | csplit
  | data0 | data1 | data2 | mdata
  | burst (seq : BitVec 5)
  | statusTp
deriving DecidableEq, Repr

/-- What the block puts on its interfaces, in the order of its doing (log entry 1: the model's own field). -/
inductive Out where
  /-- A completion record: instance, completion ring, entry, and the four dwords (R68, R86). -/
  | record (inst ring idx : Nat) (d0 d1 d2 d3 : Word)
  /-- An MSI-X message of the instance for a table entry (R83). -/
  | msix (inst entry : Nat)
  /-- A read of host memory under the instance's requester ID. -/
  | hostRead (inst : Nat) (addr : Addr) (len : Nat)
  /-- A posted write to host memory: address and bytes. -/
  | hostWrite (inst : Nat) (addr : Addr) (len : Nat)
  /-- A channel status record (R300): instance, channel and its first six dwords. -/
  | status (inst ch : Nat) (d : List Word)
  /-- A Scorebook dump (R194): the buffer address and the bytes written. -/
  | dump (inst : Nat) (addr : Addr) (bytes : List Byte)
  /-- AER reports an error on the instance's function (R78). -/
  | aer (inst : Nat)
  /-- A bus sends the SOF or keep-alive of a micro-frame (R140). -/
  | sof (bus : Nat) (mf : BitVec 16)
  /-- Pitch starts a transaction for an endpoint context key on a bus: its token, or the data PID of what it sends. -/
  | xact (bus key : Nat) (tok : Tok)
  /-- PING before an isochronous SuperSpeed service (R139). -/
  | ssPing (ssp key : Nat)
  /-- The LPM transaction of a port (R152). -/
  | lpm (port : Nat) (besl : BitVec 4)
  /-- SET_ADDRESS for a slot, with the address (R102). -/
  | setAddress (slot : Nat) (addr : BitVec 7)
  /-- Reset signalling (SE0, hot reset, warm reset), resume signalling, and U-state changes of a bus. -/
  | se0 (port : Nat)
  | ssReset (ssp : Nat) (warm : Bool)
  | resumeK (bus : Nat)
  | ltssm (ssp : Nat) (st : Nat)
  /-- The device's request for U1 or U2 is answered (R205). -/
  | lau (ssp : Nat) (accept : Bool)
  /-- The no-work answer to an ERDY (R163). -/
  | noWork (slot ep : Nat)
  /-- The hubs answer a request on the UFP: which hub and the bytes; STALL (R229). -/
  | hubData (ss : Bool) (bytes : List Byte)
  | hubStall (ss : Bool)
  /-- The hub's status endpoint answers a poll: a change bitmap, or NAK when it is empty. -/
  | hubStatus (bits : Nat)
  /-- Traffic the hub carries to a Pass port (R227). -/
  | hubForward (port : Nat) (tt : Bool)
  /-- Resume or link signalling the hub sends upstream (R231). -/
  | hubWake (ss : Bool)
  /-- A request a service sends (R265, R269, R271, R275, R277): the enumeration's key or the slot key, and the request.
  1: read 8 bytes of the device descriptor; 2: SET_ADDRESS; 3: read the descriptors; 4: configure the hub; 5: read the
  report descriptors; 6, 7, 8, 9: reset, disable, power, switch off a hub port; 10: SET_CONFIGURATION(1); 11, 12, 13:
  SET_PROTOCOL, SET_IDLE, the output report; 14: a member's request, forwarded; 15: remote wake. -/
  | svc (slot : Nat) (req : Nat) (val : Nat)
  /-- A report written to a member of a share group (R276, R277). -/
  | report (inst slot ep : Nat) (bytes : List Byte)
  /-- What a member's request to EP 0x00 of a shared slot is answered (R275). -/
  | answer (inst slot : Nat) (bytes : List Byte)
  /-- An answer of the SMBus target, or no acknowledgement (R243). -/
  | smb (bytes : List Byte)
  | smbNack
  /-- The SYNC, HELLO, ACK, NAK, LINK_INIT and SYNC_ECHO frames of a fabric port, by KIND (R345), with a value. -/
  | linkFrame (p : Nat) (kind : Nat) (val : Nat)
  /-- A routed frame leaves through a port: destination, KIND, and a value. -/
  | frame (p dst kind : Nat) (val : Nat)
  /-- A replay from the oldest unacknowledged frame (R346). -/
  | replay (p : Nat) (seq : BitVec 12)
  /-- TAP on a fabric port (R368). -/
  | tap (p : Nat)
  /-- PEWAKEn# or CLKREQn# asserted at a wake (R384). -/
  | pewake (link : Nat)
  | clkreq (link : Nat)
  /-- A Fielder's load returns a value (R322). -/
  | load (f : Nat) (val : Word)
deriving DecidableEq, Repr

/-! ### Bring-up, links, pins -/

/-- GSTS.MODE (R25). -/
inductive Mode where
  | starting | waiting | sandlotHc | sandlotPass | service
deriving DecidableEq, Repr

/-- The latched straps (R23 to R25): `mgrSel` after R24. -/
structure Straps where
  mgrSel : BitVec 2 := 0
  bifur : Bool := false
  smb : BitVec 2 := 0
  refclk : Bool := false
  passOff : Bool := false
  compat : Bool := false
  err : Bool := false
deriving DecidableEq, Repr

/-- Why the chip is held: nothing, RESET# low, PWRGD_IN low, power-on reset, a thermal trip. -/
structure Hold where
  resetN : Bool := true
  pwrgd : Bool := true
  vddSl : Bool := true
  por : Bool := false
  trip : Bool := false
  /-- PWRGD_IN low holds the chip (R435). -/
  pwrgdHold : Bool := false
  /-- PWRGD_IN has been high since power-on reset ended or WAKE_OUT last rose (R435). -/
  pwrgdSeen : Bool := true
  wakeOut : Bool := true
deriving DecidableEq, Repr

/-- Progress of the bring-up (R26, R29). -/
structure Boot where
  mode : Mode := .starting
  crystal : Bool := false
  pll : Bool := false
  sram : Bool := false
  ready : Bool := false
  fwRunning : Bool := false
  /-- The choice of R29 has been made, or is cancelled (R41). -/
  chosen : Bool := false
deriving DecidableEq, Repr

/-- A PCIe link (R27, R258, R278). -/
structure Link where
  perstN : Bool := true
  pm : LinkPm := .down
  /-- Down without PERSTn# (R258), and the lost-host delay is running. -/
  lost : Bool := false
  delay : Bool := false
  policy : BitVec 2 := 0
  delayCfg : BitVec 8 := 0
  target : BitVec 7 := 0
  down : Bool := false
  chg : Bool := false
  acted : Bool := false
deriving DecidableEq, Repr

/-! ### Firmware loader -/

/-- What the loader is doing (R38, R40, R43). -/
inductive LoadPhase where
  | idle | fetching | verifying | installing
  /-- Swap step a or the restoring copy; b: the started Fielder has not reported; d: the outgoing Fielder drains. -/
  | swapCopy | swapStart | swapDrain
  /-- A suspended role is installed on a bench Fielder before a swap (R406). -/
  | restoreStart
deriving DecidableEq, Repr

/-- A memory of bytes: (address, byte), rising, and no byte that is zero. -/
abbrev Memory := List Host.Cell

/-- The facts of a verified image (R34). -/
structure Image where
  fwVersion : Word := 0
  prevMin : Word := 0
  svn : Nat := 0
  roleMap : List Byte := []
deriving DecidableEq, Repr

structure Loader where
  winPage : BitVec 7 := 0
  drainTo : BitVec 8 := 20
  svnCommit : Bool := false
  err : BitVec 4 := 0
  staged : Bool := false
  busy : Bool := false
  mixed : Bool := false
  swapStep : BitVec 4 := 0
  bench : Option Nat := none
  addr : BitVec 64 := 0
  len : BitVec 21 := 0
  phase : LoadPhase := .idle
  /-- The load in progress applies its image, commits its SVN, and is reported in MGR_STS until verified. -/
  apply : Bool := false
  commit : Bool := false
  inMgr : Bool := false
  /-- Cells borrowed for staging (R37). -/
  cells : Nat := 0
  image : Image := {}
  /-- The running FW_VERSION (R38, R43), and the image a started Fielder runs. -/
  running : Word := 0
  /-- The roles still to place and Fielders still to visit of a swap, in ascending FID; at a first installation, the Fielders that
  get a role (R44); the Fielder being started and the one it takes over from. -/
  roles : List Nat := []
  visit : List Nat := []
  incoming : Nat := 0
  outgoing : Nat := 0
  /-- The swap is halted and FW_SWAP resumes it (R46). -/
  halted : Bool := false
  /-- A halt waits for the next step boundary (R46, R119). -/
  haltReq : Bool := false
  /-- The bank that started Fielders take (R337). -/
  newBank : Bool := false
  /-- The fuse count that a commit under way is to reach; 0: none (R39). -/
  fuseTo : Nat := 0
  /-- ERR, STAGED, the halt, the cells and the image before the FW_LOAD in progress began (R116). -/
  before : Option (BitVec 4 × Bool × Bool × Nat × Image) := none
deriving DecidableEq, Repr

/-! ### Rings -/

/-- An element as fetched and checked (R57, R85). -/
structure Elem where
  ty : Byte := 0
  notify : Bool := false
  chain : Bool := false
  shortOk : Bool := false
  asap : Bool := false
  /-- A reserved bit or encoding is set (R7). -/
  bad : Bool := false
  tag : BitVec 16 := 0
  len : Nat := 0
  cring : Nat := 0
  buffer : Addr := 0
  frame : BitVec 16 := 0
  stream : BitVec 16 := 0
  data : BitVec 64 := 0
  entry : Nat := 0
  /-- When it was fetched, in µs (R192). -/
  at_ : Nat := 0
deriving DecidableEq, Repr

/-- The stage of a control TD (R153, R173). -/
inductive Stage where
  | setup | data | status | done
deriving DecidableEq, Repr

/-- How the TD in progress has ended on the bus, while elements of it are still to come (R66). -/
structure TdEnd where
  code : Byte
  tag : BitVec 16
  /-- The entry at which it ended (R86). -/
  entry : Nat
  /-- The element at which it ended has SHORT_OK clear, so the endpoint stops (R67). -/
  stopShort : Bool := false
  /-- The residue that R173 fixes, where it does. -/
  fixed : Option Nat := none
deriving DecidableEq, Repr

/-- A CHAIN_MID record due once its bytes are confirmed (R65): TAG, CRING, the entry after, and the byte of the TD at which the
element ends. -/
structure Mid where
  tag : BitVec 16
  cring : Nat
  entry : Nat
  upto : Nat
deriving DecidableEq, Repr

/-- The TD at the head of a ring (R59, R66, R448). -/
structure Td where
  /-- Its first transaction has begun. -/
  begun : Bool := false
  stage : Stage := .setup
  /-- Bytes acknowledged on the bus. -/
  moved : Nat := 0
  /-- LENGTH and number of the elements consumed from a TD of more than 16. -/
  eaten : Nat := 0
  nEaten : Nat := 0
  /-- CHAIN_MID records that are due (R65), and how many elements have been looked at for one. -/
  mids : List Mid := []
  nMid : Nat := 0
  /-- IN bytes: the address of the last dword written, the bytes that a confirming read has covered, a confirming read for a
  CHAIN_MID record that is outstanding with the bytes it covers, and its failure (R284, R285). -/
  last : Addr := 0
  sure : Nat := 0
  confirming : Bool := false
  confAt : Nat := 0
  memErr : Bool := false
  /-- The DATA stage ended short, and its element's SHORT_OK (R154). -/
  short : Bool := false
  shortOk : Bool := true
  /-- The bus micro-frame of the last transaction, where one ran (R68). -/
  mf : Option (BitVec 16) := none
  ended : Option TdEnd := none
  /-- The micro-frame at or after which an isochronous element is served (R143, R144). -/
  place : Option (BitVec 16) := none
  /-- Packets moved in this service opportunity (R133). -/
  inOpp : Nat := 0
  /-- A TD of more than 16 elements: when it was filed, in µs (R192). -/
  filedAt : Option Nat := none
deriving DecidableEq, Repr

/-- A TD that has ended and whose record is not yet posted (R14, R66, R105). -/
structure DoneTd where
  inst : Nat
  ring : Nat
  code : Byte
  tag : BitVec 16
  /-- LENGTH over the TD, the bytes moved, and those that count where the confirming read fails. -/
  total : Nat
  moved : Nat
  sure : Nat
  fixed : Option Nat := none
  cring : Nat
  notify : Bool
  /-- The ring's consumer index after the TD, and the entry at which it ended. -/
  cons : Nat
  entry : Nat
  mids : List Mid := []
  mf : Option (BitVec 16) := none
  late : Bool := false
  iso : Bool := false
  stopShort : Bool := false
  /-- TDID of a far endpoint's TD, and the element at which it ended (R344). -/
  tdid : Nat := 0
  elem : Nat := 0
  /-- Its confirming read is outstanding: of the bytes named, where a CHAIN_MID record asked for it (R65). -/
  confirming : Bool := false
  early : Option Nat := none
  last : Addr := 0
  /-- EPOCH and GEN that the result carries (R15); FRAME_ID of an isochronous element that has a window (R143). -/
  epoch : BitVec 6 := 0
  gen : BitVec 8 := 0
  win : Option (BitVec 16) := none
deriving DecidableEq, Repr

/-- A transfer ring (R48, R93, R95). -/
structure Ring where
  live : Bool := false
  base : Addr := 0
  log2 : Nat := 4
  slot : Nat := 0
  ep : Nat := 0
  stream : Nat := 0
  prod : Nat := 0
  cons : Nat := 0
  halted : Bool := false
  lastCring : Option Nat := none
  /-- Elements held, oldest first (at most 16, R56); element reads outstanding, and those of an earlier life of the
  index, whose data is discarded. -/
  elems : List Elem := []
  reads : Nat := 0
  dead : Nat := 0
  td : Td := {}
  /-- A far endpoint (R358): elements forwarded (host node); and for each TD forwarded and not consumed its TDID with, on
  the host node, how far its OUT data is (0 none, 1 its read is outstanding, 2 sent, 3 its read failed), on the home node
  the bytes received. -/
  sent : Nat := 0
  ids : List (Nat × Nat) := []
deriving DecidableEq, Repr

/-- The body of a record before its layout is chosen (R69, R70, R72, R86). -/
inductive Rec where
  | transfer (code : Byte) (tag : BitVec 16) (residue : BitVec 24) (late mid ring : Bool) (srcRing srcCons entry : Nat)
      (mf : Option (BitVec 16))
  | command (code : Byte) (tag : BitVec 16) (result : BitVec 24) (srcCons entry : Nat)
  | event (ev : Byte) (subject : BitVec 16) (d1 d2 : Word)
deriving DecidableEq, Repr

/-- A record held for a full, halted or disabled completion ring (R76 to R78), and the endpoint that waits on it. -/
structure Held where
  body : Rec
  key : Option Nat := none
  /-- FRAME_ID of the isochronous element whose record it is, while its window lasts (R76, R143, R146). -/
  win : Option (BitVec 16) := none
deriving DecidableEq, Repr

/-- A completion ring and its Huddle count and timer (R75, R82). -/
structure CRing where
  live : Bool := false
  base : Addr := 0
  log2 : Nat := 4
  prod : Nat := 0
  cons : Nat := 0
  phase : Bool := true
  halted : Bool := false
  vector : Nat := 0
  held : List Held := []
  count : Nat := 0
  timer : Bool := false
  /-- The timer has run out while a scrum is under way: the decision is due (R376). -/
  due : Bool := false
  /-- Reads of R446 outstanding: the address of each, oldest first. -/
  reads : List Addr := []
deriving DecidableEq, Repr

/-- HUDDLE_CTL (R81). -/
structure Huddle where
  count : BitVec 8 := 1
  time : BitVec 16 := 64
  urgent : Bool := false
  idleCancel : Bool := true
deriving DecidableEq, Repr

/-- An MSI-X table entry, as PCI Express defines it (R83, R425). -/
structure Msix where
  addr : Addr := 0
  data : Word := 0
  mask : Bool := true
deriving DecidableEq, Repr

/-- Where a command stands (R98): fetched; waiting for an earlier one; executing; finished, with its code and RESULT. -/
inductive CmdPhase where
  | fetched | waiting | running
  | done (code : Byte) (result : BitVec 24)
deriving DecidableEq, Repr

/-- A command fetched and not yet posted (R56, R98), with a number of its own. -/
structure Cmd where
  id : Nat
  tag : BitVec 16
  entry : Nat
  kind : CmdKind
  par : BitVec 192
  /-- GET_SCOREBOOK: entries that home nodes have sent so far, and the nodes still to ask (R194). -/
  parts : List Byte := []
  ask : List Nat := []
  /-- Fetched before the command ring was last enabled: its record is posted, the new ring's consumer is not moved (R51). -/
  old : Bool := false
  /-- The Fielder that owns it (R45). -/
  holder : Option Nat := none
  phase : CmdPhase := .fetched
deriving DecidableEq, Repr

/-! ### Carry -/

/-- CH_STS.STATE (R288). -/
inductive ChSt where
  | idle | running | halted | aborting | paused
deriving DecidableEq, Repr

/-- A descriptor (R291, R292). -/
structure Desc where
  src : Addr := 0
  dst : Addr := 0
  next : Addr := 0
  len : Nat := 0
  ctl : BitVec 24 := 0
  tag : BitVec 16 := 0
deriving DecidableEq, Repr

/-- A Carry channel (R288, R298 to R305). -/
structure Chan where
  vector : BitVec 6 := 0
  ie : Bool := false
  hopLimit : BitVec 16 := 0xFFFF
  st : ChSt := .idle
  cmdErr : Bool := false
  confirmRd : Bool := false
  cause : BitVec 4 := 0
  sub : BitVec 4 := 0
  hops : Nat := 0
  /-- CH_DESC and CH_ERR. -/
  desc : Addr := 0
  errAddr : Addr := 0
  lastRes : BitVec 24 := 0
  lastCode : Byte := 0
  seq : BitVec 16 := 0
  /-- The descriptor accepted last, where one has been since START, its address, and the address fetched last. -/
  cur : Option Desc := none
  curAddr : Addr := 0
  fetchAt : Addr := 0
  /-- Bursts whose source read is issued, bursts written, and bursts that a confirming read has confirmed. -/
  begun : Nat := 0
  done : Nat := 0
  conf : Nat := 0
  fetching : Bool := false
  confirming : Bool := false
  /-- The current descriptor has completed. -/
  complete : Bool := false
  /-- An access of the current descriptor failed, with its cause: the descriptor is being settled (R302, R306). -/
  bad : Bool := false
  errCause : BitVec 4 := 0
  /-- Reads outstanding whose data is discarded: fetches, source reads and confirming reads. -/
  deadFetch : Nat := 0
  deadRead : Nat := 0
  deadConf : Nat := 0
  /-- Physical channel (R287). -/
  phys : Option Nat := none
deriving DecidableEq, Repr

/-! ### Instances -/

/-- The settings of a queue (R177). -/
structure Rates where
  weight : BitVec 10 := 64
  cir : BitVec 24 := 0xFFFFFF
  pir : BitVec 24 := 0xFFFFFF
  cbs : BitVec 24 := 65535
  pbs : BitVec 24 := 65535
deriving DecidableEq, Repr

/-- INST_STS.STATE (R236). -/
inductive InstSt where
  | absent | created | active | frozen | resetting | linkLost
deriving DecidableEq, Repr

/-- Quotas, in the order of R237. -/
structure Quota where
  slots : Nat := 0
  peps : Nat := 0
  eps : Nat := 0
  streams : Nat := 0
  crings : Nat := 0
  vectors : Nat := 0
  chans : Nat := 0
deriving DecidableEq, Repr

/-- The mailbox (R280). -/
structure Mbox where
  code : Byte := 0
  busy : Bool := false
  done : Bool := false
  overrun : Bool := false
  ie : Bool := false
  req : Tbl Word := []
  rsp : Tbl Word := []
  /-- The Fielder that owns the request in progress (R45). -/
  holder : Option Nat := none
deriving DecidableEq, Repr

/-- An ENUM_FAIL entry (R281). -/
structure EnumFail where
  root : BitVec 16
  route : BitVec 20
  reason : Byte
  attempts : Byte
deriving DecidableEq, Repr

/-- An instance: its page, rings, vectors, channels and mailbox (R235). -/
structure Inst where
  st : InstSt := .absent
  escalated : Bool := false
  gen : BitVec 8 := 0
  compat : Bool := false
  vfOn : Bool := false
  quota : Quota := {}
  /-- The state a reset returns to (R250), and what else joined it. -/
  back : InstSt := .active
  joinDestroy : Bool := false
  /-- INST_RESET or INST_DESTROY waits for this reset in MGR_STS. -/
  inMgr : Bool := false
  -- command ring (R50)
  cmdBase : Addr := 0
  cmdLog2 : Nat := 4
  cmdEn : Bool := false
  cmdProd : Nat := 0
  cmdCons : Nat := 0
  cmdHalted : Bool := false
  /-- Next entry to be fetched; reads outstanding, and those whose data is discarded. -/
  cmdNext : Nat := 0
  cmdReads : Nat := 0
  cmdDead : Nat := 0
  cmds : List Cmd := []
  cring0Base : Addr := 0
  evtOvf : Bool := false
  ovfDue : Bool := false
  dbErr : Bool := false
  errAddr : Addr := 0
  rings : Tbl Ring := []
  crings : Tbl CRing := []
  huddle : Tbl Huddle := []
  msix : Tbl Msix := []
  fmask : Bool := false
  pend : BitVec 64 := 0
  portSel : BitVec 16 := 0
  portViews : Tbl (BitVec 32) := []
  stsBase : Addr := 0
  stsEn : Bool := false
  chans : Tbl Chan := []
  mbox : Mbox := {}
  enumFails : List EnumFail := []
  samples : Word := 0
  /-- Orphan notifications are due when both rings are enabled (R251). -/
  orphans : Bool := false
  /-- Results dropped by the checks of R15; bumps of GEN that wait for a result in flight (R249). -/
  drops : Word := 0
  genDue : Nat := 0
  /-- Nodes that have been sent the settings of R177, and, for an instance of another node, the settings it sent, by bus. -/
  told : List Nat := []
  farSet : Tbl Rates := []
  /-- The link of an instance of another node is in L0 or L1 (R278). -/
  farUp : Bool := true
deriving DecidableEq, Repr

/-! ### Slots and endpoints -/

/-- Slot STATE (R92). -/
inductive SlotSt where
  | disabled | enabled | default | addressed
deriving DecidableEq, Repr

/-- A slot context (R91), and what the services hold for it (R265, R273). The key is the index on this node, or
256 × (node + 1) + index for a slot on another node. -/
structure Slot where
  st : SlotSt := .disabled
  owner : BitVec 7 := 0
  root : BitVec 16 := 0
  route : BitVec 20 := 0
  speed : BitVec 4 := 0
  addr : BitVec 7 := 0
  prev : BitVec 7 := 0
  mps0 : BitVec 11 := 0
  ttSlot : BitVec 12 := 0
  ttPort : BitVec 8 := 0
  mtt : Bool := false
  ttThink : BitVec 2 := 0
  epMask : BitVec 32 := 0
  orphan : Bool := false
  /-- The device is gone and its TDs are being ended (R92). -/
  leaving : Bool := false
  /-- The host node and instance of a far owner (R239). -/
  far : Option (Nat × Nat) := none
  /-- Enumerated by the service (R265); its enumeration still runs; a service hub (R269). -/
  managed : Bool := false
  busy : Bool := false
  hub : Bool := false
  /-- Placed here by ASSIGN_DEVICE behind a connector of another instance (R248, R252). -/
  moved : Bool := false
  shared : Option Nat := none
  devDesc : List Byte := []
  cfgDesc : List Byte := []
  bosDesc : List Byte := []
  /-- The report descriptors, one for each HID descriptor of the configuration, in its order (R273). -/
  repDescs : List (List Byte) := []
  /-- Ports of a service hub that over-current switched off, and whether RESCAN has come since (R271). -/
  offPorts : List (Nat × Bool) := []
  cls : Byte := 0
  vid : BitVec 16 := 0
  pid : BitVec 16 := 0
  /-- Members of a share group whose view is withdrawn (R274). -/
  noView : List Nat := []
deriving DecidableEq, Repr

/-- Endpoint STATE and TYPE (R93, R94). -/
inductive EpSt where
  | disabled | stopped | running | halted
deriving DecidableEq, Repr

inductive EpTy where
  | control | isoch | bulk | interrupt
deriving DecidableEq, Repr

/-- Why a stop has been asked of an endpoint (R94, R105). -/
inductive StopWhy where
  /-- STOP_EP, a halted ring: the TD is settled with a record, and EPOCH is bumped where that ends Running. -/
  | settle
  /-- DISABLE_SLOT, DESTROY_RING: settled, without a bump of its own (R96). -/
  | quit
  /-- Port reset, reassignment, RESET_EP: settled, Stopped from every state, and EPOCH is bumped (R92, R94, R111). -/
  | reset
  /-- Taken out of service: settled and left Stopped, without a bump (R96, R132). -/
  | unfit
  /-- Instance reset or link loss: results are dropped (R250, R258). -/
  | drop
  /-- A route change: settled, and the endpoint stays Running (R150). -/
  | reroute
  /-- The device is gone or its node lost: every TD handed over ends with this code (R92, R94). -/
  | gone (code : Byte)
deriving DecidableEq, Repr

/-- A read of host memory for an endpoint that is outstanding: of OUT data, or a confirming read; the instance, and the EPOCH and
GEN it carries (R15). -/
structure Flight where
  out : Bool
  inst : Nat
  epoch : BitVec 6
  gen : BitVec 8
deriving DecidableEq, Repr

/-- Rally: the cadence and the override (R165 to R167). -/
structure Rally where
  gap : Nat := 0
  readyAt : Nat := 0
  held : Bool := false
  ovr : Bool := false
  start : Nat := 0
  max : Nat := 0
  linear : Bool := false
  inc : Nat := 0
deriving DecidableEq, Repr

/-- A SET_ADDRESS transfer: the command it belongs to, the address it sends, whether KEEP sent the previous one, and the
slot as it was before the command (R102). -/
structure SetAddr where
  inst : Nat
  cmd : Nat
  addr : BitVec 7
  kept : Bool := false
  /-- The slot before it, and with the parameters that it takes when the transfer begins. -/
  old : Slot
  new : Slot
deriving DecidableEq, Repr

/-- A share-group member's view of an endpoint (R274): its ring, its own state and epoch, and the report delivered to it
last (R275). -/
structure View where
  ring : Nat := 0
  st : EpSt := .stopped
  epoch : BitVec 6 := 0
  last : List Byte := []
deriving DecidableEq, Repr

/-- An endpoint context (R93). The key is 32 × slot key + EP_MASK bit number. -/
structure Ep where
  st : EpSt := .disabled
  ty : EpTy := .control
  maxPacket : Nat := 0
  maxBurst : Nat := 0
  mult : Nat := 0
  interval : Nat := 0
  maxStreams : Nat := 0
  epoch : BitVec 6 := 0
  ring : Nat := 0
  seq : BitVec 5 := 0
  strikes : Nat := 0
  rally : Rally := {}
  reserve : BitVec 16 := 0
  ctx : Nat := 0
  pep : Option Nat := none
  /-- The phase that its admission returned (R131). -/
  phase : Nat := 0
  /-- Taken out of service by a speed change (R132). -/
  unfit : Bool := false
  /-- SuperSpeed flow control (R161): waits for ERDY; an ERDY that came without a filed TD is remembered; packets that the device
  has said it takes: 16 before it has said anything. DESIGN CHOICE, log entry 56. -/
  nrdy : Bool := false
  erdy : Bool := false
  numP : Nat := 16
  pingDue : Bool := false
  /-- A start-split has been acknowledged; the complete-split is next (R159). -/
  split : Bool := false
  /-- Current stream, stream served last, stream the device named (R162, R163). -/
  stream : Nat := 0
  lastStream : Nat := 0
  named : Nat := 0
  /-- Streams: rings by stream ID, and wanted streams (R95, R163). -/
  streams : Tbl Nat := []
  wanted : List Nat := []
  /-- Data of the next OUT packet is in the packet buffer, or its read is outstanding (R13). -/
  staged : Bool := false
  staging : Bool := false
  /-- Bytes that are staged or being staged. -/
  stagedLen : Nat := 0
  /-- Reads of host memory outstanding, oldest first; bumps of EPOCH that wait (R97). -/
  flights : List Flight := []
  due : Nat := 0
  cells : Nat := 0
  stop : Option StopWhy := none
  /-- The stop settled a TD (R105). -/
  settled : Bool := false
  /-- TDs ended and not yet reported, in the order in which they ended. -/
  done : List DoneTd := []
  /-- The last isochronous opportunity taken (R144). -/
  lastOpp : Option (BitVec 16) := none
  /-- The SET_ADDRESS transfer of ADDRESS_DEVICE (R102). -/
  setAddr : Option SetAddr := none
  saStage : Stage := .setup
  /-- Service endpoint (R262), and its reports in cells that are not yet examined (R276). -/
  service : Bool := false
  unread : Nat := 0
  /-- Views of share-group members by instance (R274), the report delivered last and the member it went to (R277),
  whether the descriptor declares report IDs, and whether the interface is a keyboard. -/
  views : Tbl View := []
  lastReport : List Byte := []
  lastTo : Option Nat := none
  reportId : Bool := false
  keyboard : Bool := false
  /-- Usages of the keyboard's report examined last, and a release report due to a member's next TD (R277). -/
  keysDown : List Byte := []
  release : Option (Nat × List Byte) := none
  /-- Home node: cells kept under each DATA_IN and RESULT frame that awaits E2E_ACK, oldest first (R358). -/
  kept : List Nat := []
  /-- Host node: a stop of the far endpoint has been forwarded (R359). -/
  asked : Bool := false
  /-- A route change settles the TD in progress: on the host node it ends LATE; the home node still takes elements of the
  EPOCH before (R150, R359). -/
  rerouted : Bool := false
deriving DecidableEq, Repr

/-! ### Scheduling -/

/-- An entry of a PEP within one service (R124): its micro-frame, counted from eight before that of the PEP's phase;
KIND; PART; cost. -/
structure Entry where
  at_ : Nat := 8
  kind : Nat := 0
  part : Nat := 0
  cost : Nat := 0
deriving DecidableEq, Repr

/-- A periodic endpoint record (R123, R125, R135, R136). An add is `live`, and a drop takes effect, at the bus's next
boundary (R126). -/
structure Pep where
  used : Bool := false
  key : Nat := 0
  bus : Nat := 0
  /-- Order of admission on the chip. -/
  order : Nat := 0
  phase : Nat := 0
  interval : Nat := 0
  skip : Nat := 0
  iso : Bool := false
  live : Bool := false
  dropping : Bool := false
  entries : List Entry := []
  /-- Translator budget, and the start B and cost C placed on it. -/
  tt : Option Nat := none
  ttB : Nat := 0
  ttC : Nat := 0
  /-- Fabric port and bytes per opportunity charged for a far endpoint (R148). -/
  fabPort : Nat := 0
  fabric : Nat := 0
deriving DecidableEq, Repr

/-- A translator budget (R134): hub slot key and port (0: the whole hub). -/
structure Tt where
  used : Bool := false
  hub : Nat := 0
  port : Nat := 0
deriving DecidableEq, Repr

/-- What occupies a bus. -/
structure OnBus where
  key : Nat
  /-- Periodic service; PART or split kind; a stop of the bus for LPM has no key. -/
  periodic : Bool := false
  kind : Nat := 0
  part : Nat := 0
  /-- Last complete-split of the service (R137). -/
  last : Bool := true
  place : Nat := 0
  /-- A PING (R158), the LPM transaction of the port (R152), the SET_ADDRESS transfer. -/
  ping : Bool := false
  lpm : Bool := false
  sa : Bool := false
  /-- The bus micro-frame in which it began (R68). -/
  mf : BitVec 16 := 0
  /-- EPOCH and GEN that it carries (R15). -/
  epoch : BitVec 6 := 0
  gen : BitVec 8 := 0
deriving DecidableEq, Repr

/-- A bus: Pitch, its Lineup position, and the Referee's clock (R140, R180, R189). -/
structure Bus where
  ovhPkt : BitVec 8 := 8
  ovhTxn : BitVec 8 := 16
  stuff : BitVec 2 := 0
  cweight : BitVec 10 := 64
  v : BitVec 40 := 0
  /-- The tags of a queue of the bus that nothing has touched, raised as R181 says. -/
  idleTag : BitVec 40 := 0
  decisions : Word := 0
  yellow : Word := 0
  mf : BitVec 16 := 0
  /-- No SOF or keep-alive has gone out since signalling on the port ended: nothing is served yet (R207, R216). -/
  noSof : Bool := false
  /-- Periodic entries of the running slot still to run: endpoint key, kind, last complete-split. -/
  todo : List (Nat × Nat × Nat × Bool) := []
  on : Option OnBus := none
  /-- A SuperSpeed burst paused for the periodic services of a bus interval (R141). -/
  paused : Option OnBus := none
  /-- Byte-time at which the bus is free in this micro-frame (R141). -/
  pos : Nat := 0
  miss : Word := 0
  /-- Cells that asynchronous and periodic work of the bus holds (R11, R142). -/
  cells : Nat := 0
  pcells : Nat := 0
  /-- An LPM transaction waits (R152): its BESL. -/
  lpm : Option (BitVec 4) := none
deriving DecidableEq, Repr

/-- Colours of R182. -/
inductive Colour where
  | green | yellow | red
deriving DecidableEq, Repr

/-- A queue: settings, buckets, tags, counters, Scorebook record (R177 to R182, R192). The key is 256 × bus + place. -/
structure Queue where
  weight : BitVec 10 := 64
  cir : BitVec 24 := 0xFFFFFF
  pir : BitVec 24 := 0xFFFFFF
  cbs : BitVec 24 := 65535
  pbs : BitVec 24 := 65535
  ctok : Int := 65535
  ptok : Int := 65535
  s : BitVec 40 := 0
  f : BitVec 40 := 0
  /-- Member of the eligible set at the last look. -/
  inSet : Bool := false
  wUsed : Nat := 64
  green : Bool := true
  services : Word := 0
  lenBytes : Nat := 0
  /-- The endpoint context number served last (R151). -/
  rr : Nat := 0
  far : Option (Nat × Nat) := none
  depth : Nat := 0
  depthMax : Nat := 0
  age : Nat := 0
  ageMax : Nat := 0
  hist : Tbl Word := []
  yellowSvc : Word := 0
  heldRed : Word := 0
  colour : BitVec 2 := 0
  /-- SERVICES, LEN_KIB, YELLOW and HELD_RED at the last sample (R195, R197). -/
  snap : Word × Word × Word × Word := (0, 0, 0, 0)
  /-- The service on the bus was selected green; its buckets that were limited then (R178). -/
  greenUsed : Bool := true
  cLim : Bool := false
  pLim : Bool := false
  /-- Counted red in this micro-frame. -/
  redCounted : Bool := false
  /-- Rates of SET_RATES that apply from the bus's next decision (R178, R183). -/
  next : Option Rates := none
deriving DecidableEq, Repr

/-- RALLY_CLASSn (R165). -/
structure RallyClass where
  start : BitVec 10
  max : BitVec 10
  linear : Bool := false
  inc : BitVec 10 := 0
deriving DecidableEq, Repr

/-! ### Ports and the hubs -/

/-- What a port command waits for (R111, R112, R215): the instance and the command's number. -/
abbrev CmdRef := Nat × Nat

/-- A device that enumeration gave up: its bus and ROUTE, the ENUM_FAIL reason (0: parked without a failure), and its
speed (R267, R268). -/
structure Parked where
  bus : Nat
  route : BitVec 20
  reason : Nat
  speed : BitVec 4
deriving DecidableEq, Repr

/-- An enumeration in progress (R265 to R267). The key is 2^20 × bus + ROUTE. `step` 0: none; 1: the port is being
reset, and `again` is the step that follows; 5: a hub is configured, or report descriptors are read. -/
structure EnumJob where
  step : Nat := 0
  again : Nat := 2
  /-- Failures of steps 2, 3 and 4. -/
  fail2 : Nat := 0
  fail3 : Nat := 0
  fail4 : Nat := 0
  slot : Option Nat := none
  speed : BitVec 4 := 0
  mps0 : BitVec 11 := 0
  /-- The address being sent. -/
  addr : BitVec 7 := 0
  /-- The hub is configured again after its owner's port reset (R271). -/
  redo : Bool := false
  /-- The Fielder that owns it (R45, R283). -/
  holder : Option Nat := none
deriving DecidableEq, Repr

/-- A root port (R201 to R204, R207); `st` is the STATE code. -/
structure Port where
  st : Nat := 0
  speed : BitVec 4 := 0
  connected : Bool := false
  powered : Bool := false
  oc : Bool := false
  pass : Bool := false
  owner : BitVec 7 := 0x7F
  /-- The owner on another node: its node and instance (R252); `owner` then reads none. -/
  farOwner : Option (Nat × Nat) := none
  chg : BitVec 7 := 0
  bc : BitVec 2 := 0
  chargeOnly : Bool := false
  besl : BitVec 4 := 0
  /-- BESL of the L1 request under way. -/
  askBesl : BitVec 4 := 0
  cause : BitVec 4 := 0
  src : Option (BitVec 5) := none
  trips : BitVec 16 := 0
  babble : BitVec 8 := 0
  disabled : BitVec 8 := 0
  resumeLost : BitVec 8 := 0
  bounce : BitVec 8 := 0
  /-- The K in progress left L1; the recovery follows a resume; the resume's cause so far. -/
  fromL1 : Bool := false
  afterResume : Bool := false
  nowCause : BitVec 4 := 0
  /-- Reset signalling is on the wire: the stops of R111 are complete. -/
  se0 : Bool := false
  /-- No suspend since a device-initiated resume; the pending PORT_RESUME is answered ALREADY (R215). -/
  devResumed : Bool := false
  already : Bool := false
  wasSpeed : BitVec 4 := 0
  /-- The pull-up as it changed while the port logic slept: 0 lost, 1 or 2 of a low- or full-speed device (R384). -/
  seen : Option (BitVec 4) := none
  /-- STATE before the reset in progress began (R45). -/
  before : Nat := 0
  resetCmd : Option CmdRef := none
  suspendCmd : Option CmdRef := none
  resumeCmd : Option CmdRef := none
  /-- SVC_PORTn (R263); no automatic power after a trip or POWER_OFF, nor after the owner's power-off (R279); and a DCP
  power cycle, with the mode to come (R223). -/
  svc : BitVec 10 := 0
  noAuto : Bool := false
  ownerOff : Bool := false
  cycle : Option (BitVec 2) := none
  /-- POC#[n] is low; the deglitch count runs (R221); ports the last trip of this ball switched off (R222). -/
  pocLow : Bool := false
  deglitch : Bool := false
  tripped : Bool := false
  tripOwners : List Nat := []
  /-- A trip in RETAIN or DORMANT whose report follows the wake: the ports it switched off (R221). -/
  tripDue : Option (BitVec 24) := none
  /-- Parked devices behind the connector (R267, R268). -/
  parked : List Parked := []
deriving DecidableEq, Repr

/-- A SuperSpeed companion (R201, R204, R205, R211). -/
structure Ssp where
  st : Nat := 0
  speed : BitVec 4 := 0
  connected : Bool := false
  chg : BitVec 7 := 0
  trainFail : BitVec 8 := 0
  recovery : BitVec 8 := 0
  inactive : BitVec 8 := 0
  lanes : BitVec 2 := 0
  u1 : BitVec 7 := 0
  u2 : BitVec 8 := 4
  acceptDev : Bool := true
  timeouts : Nat := 0
  tries : Nat := 0
  cause : BitVec 4 := 0
  nowCause : BitVec 4 := 0
  exiting : Bool := false
  se0 : Bool := false
  wasSpeed : BitVec 4 := 0
  /-- The termination as it changed while the port logic slept (R384). -/
  seen : Option Bool := none
  /-- STATE before the reset in progress began, and whether it is a warm reset (R45, R229). -/
  before : Nat := 0
  warm : Bool := false
  resetCmd : Option CmdRef := none
  resumeCmd : Option CmdRef := none
deriving DecidableEq, Repr

/-- A downstream port of a Pass-mode hub, as its status and change bits (R228, R229). -/
structure HubPort where
  power : Bool := false
  cConn : Bool := false
  cEnable : Bool := false
  cSuspend : Bool := false
  cOc : Bool := false
  cReset : Bool := false
  cBh : Bool := false
  cLink : Bool := false
  cConfig : Bool := false
  u1 : Byte := 0
  u2 : Byte := 0
  wakeMask : Byte := 0
  forceAccept : Bool := false
  test : Byte := 0
deriving DecidableEq, Repr

/-- One hub of the pair (R228 to R231). -/
structure Hub where
  addr : BitVec 7 := 0
  configured : Bool := false
  wake : Bool := false
  suspended : Bool := false
  depth : Byte := 0
  /-- The status endpoint is halted; U1_ENABLE, U2_ENABLE and the test mode of the upstream port (R229). -/
  halted : Bool := false
  u1On : Bool := false
  u2On : Bool := false
  test : Byte := 0
  ports : Tbl HubPort := []
deriving DecidableEq, Repr

/-- The UFP and its registers (R224). -/
structure Pass where
  hubEn : Bool := false
  ssEn : Bool := true
  vbus : Bool := false
  hs : Bool := false
  ssLink : Bool := false
  ssSpeed : BitVec 4 := 0
  vid : BitVec 16 := Config.vid
  pidHs : BitVec 16 := Config.pidHs
  pidSs : BitVec 16 := Config.pidSs
  usb2 : Hub := {}
  usb3 : Hub := {}
deriving DecidableEq, Repr

/-! ### Manager, SMBus, services -/

/-- The manager registers and the command in progress (R115, R116). -/
structure Mgr where
  arg0 : Word := 0
  arg1 : Word := 0
  arg2 : Word := 0
  arg3 : Word := 0
  code : Byte := 0
  busy : Bool := false
  done : Bool := false
  overrun : Bool := false
  ie : Bool := false
  result : BitVec 16 := 0
  /-- A number for the command in progress, so that a continuation of an interrupted one reports nothing. -/
  ticket : Nat := 0
  /-- Opcode of a firmware-executed command in progress, and the Fielder that owns it (R45). -/
  op : Nat := 0
  holder : Option Nat := none
deriving DecidableEq, Repr

/-- The SMBus target and the escapes (R243 to R245, R382, R413). -/
structure Smb where
  readOff : BitVec 16 := 0
  /-- Events with the micro-frame of their queueing. -/
  events : List (BitVec 16 × Rec) := []
  evtOvf : Bool := false
  peek : Nat := 0
  escKeyed : Bool := false
  escDone : Bool := false
  escRefused : Bool := false
  /-- A FREEZE escape recorded by the Sideline while the core is off (R382): target and THAW. -/
  deferred : Option (Byte × Bool) := none
deriving DecidableEq, Repr

/-- A member's stored values in a share group (R275). -/
structure Member where
  /-- By interface and report ID: 256 × the interface's place + the ID. -/
  reports : Tbl (List Byte) := []
  idle : Option Byte := none
  protocol : Option Byte := none
  wake : Bool := false
deriving DecidableEq, Repr

/-- A report or a write of FOCUS that waits while forwarding pauses in a live swap (R283). -/
inductive ShareItem where
  | report (key : Nat) (bytes : List Byte)
  | focus (g m : Nat)
deriving DecidableEq, Repr

/-- A share group (R272). Members' stored values are keyed 128 × slot + instance. -/
structure Share where
  ctl : BitVec 24 := 0
  mem0 : Word := 0
  mem1 : Word := 0
  focus : Nat := 0
  switches : BitVec 16 := 0
  members : Tbl Member := []
  /-- Reports are withheld after a hot-key switch (R277). -/
  withhold : Bool := false
deriving DecidableEq, Repr

/-- The capture registers (R190, R193, R241, R310) and LINEUP_SEL (R127). -/
structure Capture where
  refSel : Word := 0
  refData : Tbl Word := []
  sbSel : Word := 0
  sbData : Tbl Word := []
  poolSel : Word := 0
  poolData : Tbl Word := []
  carrySel : Word := 0
  carryData : Word := 0
  lineupSel : Word := 0
  fetchTo : BitVec 8 := 10
  instShare : BitVec 5 := 4
  sbK : BitVec 4 := 3
  sbEn : Bool := true
  sbLastMf : BitVec 16 := 0
  /-- N of the sample point that is being taken (R191). -/
  sbPoint : BitVec 16 := 0
  sbBusy : Bool := false
  sbSkipped : BitVec 15 := 0
  uartEn : Bool := false
  scratch : BitVec 16 := 0
  compatDefault : Bool := false
  deglitch : BitVec 5 := 8
  linkIe : Bool := false
deriving DecidableEq, Repr

/-! ### Fielders and the Whistle -/

/-- ENG_STS.STATE (R317). -/
inductive FSt where
  | boot | waiting | active | bench | test | halted | retired
deriving DecidableEq, Repr

/-- A Fielder: the CSRs of R314 and R316, the local registers of R320, and its place (R317). -/
structure Fielder where
  st : FSt := .boot
  role : BitVec 3 := 0
  vbank : Bool := false
  wfi : Bool := false
  mie : Bool := false
  mpie : Bool := false
  meie : Bool := false
  mtvec : Word := 0
  mscratch : Word := 0
  mepc : Word := 0
  mcause : Word := 0
  mtval : Word := 0
  cycles : BitVec 64 := 0
  retired : BitVec 64 := 0
  pc : Word := 0x00040000
  regs : Tbl Word := []
  claim : Option (Nat × Nat) := none
  thresh : BitVec 4 := 0
  wake : BitVec 5 := 0
  lastSrc : BitVec 9 := 0
  ftimer : BitVec 25 := 0
  ftRun : Bool := false
  /-- The microsecond at which the countdown of FTIMER began. -/
  ftFrom : Nat := 0
  ready : Bool := false
  fwdog : BitVec 16 := 0
  barked : Bool := false
  offer : Option Nat := none
  doneErr : Bool := false
  /-- The role's only instruction RAM copy is bad (R406); it takes over this Fielder's role. -/
  badIram : Bool := false
  takes : Option Nat := none
  /-- A role this Fielder held when it was suspended (R406). -/
  suspRole : Option (BitVec 3) := none
  /-- Runs the image that is being swapped in (R46). -/
  newImage : Bool := false
  /-- Its role waits for the bench of the step boundary at which the swap halts (R406). -/
  owed : Bool := false
deriving DecidableEq, Repr

/-- A Whistle source (R326 to R331). -/
structure Src where
  sense : BitVec 3 := 0
  en : Bool := false
  prio : BitVec 4 := 0
  group : BitVec 5 := 0
  targets : BitVec 12 := 0
  pend : Bool := false
  serv : Bool := false
  line : Bool := false
  /-- The Fielder after which the search starts: F11 at reset. -/
  rr : Nat := 11
  vec0 : Word := 0
  vec1 : Word := 0
deriving DecidableEq, Repr

/-- A hold-off group (R327, R336). -/
structure Grp where
  holdoff : BitVec 12 := 0
  remain : BitVec 12 := 0
deriving DecidableEq, Repr

/-! ### Power -/

/-- Where the chip is between RUN and DORMANT (R372, R377, R385, R386). -/
inductive PwrSt where
  | run | doze
  | phase1
  /-- Phase 2: stop steps done so far, 0 to 13. -/
  | phase2 (n : Nat)
  | ap1 | ap2 | ap3 | ap4
  | retain | dormant
  /-- Exit steps: 1 regulator, 2 oscillator and PLL, 3 memory, 4 logic. -/
  | exiting (n : Nat)
deriving DecidableEq, Repr

/-- The step that DVFS is taking (R392). -/
inductive DvfsSt where
  | idle | raise | settle | lower
deriving DecidableEq, Repr

structure Pwr where
  target : BitVec 2 := 0
  limit : BitVec 2 := 3
  st : PwrSt := .run
  /-- The target of the entry in progress, or of the state being left. -/
  goal : BitVec 2 := 0
  lastAp : BitVec 3 := 0
  unwound : Bool := false
  lastExit : BitVec 2 := 0
  entries : BitVec 16 := 0
  refuse1 : BitVec 16 := 0
  refuse2 : BitVec 16 := 0
  refBlock : BitVec 6 := 0
  refPhase : BitVec 2 := 0
  refTarget : BitVec 2 := 0
  refStep : BitVec 4 := 0
  wakeEn : BitVec 9 := 0x7F
  wkBlock : BitVec 6 := 0
  wkFrom : BitVec 2 := 0
  wkDetail : Byte := 0
  wkAp : BitVec 3 := 0
  wakeTime : Word := 0
  /-- A wake waits to be acted on at the next abort point, or at the end of step 6 (R378, R379). -/
  wakeDue : Bool := false
  held : Bool := false
  autoRetain : Bool := true
  wakeGpio : Word := 0
  slTimer : Word := 0
  /-- SL_TIMER expired while the Whistle was stopped: source 469 is still to be set (R373). -/
  slDue : Bool := false
  slTime : Word := 0
  high : Byte := 110
  low : Byte := 100
  warn : Byte := 130
  temp : Int := 0
  hotRuns : Nat := 0
  cap : BitVec 2 := 0
  tripped : Bool := false
  /-- POWER has reported DOZE since TARGET was written 1; STATE 0 is due at the next write of 0 (R375). -/
  dozeTold : Bool := false
  dozeDue : Bool := false
  /-- Release of the throttle has begun: TEMP has stayed below LOW (R394). -/
  relaxed : Bool := false
  /-- CLK_ENG that the DVFS step in progress switches to; VRDY has been seen in exit step 1 (R386, R392). -/
  stepFreq : BitVec 2 := 0
  vrdySeen : Bool := false
  freq : BitVec 2 := 0
  vmin : BitVec 2 := 0
  freqNow : BitVec 2 := 0
  vid : BitVec 4 := 4
  /-- VID to return to at the exit from RETAIN (R393). -/
  vOld : BitVec 4 := 4
  dvfs : DvfsSt := .idle
  pending : Bool := false
  vrdyTo : Bool := false
  steps : BitVec 16 := 0
  /-- PPE balls that the pad-hold latches drive high (R383, R389). -/
  ppeHeld : BitVec 24 := 0
  /-- Connectors whose DCP data-line short the latches keep (R279). -/
  dcpHeld : BitVec 24 := 0
  /-- WAKE_LAST's source 464 becomes pending once the Whistle runs (R384). -/
  wakeSrc : Bool := false
  /-- Levels of GPIO[15:0] as last seen. -/
  gpio : BitVec 16 := 0
deriving DecidableEq, Repr

/-! ### Reliability -/

/-- A fault-log entry (R411). -/
structure Flog where
  seq : Word := 0
  time : Word := 0
  mf : BitVec 16 := 0
  block : BitVec 6 := 0
  cls : Byte := 0
  outcome : Byte := 0
  state : Byte := 0
  count : BitVec 16 := 0
  loc : BitVec 64 := 0
  d0 : Word := 0
  d1 : Word := 0
deriving DecidableEq, Repr

/-- A replay check that is queued or runs (R400 to R402), and the log slot of its error; it is kept with whether the fault
is a second lasting one of its class (R416). -/
inductive CheckJob where
  | sram (bank row word : Nat) (slot : Nat)
  | fielder (f : Nat) (slot : Nat)
  | lane (lane : Nat) (slot : Nat)
deriving DecidableEq, Repr

/-- A bank: counters, the row under check and its shadow, the repair map (R402, R403, R409). -/
structure Bank where
  corrected : BitVec 16 := 0
  uncorr : BitVec 8 := 0
  row : Option Nat := none
  /-- The check's log slot; its shadow copy is complete; the bits it found. -/
  slot : Nat := 0
  copied : Bool := false
  /-- The fault came before the check of a lasting one of its class had ended (R416). -/
  second : Bool := false
deriving DecidableEq, Repr

/-- A repaired row (R403): bank, row, and whether an injected fault took it (R421). -/
structure Repair where
  bank : Nat
  row : Nat
  spare : Nat
  injected : Bool := false
deriving DecidableEq, Repr

/-- What OTP_COMMIT blows (R403). -/
inductive OtpItem where
  | row (r : Repair)
  | fielder (f : Nat)
deriving DecidableEq, Repr

structure Rel where
  flog : Tbl Flog := []
  oldest : Nat := 0
  unread : Nat := 0
  lost : BitVec 16 := 0
  next : Nat := 0
  seq : Word := 0
  ce : BitVec 16 := 0
  ue : BitVec 16 := 0
  auto : Bool := true
  otpCommit : Bool := false
  laneTh : Byte := 16
  scrub : Byte := 8
  kind : BitVec 2 := 0
  res : BitVec 2 := 0
  target : BitVec 5 := 0
  checks : BitVec 16 := 0
  queue : List (CheckJob × Bool) := []
  banks : Tbl Bank := []
  fielderJob : Option (Nat × Nat × Bool) := none
  /-- Lane checks that run: the lane, its log slot, whether it is a second fault of its class, and the SPEED or lanes before. -/
  laneJobs : List (Nat × Nat × Bool × Nat) := []
  /-- FAULT_LOGGED events that wait for the core to run again (R414). -/
  evDue : List Rec := []
  suspended : BitVec 8 := 0
  repairs : List Repair := []
  /-- Retirements that the Sideline or OTP records (R403). -/
  retired : List Nat := []
  otpLeft : Nat := Config.otpLeft
  /-- Commits still to blow, with the log slot each belongs to; and the row repairs and retirements that OTP holds beyond those of
  production test (R22, R403). -/
  otpDue : List (Nat × OtpItem) := []
  otpRows : List Repair := []
  otpFielders : List Nat := []
  laneDown : BitVec 20 := 0
  /-- Times of the errors of each lane in its window, in µs (R400). -/
  laneErr : Tbl (List Nat) := []
  /-- Times of corrected errors per row key 1024 × bank + row, newest first (R402), in SL_TIME. -/
  rowCe : Tbl (List Word) := []
  scrubRow : Nat := 0
deriving DecidableEq, Repr

/-- The Spin registers (R419, R420). -/
structure Spin where
  stage : Bool := false
  unlocked : Bool := false
  dma : Word := 0
  credit : Word := 0
  nak : Word := 0
  fab : Word := 0
  sof : Word := 0
  ecc : Word := 0
  refuse : Word := 0
  /-- Posted-credit updates are withheld; receive credits withheld, by port, class and number; services since the last
  synthetic NAK. -/
  holding : Bool := false
  fabHold : Option (Nat × Nat × Nat) := none
  nakCnt : Nat := 0
deriving DecidableEq, Repr

/-! ### Fabric -/

/-- A fabric port (R343, R346, R347, R354); `st` is the STATE code. -/
structure FabPort where
  st : Nat := 0
  lanes : Nat := 0
  tapSeen : Bool := false
  peer : Option (BitVec 4) := none
  peerUid : BitVec 64 := 0
  peerCaptain : BitVec 64 := 0
  delay : BitVec 16 := 0
  crc : Byte := 0
  replays : Byte := 0
  laneLoss : Byte := 0
  downs : Byte := 0
  txSeq : BitVec 12 := 0
  rxSeq : BitVec 12 := 0
  unacked : Nat := 0
  tries : Nat := 0
  nakSent : Bool := false
  /-- Credits granted by the peer for TC0, TC1 and TC2; credits to return to it, and those withheld for want of cells. -/
  credits : Nat × Nat × Nat := (16, 44, 4)
  owed : Nat × Nat × Nat := (0, 0, 0)
  withheld : Nat × Nat × Nat := (0, 0, 0)
  /-- Frames that wait to be sent, oldest first: class, destination, KIND, value. -/
  queue : List (Nat × Nat × Nat × Nat) := []
deriving DecidableEq, Repr

/-- What a node knows of another: its number, its preference, its neighbours' UIDs on FA and FB (R350 step 3). -/
structure NodeInfo where
  node : Option (BitVec 4) := none
  pref : Option (BitVec 4) := none
  fa : BitVec 64 := 0
  fb : BitVec 64 := 0
deriving DecidableEq, Repr

/-- FAB_ROUTE (R355). -/
structure Route where
  port : BitVec 2 := 0
  hops : BitVec 4 := 0
  altPort : BitVec 2 := 0
  altHops : BitVec 4 := 0
  member : Bool := false
  uidTag : BitVec 16 := 0
deriving DecidableEq, Repr

structure Fab where
  en : Bool := false
  faEn : Bool := true
  fbEn : Bool := true
  sleepOk : Bool := false
  tapTx : Bool := true
  helloLoss : BitVec 4 := 3
  role : BitVec 2 := 0
  forming : Bool := false
  sleepGrant : Bool := false
  count : Nat := 1
  topo : BitVec 16 := 0
  node : BitVec 4 := 0
  valid : Bool := false
  pref : BitVec 4 := 0
  prefEn : Bool := false
  captain : BitVec 4 := 0
  captainUid : BitVec 64 := 0
  offset : BitVec 12 := 0
  trim : BitVec 16 := 0
  locked : Bool := false
  routes : Tbl Route := []
  /-- The members by number, and the neighbour lists by UID (R350, R351). -/
  members : List (BitVec 4 × BitVec 64) := []
  graph : Tbl NodeInfo := []
  candidate : BitVec 64 := Config.uid
  round : Nat := 0
  /-- The next TDID this host node gives (R344). -/
  tdid : BitVec 16 := 0
  /-- A topology received and not yet installed (R350 step 4). -/
  install : Option ProtoMsg := none
  asked : List (BitVec 4) := []
  /-- This node has asked its captain for sleep (R369). -/
  asking : Bool := false
  /-- Frames dropped because their destination is unreachable (R352). -/
  dropped : Nat := 0
  /-- Far commands awaiting REPLY: tag + 65536 × node to (instance, command). -/
  proxies : Tbl CmdRef := []
  ports : Tbl FabPort := []
deriving DecidableEq, Repr

/-! ### Work that waits for endpoints to settle -/

/-- What goes on when what it waited for has come about (R105, R126). -/
inductive Cont where
  /-- An instance's command is finished with a code and RESULT. -/
  | finish (inst cmd : Nat) (code : Byte) (result : BitVec 24)
  | stopEp (inst cmd key : Nat)
  | stopAll (inst cmd : Nat) (keys : List Nat)
  | disableSlot (inst cmd slot : Nat)
  /-- The rings of a slot are gone; the slot goes once its Lineup entries have (R108, R126). -/
  | clearSlot (inst cmd slot : Nat)
  /-- CONFIGURE_EP with DROP, and RESET_EP, once the endpoint is settled (R103, R104, R126). -/
  | dropEp (inst cmd key : Nat)
  | resetEp (inst cmd key : Nat)
  /-- SET_DEQUEUE of a ring, at an index, with or without a bump of its own (R107). -/
  | setDequeue (inst cmd ring idx : Nat) (bump : Bool)
  | destroyRing (inst cmd ring : Nat)
  /-- DESTROY_RING of a completion ring that endpoints held records for (R78, R110). -/
  | destroyCring (inst cmd ring : Nat)
  /-- Reset signalling on a bus may begin (R111). -/
  | portReset (bus : Nat) (warm : Bool)
  /-- The slot is gone, with a DETACH reason (R92); its command, where one ends so. -/
  | detach (slot reason : Nat)
  /-- A command of a port ends DEV_GONE after the DETACH of its devices (R79, R111, R112). -/
  | portGone (inst cmd : Nat)
  /-- PORT_POWER off, once the slots behind the port are gone (R113). -/
  | powerOff (inst cmd bus : Nat)
  /-- A connector or a device passes to another owner (R252, R253): the slots, with the ticket of the manager command. -/
  | movePort (ticket : Option Nat) (port owner : Nat) (pass keep : Bool) (slots : List Nat)
  | moveSlot (ticket : Option Nat) (slot owner : Nat)
  /-- OVERCURRENT of a trip, with the ports switched off and their owners; its end (R221, R222). -/
  | overcurrent (poc : Nat) (ports : BitVec 24) (owners : List Nat)
  | ocClear (poc : Nat) (owners : List Nat)
  /-- A manager command that bumped GEN completes with it (R249). -/
  | genDone (ticket inst : Nat)
  /-- Steps 4 to 6 of an instance reset (R250); VF disable. -/
  | instReset (inst : Nat)
  /-- An endpoint is settled and needs nothing more (R132, R150). -/
  | none
deriving DecidableEq, Repr

/-- Waits until the endpoints have settled, their records are posted where `posted`, and the Lineup changes of the PEPs
have taken effect. -/
structure Wait where
  keys : List Nat := []
  posted : Bool := true
  peps : List Nat := []
  /-- Member views whose ended TDs must have been reported: endpoint and instance (R274). -/
  views : List (Nat × Nat) := []
  /-- Commands, by instance and number, that must have finished first (R253 step 1). -/
  cmds : List (Nat × Nat) := []
  /-- Instances whose GEN must have been bumped first (R249). -/
  gens : List Nat := []
  /-- STATE of the endpoints before their stops, which a cancelled command returns to (R45). -/
  was : List (Nat × EpSt) := []
  cont : Cont
deriving DecidableEq, Repr

/-! ### The chip -/

/-- TESTMODE and JTAG (R314, R376; 17_balls_electrical.md; log entry 82): the level of the ball, whether a debugger is attached, and the
Fielders it holds halted. -/
structure Jtag where
  testMode : Bool := false
  attached : Bool := false
  held : List Nat := []
deriving DecidableEq, Repr

/-- Everything of the block but its command queue and the staging memory. -/
structure Chip where
  straps : Straps := {}
  jtag : Jtag := {}
  hold : Hold := {}
  boot : Boot := {}
  link0 : Link := {}
  link1 : Link := {}
  fuse : Nat := 0
  otpKey : Bool := true
  fw : Loader := {}
  mgr : Mgr := {}
  smb : Smb := {}
  cap : Capture := {}
  mf : BitVec 16 := 0
  /-- Microseconds counted on the core clocks: Rally's clock and the Scorebook's (R167, R192). -/
  us : Nat := 0
  /-- Microseconds since the tick, at the latest step that names them (R121; log entry 11). -/
  usNow : Nat := 0
  insts : Tbl Inst := []
  slots : Tbl Slot := []
  eps : Tbl Ep := []
  peps : Tbl Pep := []
  pepOrder : Nat := 0
  tts : Tbl Tt := []
  buses : Tbl Bus := []
  queues : Tbl Queue := []
  rally : Tbl RallyClass := []
  ports : Tbl Port := []
  ssps : Tbl Ssp := []
  pass : Pass := {}
  shares : Tbl Share := []
  jobs : Tbl EnumJob := []
  shareWait : List ShareItem := []
  internals : Tbl Chan := []
  fielders : Tbl Fielder := []
  srcs : Tbl Src := []
  grps : Tbl Grp := []
  locks : Tbl (Option Nat) := []
  /-- The Fielder RAM (R20, R311), by the address of Ops.lean: each Fielder's instruction and data RAM, and the shared RAM. -/
  ram : Memory := []
  pwr : Pwr := {}
  rel : Rel := {}
  spin : Spin := {}
  fab : Fab := {}
  waits : List Wait := []
  /-- Numbers commands and manager commands as they begin. -/
  ids : Nat := 1
  /-- The next free value to use (log entry 2). -/
  free : Nat := 0
  /-- Outputs so far, the latest first (log entry 1). -/
  out : List Out := []
deriving DecidableEq, Repr

/-- The block: the commands that wait, first in first out, the staging memory, and the chip. -/
structure State where
  pending : List Instr := []
  /-- The staging memory behind FW_WINDOW (R37, log entry 4). -/
  stage : Memory := []
  chip : Chip := {}
deriving DecidableEq, Repr

/-- Why a step stops. -/
inductive Fault where
  /-- A REGISTER_WRITE names a BAR that the function does not have, or an offset past its end (R234): the address does
  not exist. Safe: the part answers no such request. -/
  | noSuchAddress
deriving DecidableEq, Repr

/-- Why a step has no meaning. -/
inductive Refusal where
  /-- A command not modelled yet, by its mnemonic; raised by the dispatch alone. Safe. -/
  | notModelled (mnemonic : String)
deriving DecidableEq, Repr

/-- A PF as reset leaves it: it always exists (R232); ACTIVE from the start (log entry 7). Its eight channels are bound to
physical channels from `base` on (R287). -/
def pfReset (base : Nat) (compat : Bool) : Inst :=
  { st := .active, vfOn := true, compat := compat, chans := (List.range 8).map (fun k => (k, { phys := some (base + k) })) }

/-- Right after the reset of a power-up: RESET# has risen, every strap reads 0 (R23), GSTS.MODE is STARTING
(R26 step 1), nothing runs yet, and every register holds its reset value. -/
def State.reset : State :=
  { pending := [], stage := [], chip := { insts := [(0, pfReset 0 false)] } }

end Sys2Proof.Machine
end

