-- ==== Sys2Proof/Machine/Records.lean ====
section
/-! DEFINITION. Completion rings, records, events, Huddle and MSI-X (R65 to R88, R446): what one instance does to its own
rings, and the postings of the chip. -/

namespace Sys2Proof.Machine

/-- Completion codes (R74). -/
def ccSuccess : Byte := 0x01
def ccShort : Byte := 0x02
def ccStall : Byte := 0x03
def ccBabble : Byte := 0x04
def ccXactErr : Byte := 0x05
def ccDataBuf : Byte := 0x06
def ccMissed : Byte := 0x07
def ccStopped : Byte := 0x08
def ccAborted : Byte := 0x09
def ccRingErr : Byte := 0x0A
def ccBandwidth : Byte := 0x0B
def ccNoSlot : Byte := 0x0C
def ccDevGone : Byte := 0x0D
def ccQuota : Byte := 0x0E
def ccHostMem : Byte := 0x0F
def ccFabricLost : Byte := 0x10
def ccTtErr : Byte := 0x11
def ccParam : Byte := 0x12
def ccResumeLost : Byte := 0x13

/-- Event numbers (R72). -/
def evPortChange : Byte := 0x01
def evAttach : Byte := 0x02
def evDetach : Byte := 0x03
def evOvercurrent : Byte := 0x04
def evPower : Byte := 0x05
def evFabric : Byte := 0x06
def evFirmware : Byte := 0x07
def evError : Byte := 0x08
/-- The SUBJECT of an event that concerns no port (R73). -/
def noSubject : BitVec 16 := 0x00FF

/-! ### Accessors of the chip's tables -/

def Chip.inst (c : Chip) (n : Nat) : Inst := Tbl.get {} c.insts n
def Chip.slot (c : Chip) (k : Nat) : Slot := Tbl.get {} c.slots k
def Chip.ep (c : Chip) (k : Nat) : Ep := Tbl.get {} c.eps k
def Chip.pep (c : Chip) (k : Nat) : Pep := Tbl.get {} c.peps k
def Chip.port (c : Chip) (k : Nat) : Port := Tbl.get {} c.ports k
def Chip.ssp (c : Chip) (k : Nat) : Ssp := Tbl.get {} c.ssps k
def Chip.bus (c : Chip) (k : Nat) : Bus := Tbl.get {} c.buses k
def Chip.share (c : Chip) (k : Nat) : Share := Tbl.get {} c.shares k
def Chip.fielder (c : Chip) (k : Nat) : Fielder := Tbl.get {} c.fielders k
def Chip.src (c : Chip) (k : Nat) : Src := Tbl.get {} c.srcs k
def Chip.grp (c : Chip) (k : Nat) : Grp := Tbl.get {} c.grps k

def Chip.updInst (c : Chip) (n : Nat) (f : Inst → Inst) : Chip := { c with insts := Tbl.upd {} c.insts n f }
def Chip.updSlot (c : Chip) (k : Nat) (f : Slot → Slot) : Chip := { c with slots := Tbl.upd {} c.slots k f }
def Chip.updEp (c : Chip) (k : Nat) (f : Ep → Ep) : Chip := { c with eps := Tbl.upd {} c.eps k f }
def Chip.updPort (c : Chip) (k : Nat) (f : Port → Port) : Chip := { c with ports := Tbl.upd {} c.ports k f }
def Chip.updSsp (c : Chip) (k : Nat) (f : Ssp → Ssp) : Chip := { c with ssps := Tbl.upd {} c.ssps k f }
def Chip.updBus (c : Chip) (k : Nat) (f : Bus → Bus) : Chip := { c with buses := Tbl.upd {} c.buses k f }

/-- A queue of a bus that nothing has touched (R177, R181), the queue under a key, and changes to one and to all. -/
def Chip.idleQueue (c : Chip) (b : Nat) : Queue := { s := (c.bus b).idleTag, f := (c.bus b).idleTag }
def Chip.queue (c : Chip) (k : Nat) : Queue := Tbl.get (c.idleQueue (k / 256)) c.queues k
def Chip.updQueue (c : Chip) (k : Nat) (f : Queue → Queue) : Chip :=
  { c with queues := Tbl.upd (c.idleQueue (k / 256)) c.queues k f }
def Chip.mapQueues (c : Chip) (f : Nat → Queue → Queue) : Chip :=
  { c with queues := (c.queues.map (fun e => (e.1, f e.1 e.2))).filter (fun e => decide (e.2 ≠ c.idleQueue (e.1 / 256))) }

/-- The chip puts something on one of its interfaces. -/
def Chip.emit (c : Chip) (o : Out) : Chip := { c with out := o :: c.out }

/-! ### One instance and its outputs -/

/-- An instance at work: its state, the outputs so far, and the next free value. -/
structure IW where
  x : Inst
  out : List Out
  free : Nat

def Chip.onInst (c : Chip) (n : Nat) (f : IW → IW) : Chip :=
  let w := f { x := c.inst n, out := c.out, free := c.free }
  { c with insts := Tbl.set {} c.insts n w.x, out := w.out, free := w.free }

def IW.emit (w : IW) (o : Out) : IW := { w with out := o :: w.out }

/-- Results of an instance in reset, lost or absent reach no ring, and it sends no MSI-X message (R250, R258). -/
def Inst.deaf (x : Inst) : Bool := x.st == .absent || x.st == .resetting || x.st == .linkLost

/-- An MSI-X message for a table entry: sent, or its pending bit set while masked (R83). -/
def IW.msix (w : IW) (n entry : Nat) : IW :=
  if w.x.deaf then w
  else if w.x.fmask || (Tbl.get {} w.x.msix entry).mask then
    { w with x := { w.x with pend := w.x.pend ||| BitVec.ofNat 64 (2 ^ entry) } }
  else w.emit (.msix n entry)

/-- A COMPAT record's code (R87). -/
def compatCode (code : Byte) : Byte :=
  if code = 0x0E then 0x0C
  else if code = 0x0F then 0x06
  else if code = 0x10 then 0x0D
  else if code = 0x11 then 0x05
  else if code = 0x12 then 0x0A
  else if code = 0x13 then 0x09
  else code

/-- The TIMESTAMP of a record posted in chip micro-frame `mf` (R68). -/
def Rec.stamp (r : Rec) (mf : BitVec 16) : BitVec 16 :=
  match r with
  | .transfer _ _ _ _ _ _ _ _ _ (some m) => m
  | _ => mf

/-- The four dwords of a native record (R68 to R72). -/
def Rec.native (r : Rec) (gen : BitVec 8) (mf : BitVec 16) (phase : Bool) : Word × Word × Word × Word :=
  let d3 := toWord ((r.stamp mf).toNat + 2 ^ 16 * gen.toNat + flagAt phase 31)
  match r with
  | .transfer code tag residue late mid ring srcRing srcCons _ _ =>
    (toWord (code.toNat + 2 ^ 16 * tag.toNat),
      toWord (residue.toNat + flagAt late 24 + flagAt mid 25 + flagAt ring 26),
      toWord (srcRing + 2 ^ 16 * srcCons), d3)
  | .command code tag result srcCons _ =>
    (toWord (code.toNat + 2 ^ 8 + 2 ^ 16 * tag.toNat), toWord result.toNat, toWord (2 ^ 16 * srcCons), d3)
  | .event ev subject d1 d2 => (toWord (ev.toNat + 2 ^ 9 + 2 ^ 16 * subject.toNat), d1, d2, d3)

/-- The four dwords of a COMPAT record (R86). RESIDUE of a transfer ring's fault and the middle field of OVERCURRENT are
not given: `open24` stands there (log entry 2). -/
def Rec.compat (r : Rec) (mf : BitVec 16) (phase : Bool) (open24 : Nat) : Word × Word × Word × Word :=
  let ts := (r.stamp mf).toNat
  match r with
  | .transfer code _ residue _ _ ring srcRing _ entry _ =>
    (toWord (srcRing + 2 ^ 16 * entry),
      toWord ((if ring then (if srcRing = 0 then 0 else open24) else residue.toNat)
        + 2 ^ 24 * (compatCode code).toNat),
      toWord ts, toWord (flagAt phase 0 + flagAt (ring && srcRing == 0) 1))
  | .command code _ result _ entry =>
    (toWord (2 ^ 16 * entry), toWord (result.toNat + 2 ^ 24 * (compatCode code).toNat), toWord ts,
      toWord (flagAt phase 0 + 2))
  | .event ev subject d1 d2 =>
    (0, toWord ((if ev = evPortChange then fld d1 6 0 + 2 ^ 8 * fld d2 11 0 else open24) + 2 ^ 24),
      toWord (ts + 2 ^ 16 * ev.toNat + 2 ^ 24 * fld subject 7 0), toWord (flagAt phase 0 + 4))

/-- A record whose COMPAT form has an open field. -/
def Rec.opens : Rec → Bool
  | .transfer _ _ _ _ _ ring srcRing _ _ _ => ring && srcRing != 0
  | .event ev _ _ _ => ev != evPortChange
  | _ => false

/-- What a COMPAT instance is never sent (R88). -/
def Rec.compatSilent : Rec → Bool
  | .transfer _ _ _ _ mid _ _ _ _ _ => mid
  | .event ev _ _ _ => ev != evPortChange && ev != evOvercurrent
  | _ => false

def Rec.isEvent : Rec → Bool
  | .event _ _ _ _ => true
  | _ => false

def Rec.isCommand : Rec → Bool
  | .command _ _ _ _ _ => true
  | _ => false

def CRing.size (r : CRing) : Nat := 2 ^ r.log2
def CRing.full (r : CRing) : Bool := (r.prod + 1) % r.size == r.cons
/-- A record can be written to the ring now (R51, R76, R78). -/
def CRing.takes (r : CRing) : Bool := r.live && !r.halted && !r.full

def Inst.cring (x : Inst) (k : Nat) : CRing := Tbl.get {} x.crings k
def Inst.updCring (x : Inst) (k : Nat) (f : CRing → CRing) : Inst := { x with crings := Tbl.upd {} x.crings k f }
def Inst.hud (x : Inst) (k : Nat) : Huddle := Tbl.get {} x.huddle k

/-- Address of the record written last to a ring. -/
def CRing.lastAddr (r : CRing) : Addr := r.base + BitVec.ofNat 64 (16 * ((r.prod + r.size - 1) % r.size))

/-- A Huddle decision (R82), and the read of R446 that follows it. -/
def IW.decision (w : IW) (n k : Nat) : IW :=
  let r := w.x.cring k
  let h := w.x.hud k
  let w := { w with x := w.x.updCring k (fun r => { r with count := 0, timer := false, due := false, reads := r.reads ++ [r.lastAddr] }) }
  let w := if h.idleCancel && r.cons == r.prod then w else w.msix n r.vector
  w.emit (.hostRead n r.lastAddr 16)

/-- A posted record is counted, and may cause a decision (R82 steps 1 to 3). -/
def IW.count (w : IW) (n k : Nat) (urgent : Bool) : IW :=
  let h := w.x.hud k
  let w := { w with x := w.x.updCring k (fun r => { r with count := r.count + 1, timer := true }) }
  if decide (h.count.toNat ≤ (w.x.cring k).count) || (urgent && h.urgent) then w.decision n k else w

/-- Writes a record at the producer of a ring that takes it (R75, R86). -/
def IW.put (w : IW) (n k : Nat) (mf : BitVec 16) (b : Rec) : IW :=
  let r := w.x.cring k
  let d := if w.x.compat then b.compat mf r.phase ((Config.freeWord w.free).toNat % 2 ^ 24)
    else b.native w.x.gen mf r.phase
  let w := if w.x.compat && b.opens then { w with free := w.free + 1 } else w
  let w := w.emit (.record n k r.prod d.1 d.2.1 d.2.2.1 d.2.2.2)
  let w := { w with x := w.x.updCring k (fun r =>
    { r with prod := (r.prod + 1) % r.size, phase := if r.prod + 1 = r.size then !r.phase else r.phase }) }
  w.count n k (b.isEvent || b.isCommand)

/-- The events held for ring 0. -/
def Inst.evtHeld (x : Inst) : Nat := ((x.cring 0).held.filter (fun h => h.body.isEvent)).length

/-- A queued PORT_CHANGE for the same port. -/
def sameChange (b : Rec) (h : Held) : Bool :=
  match b, h.body with
  | .event e s _ _, .event e' s' _ _ => e == evPortChange && e' == evPortChange && s == s'
  | _, _ => false

/-- Merges a PORT_CHANGE into a queued one: the change bits are ORed, the status replaced (R77). -/
def mergeChange (b : Rec) (h : Held) : Held :=
  match b, h.body with
  | .event _ _ d1 d2, .event e s d1' _ => { h with body := .event e s (d1 ||| d1') d2 }
  | _, _ => h

/-- A record that cannot be written waits (R76). An event that finds the queue full sets EVT_OVF and makes EVENT_OVERFLOW due,
merged (R50) or dropped (R77). -/
def IW.hold (w : IW) (k : Nat) (h : Held) : IW :=
  if h.body.isEvent && decide (32 ≤ w.x.evtHeld) then
    { w with x := { w.x.updCring k (fun r => { r with held := updFirst (sameChange h.body) (mergeChange h.body) r.held }) with
      evtOvf := true, ovfDue := true } }
  else { w with x := w.x.updCring k (fun r => { r with held := r.held ++ [h] }) }

/-- FRAME_ID lies outside the window of R143 at micro-frame `mf`. -/
def outsideWindow (frame mf : BitVec 16) : Bool := decide (7161 ≤ (frame - mf).toNat) && decide ((frame - mf).toNat ≤ 65527)

/-- A record completes MISSED_SERVICE. -/
def Rec.missed : Rec → Rec
  | .transfer _ tag residue late mid ring srcRing srcCons entry mf =>
    .transfer ccMissed tag residue late mid ring srcRing srcCons entry mf
  | b => b

/-- A held isochronous record whose window has passed completes MISSED_SERVICE (R76, R143, R146). -/
def Held.aged (h : Held) (mf : BitVec 16) : Held :=
  match h.win with
  | some frame => if outsideWindow frame mf then { h with body := h.body.missed, win := none } else h
  | none => h
def Held.ripe (h : Held) (mf : BitVec 16) : Rec := (h.aged mf).body

/-- The records that an instance holds, at a tick. -/
def Inst.aged (x : Inst) (mf : BitVec 16) : Inst :=
  { x with crings := Tbl.mapv {} x.crings (fun _ r => { r with held := r.held.map (fun h => h.aged mf) }) }

/-- The EVENT_OVERFLOW event (R77). -/
def overflowEvent : Rec := .event evError noSubject 0x01 0

/-- Posts what a ring held, as far as it now takes records (R76, R77). -/
def IW.flush (w : IW) (n k : Nat) (mf : BitVec 16) : Nat → IW
  | 0 => w
  | f + 1 =>
    let r := w.x.cring k
    if !r.takes then w
    else
      match r.held with
      | h :: t =>
        let w := { w with x := w.x.updCring k (fun r => { r with held := t }) }
        (w.put n k mf (h.ripe mf)).flush n k mf f
      | [] =>
        if k = 0 ∧ w.x.ovfDue = true then
          let w := { w with x := { w.x with ovfDue := false } }
          if w.x.compat then w else w.put n 0 mf overflowEvent
        else w

def IW.flushAll (w : IW) (n k : Nat) (mf : BitVec 16) : IW := w.flush n k mf ((w.x.cring k).held.length + 1)

/-- A record becomes due to a ring: written, or held behind the records that already wait. -/
def IW.post (w : IW) (n k : Nat) (mf : BitVec 16) (h : Held) : IW :=
  if w.x.compat && h.body.compatSilent then w
  else if (w.x.cring k).takes && (w.x.cring k).held.isEmpty && !(k == 0 && w.x.ovfDue) then w.put n k mf h.body
  else (w.hold k h)

/-- The ring a record goes to: ring 0 where its own does not exist (R48, R66). -/
def Inst.ringFor (x : Inst) (k : Nat) : Nat := if (x.cring k).live then k else 0

/-! ### Postings of the chip -/

/-- The next hop's port, and the hops, from this node to another (R352, R355). -/
def Chip.hopsTo (c : Chip) (node : Nat) : Nat := (Tbl.get {} c.fab.routes node).hops.toNat
def Chip.portTo (c : Chip) (node : Nat) : Nat := (Tbl.get {} c.fab.routes node).port.toNat

def Chip.fabPort (c : Chip) (p : Nat) : FabPort := Tbl.get {} c.fab.ports p
def Chip.updFab (c : Chip) (p : Nat) (f : FabPort → FabPort) : Chip :=
  { c with fab := { c.fab with ports := Tbl.upd {} c.fab.ports p f } }

/-- Credits of a class, and one more or fewer of it. -/
def crGet (t : Nat × Nat × Nat) (tc : Nat) : Nat := if tc = 0 then t.1 else if tc = 1 then t.2.1 else t.2.2
def crSet (t : Nat × Nat × Nat) (tc v : Nat) : Nat × Nat × Nat :=
  if tc = 0 then (v, t.2.1, t.2.2) else if tc = 1 then (t.1, v, t.2.2) else (t.1, t.2.1, v)
def crAdd (a b : Nat × Nat × Nat) : Nat × Nat × Nat := (a.1 + b.1, a.2.1 + b.2.1, a.2.2 + b.2.2)

/-- A waiting frame may leave: at most 64 are unacknowledged, its class has a credit, and routed frames pass (R343, R346,
R347); a PROTOCOL frame passes to a neighbour before membership. -/
def FabPort.may (p : FabPort) (x : Nat × Nat × Nat × Nat) : Bool :=
  (p.st == 3 || (p.st == 2 && x.2.2.1 == 8)) && decide (p.unacked < 64) && decide (0 < crGet p.credits x.1)

/-- The first waiting frame in the order of R348 that may leave: TC0, TC2, TC1. -/
def FabPort.first (p : FabPort) : Option (Nat × Nat × Nat × Nat) :=
  let of (tc : Nat) : Option (Nat × Nat × Nat × Nat) := (p.queue.find? (fun x => x.1 == tc)).filter p.may
  (of 0).or ((of 2).or (of 1))

/-- Takes the first entry that equals `x` out of a list. -/
def dropFirst {α : Type} [DecidableEq α] (x : α) : List α → List α
  | [] => []
  | y :: t => if y = x then t else y :: dropFirst x t

/-- The port sends what may leave (R346 to R348). -/
def Chip.drainFab (c : Chip) (p : Nat) : Nat → Chip
  | 0 => c
  | f + 1 =>
    match (c.fabPort p).first with
    | none => c
    | some x =>
      ((c.updFab p (fun q => { q with
        queue := dropFirst x q.queue, unacked := q.unacked + 1, txSeq := q.txSeq + 1
        credits := crSet q.credits x.1 (crGet q.credits x.1 - 1) })).emit (.frame p x.2.1 x.2.2.1 x.2.2.2)).drainFab p f

def Chip.sendFab (c : Chip) (p : Nat) (x : Nat × Nat × Nat × Nat) : Chip :=
  (c.updFab p (fun q => { q with queue := q.queue ++ [x] })).drainFab p 64

/-- The class of a frame (R348): TC0 for periodic endpoints, TC2 for COMMAND, REPLY, EVENT and PROTOCOL, else TC1. -/
def frameClass (kind : Nat) (per : Bool) : Nat := if kind = 4 ∨ kind = 5 ∨ kind = 6 ∨ kind = 8 then 2 else if per then 0 else 1

/-- A frame towards a node that is not reachable is dropped and counted (R352). -/
def Chip.dropFrame (c : Chip) : Chip := { c with fab := { c.fab with dropped := c.fab.dropped + 1 } }

/-- A routed frame of this node (R344): sent towards its destination where that is reachable (R352). -/
def Chip.sendFrame (c : Chip) (dst kind val : Nat) (per : Bool := false) : Chip :=
  let p := c.portTo dst
  if p = 1 ∨ p = 2 then c.sendFab (p - 1) (frameClass kind per, dst, kind, val) else c.dropFrame

/-- An instance of another node is kept here under 128 × (node + 1) + its number. -/
def farInst (node inst : Nat) : Nat := 128 * (node + 1) + inst
def instNode (n : Nat) : Nat := n / 128 - 1
def farOf (n : Nat) : Nat × Nat := (n / 128 - 1, n % 128)

/-- What an instance of another node is told: REPLY and EVENT (R345, R357). -/
def Chip.postFar (c : Chip) (n : Nat) (b : Rec) : Chip :=
  match b with
  | .command code tag result _ _ => c.sendFrame (instNode n) 0x05 (tag.toNat + 2 ^ 16 * code.toNat + 2 ^ 24 * result.toNat)
  | .event ev subject d1 d2 =>
    c.sendFrame (instNode n) 0x06 (ev.toNat + 2 ^ 8 * subject.toNat + 2 ^ 24 * d1.toNat + 2 ^ 56 * d2.toNat)
  | _ => c

def Chip.post (c : Chip) (n k : Nat) (h : Held) : Chip :=
  if 128 ≤ n then c.postFar n h.body
  else c.onInst n (fun w => if w.x.deaf then w else w.post n (w.x.ringFor k) c.mf h)

/-- An event for an instance, on its ring 0. -/
def Chip.event (c : Chip) (n : Nat) (ev : Byte) (subject : BitVec 16) (d1 d2 : Word) : Chip :=
  c.post n 0 { body := .event ev subject d1 d2 }

/-- The SMBus manager's event queue: 32 events, merged or dropped when full (R244). -/
def Smb.queue (m : Smb) (b : Rec) (mf : BitVec 16) : Smb :=
  if m.events.length < 32 then { m with events := m.events ++ [(mf, b)] }
  else if m.events.any (fun r => sameChange b { body := r.2 }) then
    { m with events := updFirst (fun r => sameChange b { body := r.2 }) (fun r => (r.1, (mergeChange b { body := r.2 }).body)) m.events }
  else { m with evtOvf := true }

/-- An event for the manager: PF0's ring 0, or the SMBus event queue (R72, R242). -/
def Chip.mgrEvent (c : Chip) (ev : Byte) (subject : BitVec 16) (d1 d2 : Word) : Chip :=
  if c.straps.mgrSel = 1 then { c with smb := c.smb.queue (.event ev subject d1 d2) c.mf }
  else c.event 0 ev subject d1 d2

/-- DB_ERR and the DB_DISCARD event of a discarded doorbell (R55). -/
def Chip.dbDiscard (c : Chip) (n : Nat) (v : Word) : Chip :=
  (c.updInst n (fun x => { x with dbErr := true })).event n evError noSubject 0x03 v

/-- This chip's node number in SUBJECT and SLOT fields: 0 outside a fabric (R73). -/
def Chip.nodeNo (c : Chip) : Nat := if c.fab.valid then c.fab.node.toNat else 0

/-- The port code of a bus, and the bus of a port code (R73). -/
def busCode (b : Nat) : Nat := if b < 24 then b else b + 8
def codeBus (k : Nat) : Option Nat :=
  if k < 24 then some k else if 0x20 ≤ k ∧ k < 0x28 then some (k - 8) else none
def Chip.subject (c : Chip) (b : Nat) : BitVec 16 := BitVec.ofNat 16 (busCode b + 2 ^ 8 * c.nodeNo)

/-- The connector of a bus, and the index of its OWNER: the port register group (R198). -/
def busPort (b : Nat) : Nat := if b < 24 then b else b - 24
def Chip.portOwner (c : Chip) (b : Nat) : BitVec 7 := (c.port (busPort b)).owner
def nobody : BitVec 7 := 0x7F

end Sys2Proof.Machine
end

