-- ==== Sys2Proof/Machine/Whistle.lean ====
section
/-! DEFINITION. The Whistle and what a Fielder does to itself (R311 to R341): sources, offers, commits, claims, WFI,
timers, locks. The instructions a Fielder executes are seen here by their effects on these registers alone. -/

namespace Sys2Proof.Machine

def Chip.updSrc (c : Chip) (k : Nat) (f : Src → Src) : Chip := { c with srcs := Tbl.upd {} c.srcs k f }
def Chip.updGrp (c : Chip) (k : Nat) (f : Grp → Grp) : Chip := { c with grps := Tbl.upd {} c.grps k f }
def Chip.updFielder (c : Chip) (k : Nat) (f : Fielder → Fielder) : Chip := { c with fielders := Tbl.upd {} c.fielders k f }

/-- Sources without a hardware line (R341). -/
def noLine (s : Nat) : Bool :=
  decide (s < 32) || s == 399 || s == 407 || s == 415 || (decide (424 ≤ s) && decide (s < 432))
    || (decide (453 ≤ s) && decide (s < 464)) || (decide (470 ≤ s) && decide (s < 480))

/-- SENSE in force (R326): NO_LINE sources read 2. -/
def senseOf (n : Nat) (s : Src) : Nat := if noLine n then 2 else s.sense.toNat
def isLevel (n : Nat) (s : Src) : Bool := decide (senseOf n s ≤ 1)
/-- A level line is asserted (R328). -/
def asserted (n : Nat) (s : Src) : Bool := isLevel n s && (if senseOf n s = 0 then s.line else !s.line)

/-! ### Offers (R330, R331, R333) -/

/-- The source may be offered or wake a Fielder. -/
def Chip.srcOpen (c : Chip) (s : Src) : Bool :=
  s.pend && !s.serv && s.en && s.prio != 0 && (c.grp s.group.toNat).remain == 0

/-- The wake condition of R323. -/
def Chip.wakes (c : Chip) (f : Nat) (s : Src) : Bool :=
  let x := c.fielder f
  c.srcOpen s && bitAt s.targets f && x.st == .active && decide (x.thresh < s.prio)

/-- The Fielder can be offered the source (R330). -/
def Chip.canTake (c : Chip) (f : Nat) (s : Src) : Bool :=
  let x := c.fielder f
  c.wakes f s && x.claim.isNone && x.mie && x.meie

/-- Highest PRIO first, then the lowest number. -/
def insSource (x : Nat × Src) : List (Nat × Src) → List (Nat × Src)
  | [] => [x]
  | y :: t => if y.2.prio < x.2.prio then x :: y :: t else y :: insSource x t

/-- The Fielders in ascending FID after a pointer, with wrap (R331). -/
def afterPtr (rr : Nat) : List Nat := (List.range 12).map (fun k => (rr + 1 + k) % 12)

/-- One source is offered to the first Fielder that can take it and has no offer. -/
def Chip.offerOne (c : Chip) (n : Nat) (s : Src) : Chip :=
  if (List.range 12).any (fun f => (c.fielder f).offer == some n) then c
  else
    match (afterPtr s.rr).find? (fun f => c.canTake f s && (c.fielder f).offer.isNone) with
    | some f => c.updFielder f (fun x => { x with offer := some n })
    | none => c

/-- Offers that no longer hold are withdrawn, and pending sources are offered. -/
def Chip.offers (c : Chip) : Chip :=
  let c := (List.range 12).foldl (fun (c : Chip) f =>
    match (c.fielder f).offer with
    | some n => if c.canTake f (c.src n) then c else c.updFielder f (fun x => { x with offer := none })
    | none => c) c
  ((c.srcs.filter (fun s => s.2.pend)).foldr insSource []).foldl (fun (c : Chip) (s : Nat × Src) => c.offerOne s.1 s.2) c

/-- A source fires (R328). -/
def Chip.pend (c : Chip) (n : Nat) : Chip := (c.updSrc n (fun s => { s with pend := true })).offers

/-! ### Lines and registers -/

/-- WHISTLE_LINE_CHANGE (R328). -/
def Src.lineTo (n : Nat) (s : Src) (level : Bool) : Src :=
  let x := { s with line := level }
  match senseOf n s with
  | 0 => if s.serv then x else { x with pend := level }
  | 1 => if s.serv then x else { x with pend := !level }
  | 2 => { x with pend := s.pend || (level && !s.line) }
  | 3 => { x with pend := s.pend || (!level && s.line) }
  | _ => { x with pend := s.pend || level != s.line }

def Chip.lineChange (c : Chip) (n : Nat) (level : Bool) : Chip :=
  if noLine n then c else (c.updSrc n (fun s => s.lineTo n level)).offers

/-- An ACTIVE Fielder writes the Whistle (R325). -/
def Chip.byActive (c : Chip) (f : Nat) (act : Chip → Chip) : Chip := if (c.fielder f).st = .active then act c else c

/-- WSRC_CFG_WRITE (R326, R329, R333); a reserved SENSE leaves that field. -/
def Chip.wsrcCfg (c : Chip) (f n : Nat) (val : Word) : Chip :=
  c.byActive f (fun c =>
    (c.updSrc n (fun s => { s with
      sense := if noLine n ∨ 5 ≤ fld val 2 0 then s.sense else BitVec.ofNat 3 (fld val 2 0)
      en := bitAt val 3, prio := BitVec.ofNat 4 (fld val 7 4), group := BitVec.ofNat 5 (fld val 12 8)
      targets := BitVec.ofNat 12 (fld val 27 16) })).offers)

/-- WPEND_SET_WRITE. -/
def Chip.wpendSet (c : Chip) (f k : Nat) (val : Word) : Chip :=
  c.byActive f (fun c => (forUpTo 32 (fun i c =>
    if bitAt val i then c.updSrc (32 * k + i) (fun s => { s with pend := true }) else c) c).offers)

/-- WPEND_CLR_WRITE: the bit of an asserted level line that is not in service is set again. -/
def Chip.wpendClr (c : Chip) (f k : Nat) (val : Word) : Chip :=
  c.byActive f (fun c => (forUpTo 32 (fun i c =>
    if bitAt val i then c.updSrc (32 * k + i) (fun s => { s with pend := asserted (32 * k + i) s && !s.serv }) else c) c).offers)

/-- WVEC_WRITE (R337). -/
def Chip.wvec (c : Chip) (f : Nat) (bank : Bool) (n : Nat) (val : Word) : Chip :=
  c.byActive f (fun c =>
    let v := val &&& ~~~(1 : Word)
    if bank ≠ (c.fielder f).vbank then c
    else c.updSrc n (fun s => if bank then { s with vec1 := v } else { s with vec0 := v }))

/-- WGRP (R327, R336): HOLDOFF alone is written. -/
def Chip.wgrp (c : Chip) (f g : Nat) (val : Word) : Chip :=
  c.byActive f (fun c => c.updGrp g (fun x => { x with holdoff := BitVec.ofNat 12 (fld val 11 0) }))

/-- WSTS: DONE_ERR bits are cleared by writing 1. -/
def Chip.wsts (c : Chip) (f : Nat) (val : Word) : Chip :=
  c.byActive f (fun c => forUpTo 12 (fun k c =>
    if bitAt val k then c.updFielder k (fun x => { x with doneErr := false }) else c) c)

/-- HOLDOFF_EXPIRY (R336). -/
def Chip.holdoffEnd (c : Chip) (g : Nat) : Chip := (c.updGrp g (fun x => { x with remain := 0 })).offers

/-! ### Commit and completion -/

/-- The source of highest PRIO, or the lowest-numbered of several, that meets the wake condition (R323). -/
def Chip.wakeSource (c : Chip) (f : Nat) : Option Nat :=
  (((c.srcs.filter (fun s => c.wakes f s.2)).foldr insSource []).head?).map (fun s => s.1)

/-- WFI_WAKE (R323). -/
def Chip.wfiWake (c : Chip) (f : Nat) : Chip :=
  match c.wakeSource f with
  | some n =>
    if (c.fielder f).wfi then
      c.updFielder f (fun x => { x with wfi := false, wake := x.wake ||| 1, lastSrc := BitVec.ofNat 9 n })
    else c
  | none => c

/-- WHISTLE_DELIVERY_COMMIT (R332): the Fielder accepts its offer; the wake condition has ended its WFI before (R323). -/
def Chip.commit (c : Chip) (f : Nat) (next : Word) : Chip :=
  match (c.fielder f).offer with
  | none => c
  | some n =>
    let s := c.src n
    let c := c.wfiWake f
    let c := c.updSrc n (fun s => { s with pend := false, serv := true, rr := f })
    let c := c.updGrp s.group.toNat (fun g => { g with remain := g.holdoff })
    (c.updFielder f (fun x => { x with
      offer := none, claim := some (n, s.prio.toNat), wfi := false
      mepc := next &&& ~~~(1 : Word), mcause := 0x8000000B, mtval := 0, mpie := x.mie, mie := false
      pc := if x.vbank then s.vec1 else s.vec0 })).offers

/-- WDONE_WRITE (R334). -/
def Chip.wdone (c : Chip) (f : Nat) (val : Word) : Chip :=
  let n := fld val 8 0
  match (c.fielder f).claim with
  | some (m, _) =>
    if m = n then
      ((c.updSrc n (fun s => { s with serv := false, pend := s.pend || asserted n s })).updFielder f
          (fun x => { x with claim := none })).offers
    else c.updFielder f (fun x => { x with doneErr := true })
  | none => c.updFielder f (fun x => { x with doneErr := true })

/-- WTHRESH_WRITE (R333). -/
def Chip.wthresh (c : Chip) (f : Nat) (val : Word) : Chip :=
  (c.updFielder f (fun x => { x with thresh := BitVec.ofNat 4 (fld val 3 0) })).offers

/-- MIE_WRITE (R333). -/
def Chip.mieSet (c : Chip) (f : Nat) (mie meie : Bool) : Chip :=
  (c.updFielder f (fun x => { x with mie := mie, meie := meie })).offers

/-! ### WFI -/

/-- FIELDER_WFI (R323): the Fielder waits; it continues at `pc`. -/
def Chip.wfi (c : Chip) (f : Nat) (pc : Word) : Chip :=
  c.byActive f (fun c => c.updFielder f (fun x => { x with wfi := true, pc := pc }))

/-- Every Fielder that waits goes on, with a WAKE_CAUSE bit (R324). -/
def Chip.wakeAll (c : Chip) (bit : BitVec 5) : Chip :=
  forUpTo 12 (fun f c =>
    if (c.fielder f).st = .active ∧ (c.fielder f).wfi = true then c.updFielder f (fun x => { x with wfi := false, wake := x.wake ||| bit })
    else c) c

/-! ### Exceptions, timers and locks -/

/-- FIELDER_EXCEPTION (R315): a trap to mtvec.BASE. -/
def Chip.exception (c : Chip) (f : Nat) (cause : BitVec 5) (pc tval : Word) : Chip :=
  c.updFielder f (fun x => { x with
    mepc := pc &&& ~~~(1 : Word), mcause := cause.zeroExtend 32, mtval := tval, mpie := x.mie, mie := false
    pc := x.mtvec &&& ~~~(3 : Word) }) |>.offers

/-- FTIMER_WRITE (R320). -/
def Chip.ftimerSet (c : Chip) (f : Nat) (val : Word) : Chip :=
  c.updFielder f (fun x => { x with ftimer := BitVec.ofNat 25 val.toNat, ftRun := fld val 23 0 != 0, ftFrom := c.us })

/-- FTIMER_EXPIRY (R320). -/
def Chip.ftimerEnd (c : Chip) (f : Nat) : Chip :=
  if (c.fielder f).ftRun then (c.updFielder f (fun x => { x with ftRun := bitAt x.ftimer 24, ftFrom := c.us })).pend (32 + f) else c

/-- FWDOG_WRITE (R321). -/
def Chip.fwdogSet (c : Chip) (f : Nat) (val : Word) : Chip :=
  c.byActive f (fun c => c.updFielder f (fun x => { x with fwdog := BitVec.ofNat 16 val.toNat, barked := false }))

/-- FLOCK_READ (R322): HELD and OWNER as they were, and a free lock is the reader's from here on. -/
def Chip.flockRead (c : Chip) (f i : Nat) : Chip :=
  c.byActive f (fun c =>
    match Tbl.get none c.locks i with
    | some k => c.emit (.load f (toWord (k + 2 ^ 31)))
    | none => ({ c with locks := Tbl.set none c.locks i (some f) } : Chip).emit (.load f 0))

/-- FLOCK_FREE_WRITE (R322): ignored unless the writer holds the lock. -/
def Chip.flockFree (c : Chip) (f : Nat) (val : Word) : Chip :=
  let i := fld val 5 0
  if Tbl.get none c.locks i = some f then { c with locks := Tbl.set none c.locks i none } else c

/-! ### A Fielder leaves ACTIVE -/

/-- Its claim is returned: in service ends and the source is pending, whatever its SENSE (R339). -/
def Chip.returnClaim (c : Chip) (f : Nat) : Chip :=
  match (c.fielder f).claim with
  | some (n, _) =>
    (c.updSrc n (fun s => { s with serv := false, pend := true })).updFielder f (fun x => { x with claim := none })
  | none => c

/-- Locks are freed, the watchdog is cleared, and offers and the claim are returned (R321, R322, R339); the timer stops with it. DESIGN
CHOICE, log entry 81. -/
def Chip.leaveActive (c : Chip) (f : Nat) (st : FSt) : Chip :=
  let c := { c.returnClaim f with locks := c.locks.filter (fun l => l.2 != some f) }
  (c.updFielder f (fun x => { x with
    st := st, offer := none, wfi := false, fwdog := 0, barked := false, ftRun := false })).offers

/-- TARGETS, pointers and offers move from one Fielder to another (R338). -/
def Chip.moveTargets (c : Chip) (f g : Nat) : Chip :=
  let bit (k : Nat) : BitVec 12 := BitVec.ofNat 12 (2 ^ k)
  let c := { c with srcs := Tbl.mapv {} c.srcs (fun _ s => { s with
    targets := if bitAt s.targets f then (s.targets &&& ~~~(bit f)) ||| bit g else s.targets
    rr := if s.rr = f then g else s.rr }) }
  (c.updFielder f (fun x => { x with offer := none })).offers

/-- A Fielder is started into a role (R317): at offset 0 of its instruction RAM, every register zero; what R317 does not name is at its
reset value. DESIGN CHOICE, log entry 81. -/
def Chip.startFielder (c : Chip) (f : Nat) (role : BitVec 3) (bank new : Bool) : Chip :=
  c.updFielder f (fun x => {
    st := .active, role := role, vbank := bank, wake := 0x10, pc := 0, newImage := new, cycles := x.cycles, retired := x.retired,
    lastSrc := x.lastSrc })

end Sys2Proof.Machine
end

