-- ==== Sys2Proof/Machine/Log.lean ====
section
/-! DEFINITION. The fault log (R410 to R414), and the state of the chip that its entries and the Whistle go by (R372, R375). -/

namespace Sys2Proof.Machine

/-- The core clocks run: bring-up has passed PLL_LOCK and the chip is not below AP4 (R26, R377, R386). -/
def Chip.clocked (c : Chip) : Bool :=
  c.boot.pll && (match c.pwr.st with
    | .ap4 | .retain | .dormant => false
    | .exiting n => decide (3 ≤ n)
    | _ => true)

/-- PWR_STS.STATE and PHASE (R372). -/
def PwrSt.code : PwrSt → Nat
  | .run => 0
  | .doze => 1
  | .exiting _ => 3
  | .retain | .dormant => 0
  | _ => 2
def PwrSt.phase : PwrSt → Nat
  | .phase1 => 1
  | .phase2 _ => 2
  | .ap1 | .ap2 | .ap3 | .ap4 => 3
  | _ => 0

/-- STATE of a fault-log entry (R411). -/
def PwrSt.logged (s : PwrSt) : Nat := if s = .retain then 4 else if s = .dormant then 5 else s.code

def Chip.flog (c : Chip) (slot : Nat) : Flog := Tbl.get {} c.rel.flog slot

/-- RESULT of an OUTCOME. -/
def resultOf (o : Byte) : Nat := fld o 1 0

/-- Entries that post FAULT_LOGGED (R414). -/
def reports (cls o : Byte) : Bool := decide (2 ≤ resultOf o) || (decide (6 ≤ cls.toNat) && decide (cls.toNat ≤ 0x0C))

/-- FAULT_LOGGED to the manager; while the core does not run it waits for the end of the exit. -/
def Chip.faultLogged (c : Chip) (e : Flog) : Chip :=
  let d1 : Word := toWord (0x10 + 2 ^ 8 * e.cls.toNat)
  if c.clocked then c.mgrEvent evError noSubject d1 e.seq
  else { c with rel := { c.rel with evDue := c.rel.evDue ++ [.event evError noSubject d1 e.seq] } }

/-- The newest entry takes a further occurrence (R410): same CLASS, BLOCK and LOCATION, within 1 s. -/
def Chip.merges (c : Chip) (block cls loc : Nat) : Option Nat :=
  let slot := (c.rel.next + 63) % 64
  let e := c.flog slot
  if c.rel.seq ≠ 0 ∧ e.cls.toNat = cls ∧ e.block.toNat = block ∧ e.loc.toNat = loc ∧ (c.pwr.slTime - e.time).toNat ≤ 1000000 then
    some slot
  else none

/-- A fault is recorded, or merged (R410, R411, R414). -/
def Chip.log (c : Chip) (block cls loc d0 d1 outcome : Nat) : Chip :=
  match c.merges block cls loc with
  | some slot =>
    let e := c.flog slot
    let o : Byte := BitVec.ofNat 8 outcome
    let e' := { e with count := if e.count.toNat = 65535 then e.count else e.count + 1, outcome := if outcome = 0 then e.outcome else o }
    let c := { c with rel := { c.rel with flog := Tbl.set {} c.rel.flog slot e' } }
    if reports e.cls e'.outcome && !reports e.cls e.outcome then c.faultLogged e' else c
  | none =>
    let r := c.rel
    let e : Flog := {
      seq := r.seq + 1, time := c.pwr.slTime, mf := if c.clocked then c.mf else 0, block := BitVec.ofNat 6 block,
      cls := BitVec.ofNat 8 cls, outcome := BitVec.ofNat 8 outcome, state := BitVec.ofNat 8 c.pwr.st.logged, count := 1,
      loc := BitVec.ofNat 64 loc, d0 := toWord d0, d1 := toWord d1 }
    let full := r.unread == 64
    let c := { c with rel := { r with
      flog := Tbl.set {} r.flog r.next e, seq := r.seq + 1, next := (r.next + 1) % 64
      oldest := if full then (r.oldest + 1) % 64 else r.oldest
      unread := if full then 64 else r.unread + 1, lost := if full then r.lost + 1 else r.lost } }
    let c := if r.unread = 47 then c.pend 450 else c
    if reports e.cls e.outcome then c.faultLogged e else c

/-- The slot of the entry recorded last. -/
def Chip.lastLog (c : Chip) : Nat := (c.rel.next + 63) % 64

/-- A check's result updates the entry of its error (R410). -/
def Chip.logResult (c : Chip) (slot : Nat) (f : Flog → Flog) : Chip :=
  let e := c.flog slot
  let e' := f e
  let c := { c with rel := { c.rel with flog := Tbl.set {} c.rel.flog slot e' } }
  if reports e'.cls e'.outcome && !reports e.cls e.outcome then c.faultLogged e' else c

/-- OUTCOME with RESULT and ACTION; INJECTED, OTP and OUTSIDE are kept or added (R411). -/
def Flog.withOutcome (e : Flog) (result action : Nat) (outside : Bool) : Flog :=
  { e with outcome := BitVec.ofNat 8 (result + 4 * action + 32 * fld e.outcome 6 5 + flagAt (outside || bitAt e.outcome 7) 7) }

/-! ### Replay checks that wait (R400) -/

/-- What a check is of, whatever its log slot. -/
def CheckJob.same (a b : CheckJob) : Bool :=
  match a, b with
  | .sram b1 r1 _ _, .sram b2 r2 _ _ => b1 == b2 && r1 == r2
  | .fielder f _, .fielder g _ => f == g
  | .lane l _, .lane m _ => l == m
  | _, _ => false

/-- A check is queued: eight wait; with the queue full the error is logged INCONCLUSIVE; with AUTO = 0 nothing is checked. -/
def Chip.queueCheck (c : Chip) (j : CheckJob) (slot : Nat) : Chip :=
  if !c.rel.auto || c.rel.queue.any (fun q => q.1.same j) then c
  else if c.rel.queue.length < 8 then { c with rel := { c.rel with queue := c.rel.queue ++ [(j, false)] } }
  else c.logResult slot (fun e => e.withOutcome 3 (fld e.outcome 4 2) false)

/-- FLOG_ACK (R409, R413). -/
def Chip.flogAck (c : Chip) (count : Nat) : Chip :=
  let n := min count c.rel.unread
  { c with rel := { c.rel with oldest := (c.rel.oldest + n) % 64, unread := c.rel.unread - n } }

/-- FLOG_STS as a word (R409). -/
def Chip.flogSts (c : Chip) : Word :=
  toWord (c.rel.oldest + 2 ^ 6 * c.rel.unread + flagAt (48 ≤ c.rel.unread) 13 + 2 ^ 16 * c.rel.lost.toNat)

/-- The 32 bytes of an entry (R411). -/
def Flog.bytes (e : Flog) : List Byte :=
  leBytes 4 e.seq.toNat ++ leBytes 4 e.time.toNat ++ leBytes 2 e.mf.toNat ++ leBytes 1 e.block.toNat ++ [e.cls, e.outcome, e.state]
    ++ leBytes 2 e.count.toNat ++ leBytes 8 e.loc.toNat ++ leBytes 4 e.d0.toNat ++ leBytes 4 e.d1.toNat

/-- The chip leaves DOZE: every Fielder leaves WFI (R324, R375). -/
def Chip.dozeExit (c : Chip) : Chip :=
  if c.pwr.st = .doze then { c with pwr := { c.pwr with st := .run } }.wakeAll 2 else c

end Sys2Proof.Machine
end

