-- ==== Sys2Proof/Machine/Pitch.lean ====
section
/-! DEFINITION. Pitch: the shape of a TD (R57 to R63, R448), the next transaction of an endpoint and its worst-case cost
(R151 to R160), packet buffer cells (R11, R12, R142). Nothing here changes a context. -/

namespace Sys2Proof.Machine

/-! ### Names of endpoints -/

/-- Endpoint contexts are keyed 32 × slot key + bit of EP_MASK (R91). -/
def epKey (slot bit : Nat) : Nat := 32 * slot + bit
def keySlot (key : Nat) : Nat := key / 32
def keyBit (key : Nat) : Nat := key % 32
def keyIn (key : Nat) : Bool := decide (16 ≤ key % 32)

/-- Slot keys: the index on this node, or 256 × (node + 1) + index for a slot on another node. -/
def farKey (sk : Nat) : Bool := decide (256 ≤ sk)

/-- The slot key that a SLOT field names (R89). -/
def Chip.slotKey (c : Chip) (n12 : Nat) : Nat :=
  if n12 / 256 = c.nodeNo then n12 % 256 else 256 * (n12 / 256 + 1) + n12 % 256
/-- The SLOT field of a slot key (R89). -/
def Chip.slotName (c : Chip) (sk : Nat) : Nat :=
  if sk < 256 then sk + 256 * c.nodeNo else sk % 256 + 256 * (sk / 256 - 1)

/-- The bus of a slot, from its ROOT (R91). -/
def Chip.slotBus (c : Chip) (sk : Nat) : Nat := (codeBus (fld (c.slot sk).root 7 0)).getD 0

/-- The instance whose tables hold a slot's rings: its owner; rings of a far owner are kept under
128 × (node + 1) + instance (R239, R358). -/
def Chip.ringHome (c : Chip) (sk : Nat) : Nat :=
  match (c.slot sk).far with
  | some (node, inst) => farInst node inst
  | none => (c.slot sk).owner.toNat

def Chip.ring (c : Chip) (n k : Nat) : Ring := Tbl.get {} (c.inst n).rings k
def Chip.updRing (c : Chip) (n k : Nat) (f : Ring → Ring) : Chip :=
  c.updInst n (fun x => { x with rings := Tbl.upd {} x.rings k f })

/-- The ring an endpoint is served from: its own, or its current stream's (R93, R95). -/
def Ep.headRing (e : Ep) : Nat := if e.maxStreams = 0 then e.ring else Tbl.get 0 e.streams e.stream

/-- Path of an endpoint: SuperSpeed; high speed on the root; full or low speed on the root; through a translator. -/
inductive Path where
  | ss | hs | fs | ls | split
deriving DecidableEq, Repr

def Slot.path (s : Slot) : Path :=
  if 4 ≤ s.speed.toNat then .ss
  else if s.speed = 3 then .hs
  else if s.ttPort ≠ 0 then .split
  else if s.speed = 1 then .ls
  else .fs

/-- The speed at which a bus runs: that of the device on its root port. -/
def Chip.busSpeed (c : Chip) (b : Nat) : BitVec 4 := if b < 24 then (c.port b).speed else (c.ssp (b - 24)).speed

/-- The path of a slot on a bus that runs at a speed: nothing runs faster than a full- or low-speed root (R122, R132). -/
def Slot.pathOn (s : Slot) (bus : BitVec 4) : Path :=
  if bus = 1 ∨ bus = 2 then (if s.speed = 1 then .ls else .fs) else s.path

def Chip.slotPath (c : Chip) (sk : Nat) : Path := (c.slot sk).pathOn (c.busSpeed (c.slotBus sk))
def Chip.path (c : Chip) (key : Nat) : Path := c.slotPath (keySlot key)

/-! ### The TD at the head of a ring -/

def Ring.size (r : Ring) : Nat := 2 ^ r.log2
/-- Entries handed to the chip and not consumed (R53). -/
def Ring.handed (r : Ring) : Nat := (r.prod + r.size - r.cons) % r.size

/-- The elements of the first TD in a list, as far as they are there. -/
def headTd : List Elem → List Elem
  | [] => []
  | e :: t => if e.chain then e :: headTd t else [e]

/-- The last element of the head TD is there. -/
def tdWhole : List Elem → Bool
  | [] => false
  | e :: t => if e.chain then tdWhole t else true

def sumLen (es : List Elem) : Nat := es.foldl (fun n e => n + e.len) 0

/-- More than 16 elements: it began without its last (R448). -/
def Ring.long (r : Ring) : Bool := decide (0 < r.td.nEaten) || (decide (16 ≤ r.elems.length) && !tdWhole r.elems)

/-- The head TD is filed (R59, R448). -/
def Ring.filed (r : Ring) : Bool := tdWhole r.elems || r.long

/-- Index of the first element of a control TD that breaks its sequence (R60), from the stage expected. -/
def ctrlFault : Nat → Nat → List Elem → Option Nat
  | k, 0, e :: t =>
    if e.ty = 0x02 ∧ e.chain = true then ctrlFault (k + 1) (if fld e.data 63 48 = 0 then 2 else 1) t else some k
  | k, 1, e :: t => if e.ty = 0x03 ∧ e.chain = true then ctrlFault (k + 1) 2 t else some k
  | k, 2, e :: t => if e.ty = 0x04 ∧ e.chain = false then (if t.isEmpty then none else some (k + 1)) else some k
  | _, _, [] => none
  | k, _, _ => some k

/-- wLength of the setup packet in a list of elements (R60). -/
def wLength (es : List Elem) : Nat :=
  match es with
  | e :: _ => fld e.data 63 48
  | [] => 0

/-- The DATA element's LENGTH must equal wLength (R58). -/
def dataFault (es : List Elem) : Option Nat :=
  match es with
  | s :: d :: _ => if d.ty = 0x03 ∧ d.len ≠ fld s.data 63 48 then some 1 else none
  | _ => none

/-- Index of the first element marked bad. -/
def firstBad : Nat → List Elem → Option Nat
  | _, [] => none
  | k, e :: t => if e.bad then some k else firstBad (k + 1) t

/-- Index of the element that carries the sum past the limit of R59. -/
def overSum : Nat → Nat → List Elem → Option Nat
  | _, _, [] => none
  | k, n, e :: t => if 16777215 < n + e.len then some k else overSum (k + 1) (n + e.len) t

/-- The lesser of two faults. -/
def lesser (a b : Option Nat) : Option Nat :=
  match a, b with
  | some x, some y => some (min x y)
  | some x, none => some x
  | none, b => b

/-- A TD of no-ops alone. -/
def allNoop (es : List Elem) : Bool := es.all (fun e => e.ty == 0x06)

/-- Where the head TD is invalid (R59), among the elements that are there: an index into them. A TD of at most 16 elements is
refused at its first invalid element, and for its sum when that alone is at fault (R66); a longer one at whichever comes
first (R448). -/
def Ring.fault (r : Ring) (ctrl : Bool) : Option Nat :=
  let es := headTd r.elems
  let seq := if ctrl && !allNoop es then
      (if r.td.nEaten = 0 then lesser (ctrlFault 0 0 es) (dataFault es) else some 0)
    else none
  let bad := lesser (firstBad 0 es) seq
  let sum := overSum 0 r.td.eaten es
  if r.long then lesser bad sum else bad.or sum

/-- The entry, counted from the ring's base, of the k-th element held. -/
def Ring.entryAt (r : Ring) (k : Nat) : Nat := (r.cons + k) % r.size

/-- The element of the head TD that takes the byte at `pos` (an offset in the TD), with its index: the one at which
the TD ends there (R66). -/
def elemAt : Nat → Nat → Nat → List Elem → Option (Nat × Elem)
  | _, _, _, [] => none
  | k, _, _, [e] => some (k, e)
  | k, n, pos, e :: t => if pos < n + e.len then some (k, e) else elemAt (k + 1) (n + e.len) pos t

/-- The element, and its index, at which an IN or OUT TD ends after `moved` bytes. -/
def Ring.endElem (r : Ring) : Nat × Elem := (elemAt 0 r.td.eaten r.td.moved (headTd r.elems)).getD (0, {})

/-- Bytes of the TD that may be moved: what is there and valid; and whether the TD's end is among them. -/
def Ring.avail (r : Ring) (ctrl : Bool) : Nat × Bool :=
  let es := headTd r.elems
  match r.fault ctrl with
  | some k => (r.td.eaten + sumLen (es.take k), false)
  | none => (r.td.eaten + sumLen es, tdWhole r.elems)

/-- The setup packet of the head TD, and its parts (R58, R60). -/
def Ring.setup (r : Ring) : BitVec 64 :=
  match r.elems with
  | e :: _ => e.data
  | [] => 0
def Ring.ctrlIn (r : Ring) : Bool := bitAt r.setup 7
def Ring.ctrlLen (r : Ring) : Nat := fld r.setup 63 48

/-- Buffer pieces of bytes [off, off + len) of a TD, element by element. -/
def pieces : Nat → List Elem → Nat → Nat → List (Addr × Nat)
  | _, [], _, _ => []
  | n, e :: t, off, len =>
    if len = 0 then []
    else if off < n + e.len then
      let k := min len (n + e.len - off)
      (e.buffer + BitVec.ofNat 64 (off - n), k) :: pieces (n + e.len) t (off + k) (len - k)
    else pieces (n + e.len) t off len

/-- Cuts a piece at 256-byte boundaries of the address (R284). -/
def cut256 : Nat → Addr → Nat → List (Addr × Nat)
  | 0, _, _ => []
  | f + 1, a, len =>
    if len = 0 then []
    else
      let k := min len (256 - a.toNat % 256)
      (a, k) :: cut256 f (a + BitVec.ofNat 64 k) (len - k)

def cutAll (ps : List (Addr × Nat)) : List (Addr × Nat) := ps.flatMap (fun p => cut256 (p.2 / 256 + 2) p.1 p.2)

/-! ### Cells -/

def cellsFor (n : Nat) : Nat := cdiv n 512

/-- Cells of the floor that any work of the bus may take, and that are taken: sixteen of the 32 serve periodic work
alone (R142). -/
def Bus.shared (b : Bus) : Nat := (b.pcells - 16) + b.cells
/-- Cells of the shared pool that a bus holds (R11). -/
def Bus.poolUse (b : Bus) : Nat := b.shared - 16

/-- Cells that OUT data of far instances takes on this node: what each TD has received (R358). -/
def Chip.farCells (c : Chip) : Nat :=
  c.insts.foldl (fun n x =>
    if 128 ≤ x.1 then n + x.2.rings.foldl (fun n r => n + r.2.ids.foldl (fun n i => n + cellsFor i.2) 0) 0 else n) 0

/-- Cells of the receive buffers of fabric ports that are up (R347). -/
def Chip.fabCells (c : Chip) : Nat :=
  c.fab.ports.foldl (fun n p => if p.2.st = 2 ∨ p.2.st = 3 ∨ p.2.st = 4 then n + 320 else n) 0

/-- Cells of the shared pool in use: buses, firmware staging and the fabric (R11, R37, R347, R358). -/
def Chip.poolUse (c : Chip) : Nat :=
  c.buses.foldl (fun n e => n + e.2.poolUse) 0 + c.fw.cells + c.farCells + c.fabCells

/-- Cells that asynchronous work of a bus can still have, and its periodic work. -/
def Chip.asyncFree (c : Chip) (b : Nat) : Nat := (16 - (c.bus b).shared) + (Config.poolCells - c.poolUse)
def Chip.periodicFree (c : Chip) (b : Nat) : Nat := (16 - (c.bus b).pcells) + c.asyncFree b

/-! ### The next transaction -/

/-- Seven sixths of a length, rounded up: maximal bit stuffing. -/
def stuffed (n : Nat) : Nat := cdiv (7 * n) 6

/-- What the next transaction of an endpoint moves: IN or OUT, its bytes or the most it may bring, its stage. -/
structure Plan where
  inn : Bool
  /-- Bytes of the packet or burst (OUT), or the most that may come (IN). -/
  len : Nat
  pkts : Nat := 1
  setup : Bool := false
  status : Bool := false
  ping : Bool := false
  /-- The complete-split of a non-periodic split (R159). -/
  csplit : Bool := false
deriving DecidableEq, Repr

/-- Worst-case cost of a transaction for the end-of-frame check (R152). -/
def Plan.cost (p : Plan) (path : Path) (mps : Nat) : Nat :=
  let l := if p.inn then mps else p.len
  match path with
  | .ss => 0
  | .hs => if p.ping then 40 else stuffed l + 59
  | .fs => stuffed l + 22
  | .ls => 8 * stuffed l + 99
  | .split =>
    if p.csplit then (if p.inn then 40 + stuffed l else 40)
    else if p.inn then 40 else 40 + stuffed p.len

/-- Packets of a SuperSpeed burst (R160): the device's limit, MAX_BURST + 1, what remains. -/
def burstPkts (e : Ep) (inn : Bool) (remain : Nat) : Nat :=
  let want := max 1 (cdiv remain e.maxPacket)
  let top := min (e.maxBurst + 1) want
  if inn then top else min top e.numP

/-- A transfer on a path: `remain` bytes left that may be moved, `whole`: they reach the TD's end. Of a TD whose end is not there,
whole packets alone move (R448); an OUT burst has no packet while the device advertises none (R160). -/
def dataPlan (path : Path) (e : Ep) (inn : Bool) (remain : Nat) (whole : Bool) : Option Plan :=
  let top := if path = .ss then burstPkts e inn remain else 1
  let n := if whole then top else min top (remain / max 1 e.maxPacket)
  let want := n * e.maxPacket
  if n = 0 then none
  else some { inn := inn, len := if inn then want else min want remain, pkts := n }

/-- The next transaction of the head TD, where there is one (R153 to R160). -/
def Ring.plan (r : Ring) (path : Path) (e : Ep) (epIn : Bool) : Option Plan :=
  if e.ty = .control then
    match r.td.stage with
    | .setup => some { inn := false, len := 8, setup := true }
    | .data => dataPlan path e r.ctrlIn (8 + r.ctrlLen - r.td.moved) true
    | .status => some { inn := !(r.ctrlIn && decide (0 < r.ctrlLen)), len := 0, status := true }
    | .done => none
  else
    let a := r.avail false
    dataPlan path e epIn (a.1 - r.td.moved) a.2

/-- The transaction with PING and the split state put in (R158, R159). -/
def Plan.onPath (p : Plan) (path : Path) (e : Ep) : Plan :=
  { p with ping := path = .hs && e.pingDue && !p.inn && !p.setup && !p.status, csplit := path = .split && e.split }

/-- An OUT packet or burst sends no more than is staged (R13). -/
def Plan.within (p : Plan) (staged mps : Nat) : Plan :=
  if staged < p.len then { p with len := staged, pkts := max 1 (cdiv staged mps) } else p

/-- The SET_ADDRESS transfer: SETUP, then an IN status stage (R102, R153). -/
def Ep.setAddrPlan (e : Ep) : Plan :=
  match e.saStage with
  | .setup => { inn := false, len := 8, setup := true }
  | _ => { inn := true, len := 0, status := true }

/-- SET_ADDRESS is the next control TD of the endpoint: behind the one in progress, ahead of those that have not begun
(R102). -/
def Chip.saTurn (c : Chip) (key : Nat) : Bool :=
  let e := c.ep key
  let r := c.ring (c.ringHome (keySlot key)) e.headRing
  e.setAddr.isSome && !(e.st == .running && r.live && r.td.begun && r.td.ended.isNone)

/-- MPS0 and the translator fields of ADDRESS_DEVICE (R91, R102). -/
def Slot.readdress (s n : Slot) : Slot :=
  { s with mps0 := n.mps0, mtt := n.mtt, ttThink := n.ttThink, ttSlot := n.ttSlot, ttPort := n.ttPort }

/-- An endpoint waits with a record held for a completion ring (R76, R93 HELD). -/
def Chip.epHeld (c : Chip) (key : Nat) : Bool :=
  (c.inst (c.ringHome (keySlot key))).crings.any (fun r => r.2.held.any (fun h => h.key == some key))

/-- The most report cells a shared endpoint may hold (R276). -/
def serviceLimit : Nat := 32

/-- Rally holds a SuperSpeed endpoint: it waits for ERDY, and none is remembered (R161). -/
def Ep.waits (e : Ep) : Bool := e.nrdy && !e.erdy

/-- The slot's owner lets its endpoints run: not frozen, in reset or lost (R119, R250, R258). -/
def Inst.serves (x : Inst) : Bool := x.st == .active

/-- The bus carries transfers: its port is ENABLED and SOF has begun; an SSP is in U0, leaves U1 or U2 on traffic, or is INACTIVE, where
transfers end by the strike rules (R207, R211). -/
def Chip.busRuns (c : Chip) (b : Nat) : Bool :=
  if b < 24 then (c.port b).st == 6 && !(c.bus b).noSof
  else decide (3 ≤ (c.ssp (b - 24)).st) && decide ((c.ssp (b - 24)).st ≤ 5) || (c.ssp (b - 24)).st == 9

/-- The next asynchronous transaction of an endpoint, where it is eligible (R151, R161). -/
def Chip.asyncPlan (c : Chip) (key : Nat) : Option Plan :=
  let e := c.ep key
  let sk := keySlot key
  let path := c.path key
  let n := c.ringHome sk
  let r := c.ring n e.headRing
  let held := !c.busRuns (c.slotBus sk) || e.rally.held || e.waits || e.unfit || e.stop.isSome || decide (0 < e.due)
    || !(c.inst n).serves
  if c.saTurn key then
    if held then none else some (e.setAddrPlan.onPath path e)
  else if e.st != .running || !(e.ty == .control || e.ty == .bulk) || held || c.epHeld key
      || !r.live || r.halted || !r.filed || r.td.ended.isSome then none
  else
    match r.plan path e (keyIn key) with
    | none => none
    | some p =>
      let p := p.onPath path e
      if p.inn && !p.status then
        if p.csplit || path != .split then
          let k := min p.pkts (c.asyncFree (c.slotBus sk) / max 1 (cellsFor e.maxPacket))
          if k = 0 then none else some { p with pkts := k, len := k * e.maxPacket }
        else some p
      else if p.setup || p.status || p.csplit || p.len = 0 then some p
      else if e.staged then some (p.within e.stagedLen e.maxPacket) else none

/-- The transaction fits before the end of the frame (R141, R152). -/
def Chip.fits (c : Chip) (key : Nat) (p : Plan) : Bool :=
  let pos := (c.bus (c.slotBus (keySlot key))).pos
  let cost := p.cost (c.path key) (c.ep key).maxPacket
  match c.path key with
  | .ss => true
  | .hs | .split => decide (pos + cost ≤ 7440)
  | .fs | .ls => decide (pos + cost ≤ 1480)

end Sys2Proof.Machine
end

