-- ==== Sys2Proof/Machine/Endpoint.lean ====
section
/-! DEFINITION. What happens to an endpoint and its TDs: element fetch (R56), staging of OUT data (R13), Rally (R164 to
R168), the end of a TD and its record (R65 to R67, R105), stops (R105), strikes and halts (R170 to R172). -/

namespace Sys2Proof.Machine

/-! ### Rally -/

/-- RALLY_CLASSn at reset (R164, R165). -/
def rallyReset (k : Nat) : RallyClass :=
  if k = 2 then { start := 4, max := 64 }
  else if k = 3 then { start := 32, max := 1000 }
  else if k = 4 then { start := 16, max := 512 }
  else { start := 8, max := 256 }

def Chip.rallyClass (c : Chip) (k : Nat) : RallyClass := Tbl.get (rallyReset k) c.rally k

/-- The class of an endpoint; `inn` is the direction of the stage that was answered (R164). -/
def rallyKind (path : Path) (ty : EpTy) (inn : Bool) : Nat :=
  match path with
  | .hs => if ty = .control then (if inn then 2 else 1) else if inn then 0 else 1
  | .split => 4
  | _ => 3

/-- A not-ready answer advances the cadence, measured from `now` in µs (R167). -/
def Rally.notReady (r : Rally) (cls : RallyClass) (now : Nat) : Rally :=
  let start := if r.ovr then r.start else cls.start.toNat
  let top := if r.ovr then r.max else cls.max.toNat
  let linear := if r.ovr then r.linear else cls.linear
  let inc := if r.ovr then r.inc else cls.inc.toNat
  let gap := if r.gap = 0 then start else if linear then min (r.gap + inc) top else min (r.gap * 2) top
  { r with gap := gap, readyAt := now + gap, held := true }

/-- Data moved, or the cadence is reset (R167, R168). -/
def Rally.ease (r : Rally) (now : Nat) : Rally := { r with gap := 0, readyAt := now, held := false }
/-- A PING answered ACK: eligible at once, the gap kept (R158). -/
def Rally.pingAck (r : Rally) (now : Nat) : Rally := { r with readyAt := now, held := false }

/-- The endpoint answers not ready on a USB 2.0 path. -/
def Chip.notReady (c : Chip) (key now : Nat) (inn : Bool) : Chip :=
  c.updEp key (fun e => { e with
    strikes := 0
    rally := e.rally.notReady (c.rallyClass (rallyKind (c.path key) e.ty inn)) now })

/-! ### Results in flight (R15, R97, R249) -/

/-- The EPOCH under which an instance's results of the endpoint pass: its view's, for a share-group member (R274). -/
def Ep.epochFor (e : Ep) (n : Nat) : BitVec 6 :=
  match e.views.find? (fun v => v.1 == n) with
  | some v => v.2.epoch
  | none => e.epoch

/-- A result in flight carries an EPOCH value (R97). -/
def Ep.carries (e : Ep) (v : BitVec 6) : Bool := e.flights.any (fun f => f.epoch == v && e.views.all (fun w => w.1 != f.inst))

/-- EPOCH + 1 and the cadence reset that goes with it (R96, R168); a value that a result in flight still carries is waited for
(R97). -/
def Ep.bump (e : Ep) (now : Nat) : Ep :=
  if e.carries (e.epoch + 1) then { e with due := e.due + 1, rally := e.rally.ease now }
  else { e with epoch := e.epoch + 1, rally := e.rally.ease now }

/-- A bump that waited takes effect, once nothing of the endpoint is unreported and no result carries the new value (R96, R97). -/
def Ep.payDue (e : Ep) : Ep :=
  if decide (0 < e.due) && e.done.isEmpty && !e.carries (e.epoch + 1) then { e with epoch := e.epoch + 1, due := e.due - 1 } else e

/-- A read for an endpoint goes out, with its EPOCH and GEN (R15). -/
def Chip.fly (c : Chip) (key n : Nat) (out : Bool) : Chip :=
  c.updEp key (fun e => { e with flights := e.flights ++ [{ out := out, inst := n, epoch := e.epochFor n, gen := (c.inst n).gen }] })

/-- A result of an instance is dropped by R15: the drop is counted. -/
def Chip.countDrops (c : Chip) (n k : Nat) : Chip := c.updInst n (fun x => { x with drops := x.drops + BitVec.ofNat 32 k })

/-- The checks of R15: the EPOCH and GEN that a result carries are the current ones. -/
def Chip.current (c : Chip) (key n : Nat) (epoch : BitVec 6) (gen : BitVec 8) : Bool :=
  epoch == (c.ep key).epochFor n && gen == (c.inst n).gen

/-- A bump of GEN that waited takes effect once no result in flight of the instance carries the new value (R249). -/
def Chip.genCarried (c : Chip) (n : Nat) (g : BitVec 8) : Bool :=
  c.eps.any (fun e => e.2.flights.any (fun f => f.inst == n && f.gen == g))
def Chip.payGen (c : Chip) (n : Nat) : Chip :=
  if decide (0 < (c.inst n).genDue) && !c.genCarried n ((c.inst n).gen + 1) then
    c.updInst n (fun x => { x with gen := x.gen + 1, genDue := x.genDue - 1 })
  else c
/-- GEN + 1 (R249). -/
def Chip.bumpGen (c : Chip) (n : Nat) : Chip := (c.updInst n (fun x => { x with genDue := x.genDue + 1 })).payGen n

/-- A read of an endpoint returns: the oldest of its kind, and what is left in flight. -/
def Ep.landed (e : Ep) (out : Bool) : Option (Flight × List Flight) :=
  (e.flights.find? (fun f => f.out == out)).map (fun f => (f, dropFirst f e.flights))

/-! ### Element fetch -/

/-- The endpoint a ring is bound to. -/
def Ring.key (r : Ring) : Nat := epKey r.slot r.ep

/-- Native elements take 32 bytes, COMPAT ones 16 (R57, R85). -/
def Inst.elemSize (x : Inst) : Nat := if x.compat then 16 else 32

/-- Elements at the front of a TD whose bytes lie before `upto`. -/
def engaged (upto : Nat) : Nat → List Elem → Nat
  | _, [] => 0
  | n, e :: t => if e.chain && decide (n + e.len ≤ upto) then engaged upto (n + e.len) t + 1 else 0

/-- Elements that the front end holds of a ring: 16 ahead of execution (R56). Of a TD of more than 16, those that the next service
takes whole are in execution, so that elements smaller than a packet do not end the TD's progress (R448). DEDUCED, log entry
58. -/
def Chip.ahead (c : Chip) (n k : Nat) : Nat :=
  let r := c.ring n k
  let e := c.ep r.key
  16 + if r.long then engaged (r.td.moved + (e.mult + 1) * (e.maxBurst + 1) * e.maxPacket) r.td.eaten (headTd r.elems) else 0

/-- How many more elements the front end may ask for (R53, R56). -/
def Ring.wants (r : Ring) (ahead : Nat) : Nat :=
  min (ahead - (r.elems.length + r.reads)) (r.handed - (r.elems.length + r.reads))

/-- The endpoint's device is gone: its TDs are being ended (R94). -/
def Ep.going (e : Ep) : Option Byte :=
  match e.stop with
  | some (.gone code) => some code
  | _ => none

/-- A transfer ring fetches: it is there, not halted, its instance ACTIVE, its endpoint Running, or looking for the end
of an ended TD, or ending every TD of a device that is gone (R56, R66, R94, R119). -/
def Chip.fetches (c : Chip) (n k : Nat) : Bool :=
  let r := c.ring n k
  decide (n < 128) && r.live && !r.halted && (c.inst n).serves
    && ((c.ep r.key).st == .running || r.td.ended.isSome || (c.ep r.key).going.isSome)

/-- The front end issues the element reads that R56 lets it. -/
def Chip.fetch (c : Chip) (n k : Nat) : Chip :=
  let r := c.ring n k
  let m := if c.fetches n k then r.wants (c.ahead n k) else 0
  let size := (c.inst n).elemSize
  let reads := (List.range m).map (fun j =>
    Out.hostRead n (r.base + BitVec.ofNat 64 (size * r.entryAt (r.elems.length + r.reads + j))) size)
  { c.updRing n k (fun r => { r with reads := r.reads + m }) with out := reads.reverse ++ c.out }

/-! ### Staging of OUT data -/

/-- The cells an endpoint holds go back (R11), but for those that hold shared reports (R276) and those under frames that await
E2E_ACK (R358). -/
def Chip.freeCells (c : Chip) (key : Nat) : Chip :=
  let e := c.ep key
  let b := c.slotBus (keySlot key)
  let k := e.cells - e.unread - e.kept.sum
  let per := e.ty == .isoch || e.ty == .interrupt
  (c.updBus b (fun x => if per then { x with pcells := x.pcells - k } else { x with cells := x.cells - k })).updEp
    key (fun e => { e with cells := e.cells - k })

def Chip.takeCells (c : Chip) (key n : Nat) : Chip :=
  let e := c.ep key
  let b := c.slotBus (keySlot key)
  let per := e.ty == .isoch || e.ty == .interrupt
  (c.updBus b (fun x => if per then { x with pcells := x.pcells + n } else { x with cells := x.cells + n })).updEp
    key (fun e => { e with cells := e.cells + n })

/-- The cells under a kept frame go back (R358). -/
def Chip.freeKept (c : Chip) (key : Nat) : Chip :=
  let e := c.ep key
  let k := e.kept.headD 0
  let per := e.ty == .isoch || e.ty == .interrupt
  (c.updBus (c.slotBus (keySlot key)) (fun x => if per then { x with pcells := x.pcells - k } else { x with cells := x.cells - k })).updEp
    key (fun e => { e with cells := e.cells - k, kept := e.kept.drop 1 })

/-- Staged or half-staged data is given up. -/
def Chip.unstage (c : Chip) (key : Nat) : Chip :=
  (c.freeCells key).updEp key (fun e => { e with staged := false, staging := false, stagedLen := 0 })

/-- Elements whose buffers hold the bytes of the plan, their first offset in the TD, and the offset in the TD at which
the plan begins. -/
def Ring.dataAt (r : Ring) (ctrl : Bool) : List Elem × Nat × Nat :=
  if ctrl then (((headTd r.elems).drop 1).take 1, 8, max 8 r.td.moved) else (headTd r.elems, r.td.eaten, r.td.moved)

/-- Bytes of OUT data that the next service sends (R13): of a packet, a burst, or a whole service opportunity. -/
def Chip.outNeed (c : Chip) (key : Nat) : Nat :=
  let e := c.ep key
  let n := c.ringHome (keySlot key)
  let r := c.ring n e.headRing
  let ctrl := e.ty == .control
  if ctrl && (r.td.stage != .data || r.ctrlIn) then 0
  else if !ctrl && keyIn key then 0
  else if e.ty = .isoch then
    match r.elems with
    | x :: _ => x.len
    | [] => 0
  else if e.ty = .interrupt then
    let a := r.avail false
    let want := (e.mult + 1) * (e.maxBurst + 1) * e.maxPacket
    if !a.2 && decide (a.1 - r.td.moved < want) then 0 else min want (a.1 - r.td.moved)
  else
    match r.plan (c.path key) e (keyIn key) with
    | some p => p.len
    | none => 0

/-- OUT data of a far endpoint: staged once the bytes that DATA_OUT brought suffice (R13, R358). -/
def Chip.stageFar (c : Chip) (key need : Nat) : Chip :=
  let e := c.ep key
  let r := c.ring (c.ringHome (keySlot key)) e.headRing
  let got := match r.ids with
    | x :: _ => x.2
    | [] => 0
  let base := if e.ty == .control then max 8 r.td.moved - 8 else r.td.moved
  if need = 0 || e.st != .running || e.stop.isSome || !r.filed || r.td.ended.isSome then c
  else if base + need ≤ got then c.updEp key (fun e => { e with staged := true, staging := false, stagedLen := need })
  else c.updEp key (fun e => { e with staging := true, stagedLen := need })

/-- Carry begins to bring the data of the next OUT service into the packet buffer, where cells can be had (R11, R13). -/
def Chip.stageOut (c : Chip) (key : Nat) : Chip :=
  let e := c.ep key
  let sk := keySlot key
  let b := c.slotBus sk
  let n := c.ringHome sk
  let r := c.ring n e.headRing
  let need := c.outNeed key
  let k := cellsFor need
  let room := if e.ty == .isoch || e.ty == .interrupt then c.periodicFree b else c.asyncFree b
  if 128 ≤ n then c.stageFar key need
  else if need = 0 || e.staged || e.staging || e.st != .running || e.stop.isSome || decide (0 < e.due) || !r.live || r.halted || !r.filed
      || r.td.ended.isSome || !(c.inst n).serves || decide (room < k) then c
  else
    let d := r.dataAt (e.ty == .control)
    let ps := cutAll (pieces d.2.1 d.1 d.2.2 need)
    let c := ((c.takeCells key k).updEp key (fun e => { e with staging := true, stagedLen := need })).fly key n true
    { c with out := (ps.map (fun p => Out.hostRead n p.1 p.2)).reverse ++ c.out }

/-! ### The end of a TD -/

/-- Codes that leave the endpoint Halted (R74); an isochronous outcome does so for a host-memory failure alone. -/
def halts (iso : Bool) (code : Byte) : Bool :=
  if iso then code == ccHostMem || code == ccFabricLost
  else code == ccStall || code == ccBabble || code == ccXactErr || code == ccTtErr || code == ccHostMem
    || code == ccFabricLost

/-- The natural ends, which a stop marks LATE (R69, R105). -/
def natural (code : Byte) : Bool := code == ccSuccess || code == ccShort

/-- Elements at the front of a TD that are not its last and whose bytes have all moved: with their place and the byte at which
they end. -/
def movedElems (moved : Nat) : Nat → Nat → List Elem → List (Nat × Nat × Elem)
  | _, _, [] => []
  | k, n, e :: t =>
    if e.chain && decide (n + e.len ≤ moved) then (k, n + e.len, e) :: movedElems moved (k + 1) (n + e.len) t else []

/-- Notes the CHAIN_MID records that have become due: NORMAL elements, not the last, NOTIFY set, all bytes moved (R65). -/
def Ring.noteMids (r : Ring) : Ring :=
  if !r.td.begun then r
  else
    let es := movedElems r.td.moved 0 r.td.eaten (headTd r.elems)
    let due := es.filter (fun x => decide (r.td.nMid ≤ r.td.nEaten + x.1) && x.2.2.ty == 0x01 && x.2.2.notify)
    { r with td := { r.td with
      nMid := max r.td.nMid (r.td.nEaten + es.length)
      mids := r.td.mids ++ due.map (fun x => { tag := x.2.2.tag, cring := x.2.2.cring, entry := r.entryAt (x.1 + 1), upto := x.2.1 }) } }

/-- The address of a confirming read: the last dword written (R284); `old` where nothing was. -/
def lastDword (old : Addr) (ps : List (Addr × Nat)) : Addr :=
  match ps.getLast? with
  | some p => (p.1 + BitVec.ofNat 64 (p.2 - 1)) &&& ~~~(3 : Addr)
  | none => old

/-- Consumes what is there of a TD longer than the front end holds (R448): its first element, once its bytes are moved
(or at once where the TD has ended). -/
def Ring.eat (r : Ring) (all : Bool) : Nat → Ring
  | 0 => r
  | f + 1 =>
    match r.elems with
    | e :: t =>
      if e.chain && !tdWhole r.elems && (all || decide (r.td.eaten + e.len ≤ r.td.moved)) then
        Ring.eat { r with
          elems := t, cons := r.entryAt 1, sent := r.sent - 1,
          td := { r.td with
            eaten := r.td.eaten + e.len, nEaten := r.td.nEaten + 1, filedAt := r.td.filedAt.or (some ((r.elems.getD 15 e).at_)) } } all f
      else r
    | [] => r

/-- The TD that has ended, with the facts of its record (R66). Bytes that no confirming read covers count only where none
failed (R285). -/
def Ring.doneTd (r : Ring) (n k : Nat) (x : TdEnd) (inn ctrl iso late : Bool) : DoneTd :=
  let es := headTd r.elems
  let last := es.getLast?.getD {}
  let sure := if inn then max r.td.sure (if ctrl then min 8 r.td.moved else 0) else r.td.moved
  let moved := if r.td.memErr then sure else r.td.moved
  { inst := n, ring := k, code := x.code, tag := x.tag, total := r.td.eaten + sumLen es, moved := moved, sure := sure,
    fixed := x.fixed, cring := last.cring, notify := last.notify, cons := r.entryAt es.length, entry := x.entry,
    mids := if ctrl then [] else r.noteMids.td.mids.filter (fun m => decide (m.upto ≤ moved)), mf := r.td.mf, late := late,
    iso := iso, stopShort := x.stopShort, confirming := decide (n < 128) && (decide (sure < moved) || r.td.confirming),
    early := if r.td.confirming then some r.td.confAt else none, last := r.td.last,
    win := if iso && !(es.headD {}).asap then some (es.headD {}).frame else none,
    tdid := match r.ids with | i :: _ => i.1 | [] => 0
    elem := (x.entry + r.size - r.cons) % r.size + r.td.nEaten }

/-- The head TD leaves the ring. The ring's most recent CRING (R71) is that of the last element of the last TD consumed. DESIGN
CHOICE, log entry 59. -/
def Ring.consume (r : Ring) : Ring :=
  let es := headTd r.elems
  { r with
    elems := r.elems.drop es.length, cons := r.entryAt es.length, td := {}, sent := r.sent - es.length, ids := r.ids.drop 1
    lastCring := some ((es.getLast?.getD {}).cring) }

/-- A stop that settles the TD in progress has been asked for, here or of the home node (R105, R150, R359). -/
def StopWhy.settles : StopWhy → Bool
  | .settle | .quit | .reset | .unfit | .reroute => true
  | _ => false
def Ep.stopping (e : Ep) : Bool := e.stop.any StopWhy.settles || e.asked

/-- An ended TD whose last element is there waits for its confirming read and its record; one whose end is not handed
over yet is consumed as far as it goes (R66, R448). -/
def Chip.closeTdOn (c : Chip) (n key k : Nat) : Chip :=
  let r := c.ring n k
  match r.td.ended with
  | none => c
  | some x =>
    if tdWhole r.elems then
      let e := c.ep key
      let ctrl := e.ty == .control
      let inn := if ctrl then r.ctrlIn else keyIn key
      let d := { r.doneTd n k x inn ctrl (e.ty == .isoch) ((e.stopping || (e.rerouted && decide (n < 128))) && natural x.code) with
        epoch := e.epochFor n, gen := (c.inst n).gen }
      let c := (c.updRing n k Ring.consume).updEp key (fun e => { e with
        rerouted := e.rerouted && decide (128 ≤ n)
        done := e.done ++ [d], settled := e.settled || (e.stopping && (natural x.code || x.code == ccStopped)) })
      if d.confirming && d.early.isNone then (c.fly key n false).emit (.hostRead n d.last 4) else c
    else (c.updRing n k (fun r => r.noteMids.eat true 16)).fetch n k

def Chip.closeTd (c : Chip) (key k : Nat) : Chip := c.closeTdOn (c.ringHome (keySlot key)) key k

/-- The endpoint's state after a TD has ended on the bus (R67, R74, R94). A short end under a stop leaves the endpoint to it. -/
def Ep.afterEnd (e : Ep) (x : TdEnd) : Ep :=
  if e.st != .running then e
  else if halts (e.ty == .isoch) x.code then { e with st := .halted }
  else if x.stopShort && !(e.stop.any (fun w => w.settles && w != .reroute)) then { e with st := .stopped }
  else e

/-- An end is HOST_MEM_ERR where a confirming read of the TD has failed (R285). -/
def Ring.endAs (r : Ring) (x : TdEnd) : TdEnd := if r.td.memErr then { x with code := ccHostMem, fixed := none } else x

/-- The head TD of a ring ends. -/
def Chip.endTd (c : Chip) (key : Nat) (x : TdEnd) : Chip :=
  let k := (c.ep key).headRing
  let n := c.ringHome (keySlot key)
  let x := (c.ring n k).endAs x
  let c := (c.unstage key).updRing n k (fun r => { r with td := { r.td with ended := some x } })
  (c.updEp key (fun e => { e.afterEnd x with split := false })).closeTd key k

/-- The end at the element the bytes moved have reached (R66). -/
def Ring.endAt (r : Ring) (code : Byte) : TdEnd :=
  let i := r.endElem
  { code := code, tag := i.2.tag, entry := r.entryAt i.1, stopShort := code == ccShort && !i.2.shortOk }

/-- The end at the k-th element held. -/
def Ring.endNth (r : Ring) (k : Nat) (code : Byte) : TdEnd :=
  { code := code, tag := (r.elems.getD k {}).tag, entry := r.entryAt k }

/-- A control TD ends: at its STATUS element, or where its stage failed (R66, R154, R155). -/
def Ring.endCtrl (r : Ring) (code : Byte) : TdEnd :=
  match r.td.stage with
  | .setup => r.endNth 0 code
  | .data => r.endNth 1 code
  | _ => { r.endNth ((headTd r.elems).length - 1) code with stopShort := code == ccShort && !r.td.shortOk }

/-- The end that a stop gives a begun TD (R105, R173). -/
def Ring.endStop (r : Ring) (ctrl : Bool) : TdEnd :=
  if ctrl then
    match r.td.stage with
    | .setup => r.endNth 0 ccStopped
    | .data => { r.endNth 1 ccStopped with fixed := some (r.ctrlLen - (r.td.moved - 8)) }
    | _ => { r.endNth ((headTd r.elems).length - 1) ccStopped with fixed := some 0 }
  else r.endAt ccStopped

/-! ### Records of ended TDs -/

/-- The transfer record of an ended TD (R65, R66, R69). A refused TD's sum that does not fit RESIDUE stands there modulo 2^24. DESIGN
CHOICE, log entry 60. -/
def DoneTd.record (d : DoneTd) : Rec :=
  .transfer d.code d.tag (BitVec.ofNat 24 (d.fixed.getD (d.total - d.moved))) d.late false false d.ring d.cons d.entry d.mf

/-- A TD posts a record on any code but SUCCESS, on NOTIFY, and when LATE (R65, R105). -/
def DoneTd.posts (d : DoneTd) : Bool := d.code != ccSuccess || d.notify || d.late

/-- Posts the CHAIN_MID records of a list: ring, micro-frame (R65). -/
def Chip.postMids (c : Chip) (key n k : Nat) (mf : Option (BitVec 16)) (ms : List Mid) : Chip :=
  ms.foldl (fun c m => c.post n m.cring
    { body := .transfer ccSuccess m.tag 0 false true false k m.entry m.entry mf, key := some key }) c

/-- The RESULT of a far TD, kept until E2E_ACK (R358). -/
def Chip.reportFar (c : Chip) (key : Nat) (d : DoneTd) : Chip :=
  let c := c.sendFrame (instNode d.inst) 0x03 (d.code.toNat + 2 ^ 8 * d.moved + 2 ^ 32 * d.elem + 2 ^ 48 * d.tdid)
    ((c.ep key).ty == .isoch || (c.ep key).ty == .interrupt)
  c.updEp key (fun e => { e with kept := e.kept ++ [0] })

/-- Posts the records of one ended TD: those of its CHAIN_MID elements first. A stale result is dropped (R15, the second check). -/
def Chip.report (c : Chip) (key : Nat) (d : DoneTd) : Chip :=
  if 128 ≤ d.inst then c.reportFar key d
  else if !c.current key d.inst d.epoch d.gen then c.countDrops d.inst 1
  else
  let c := c.postMids key d.inst d.ring d.mf d.mids
  if d.posts then c.post d.inst d.cring { body := d.record, key := some key, win := d.win } else c

/-- Posts the ended TDs of an endpoint up to the first that awaits its confirming read (R79). -/
def Chip.flushDone (c : Chip) (key : Nat) : Nat → Chip
  | 0 => c
  | f + 1 =>
    match (c.ep key).done with
    | d :: t =>
      if d.confirming then
        (c.updEp key (fun e => { e with done := { d with mids := d.mids.filter (fun m => decide (d.sure < m.upto)) } :: t })).postMids
          key d.inst d.ring d.mf (d.mids.filter (fun m => decide (m.upto ≤ d.sure)))
      else ((c.updEp key (fun e => { e with done := t })).report key d).flushDone key f
    | [] => c

def Chip.flushEp (c : Chip) (key : Nat) : Chip := c.flushDone key (c.ep key).done.length

/-- CHAIN_MID records of the TD in progress on a ring (R65): IN bytes are confirmed by a read of the last dword written, one
read at a time (R284), OUT bytes by the device's acknowledgement; no record passes one of an earlier TD. DEDUCED, log entry 25. -/
def Chip.midStep (c : Chip) (key n k : Nat) : Chip :=
  let c := c.updRing n k Ring.noteMids
  let t := (c.ring n k).td
  let sure := if keyIn key then t.sure else t.moved
  if 128 ≤ n || t.mids.isEmpty || (c.ep key).ty == .control then c
  else
    let c := if keyIn key && !t.confirming && !t.memErr && t.ended.isNone && t.mids.any (fun m => decide (sure < m.upto)) then
        (c.updRing n k (fun r => { r with td := { r.td with confirming := true, confAt := t.moved } })).fly key n false |>.emit
            (.hostRead n t.last 4)
      else c
    if (c.ep key).done.isEmpty then
      (c.updRing n k (fun r => { r with td := { r.td with mids := t.mids.filter (fun m => decide (sure < m.upto)) } })).postMids
        key n k t.mf (t.mids.filter (fun m => decide (m.upto ≤ sure)))
    else c

/-! ### Stops -/

/-- A transaction of the endpoint is on its bus, or is paused there. -/
def Chip.onBus (c : Chip) (key : Nat) : Bool :=
  let b := c.bus (c.slotBus (keySlot key))
  let is (o : Option OnBus) : Bool := match o with
    | some x => x.key == key && !x.lpm
    | none => false
  is b.on || is b.paused

/-- The rings bound to an endpoint: its own, or those of its streams (R93, R95). -/
def Ep.rings (e : Ep) : List Nat :=
  if e.maxStreams = 0 then (if e.ring = 0 then [] else [e.ring]) else e.streams.map (fun s => s.2)

/-- Nothing of the endpoint is unsettled: no transaction on the bus, no TD that has begun or ended unreported. -/
def Chip.quiet (c : Chip) (key : Nat) : Bool :=
  let e := c.ep key
  let r := c.ring (c.ringHome (keySlot key)) e.headRing
  !c.onBus key && e.done.isEmpty && !(r.live && (r.td.begun || r.td.ended.isSome))

/-- No TD that was handed over whole is left on a ring, nor can one still be fetched. -/
def Chip.drained (c : Chip) (n k : Nat) : Bool :=
  let r := c.ring n k
  !r.live || (r.td.ended.isNone && (!c.fetches n k || (r.reads == 0 && decide (r.handed ≤ r.elems.length))))

/-- The TD of a dropped life: forgotten, with its data, and its results counted as dropped (R15, R250). -/
def Chip.dropWork (c : Chip) (key : Nat) : Chip :=
  let n := c.ringHome (keySlot key)
  let k := (c.ep key).headRing
  let c := c.countDrops n ((c.ep key).done.length + if (c.ring n k).td.begun then 1 else 0)
  ((c.unstage key).updRing n k (fun r => { r with td := {} })).updEp key (fun e => { e with done := [], split := false })

/-- Every TD of a ring that has been handed over whole, and the one in progress, ends with a code (R92, R94, R66). -/
def Chip.failAll (c : Chip) (key k : Nat) (code : Byte) : Nat → Chip
  | 0 => c
  | f + 1 =>
    let n := c.ringHome (keySlot key)
    let r := c.ring n k
    if !r.live || r.td.ended.isSome || !(tdWhole r.elems || r.td.begun) then c
    else
      let x := if r.td.begun then { r.endStop ((c.ep key).ty == .control) with code := code, fixed := none }
        else r.endNth 0 code
      let c := c.updRing n k (fun r => { r with td := { r.td with ended := some (r.endAs x) } })
      (c.closeTd key k).failAll key k code f

/-- Ends what each ring of an endpoint holds, and fetches what else was handed over (R94). -/
def Chip.failRings (c : Chip) (key : Nat) (code : Byte) : Chip :=
  (c.ep key).rings.foldl (fun c k => (c.failAll key k code 17).fetch (c.ringHome (keySlot key)) k) (c.unstage key)

/-- What a stop leaves (R92, R94, R96, R105): STOP_EP stops what is Running and bumps it; port reset and reassignment stop and bump
from every state; DISABLE_SLOT, DESTROY_RING and R132 bump nothing; a route change leaves the endpoint Running (R150). -/
def Ep.stopped (e : Ep) (why : StopWhy) (now : Nat) : Ep :=
  let e' := { e with stop := none, asked := false, rerouted := why == .reroute }
  match why with
  | .settle => if e.st = .running then { e'.bump now with st := .stopped, nrdy := false, erdy := false } else e'
  | .quit => if e.st = .running then { e' with st := .stopped, nrdy := false, erdy := false } else e'
  | .reset => if e.st = .disabled then e' else { e'.bump now with st := .stopped, nrdy := false, erdy := false }
  | .unfit => if e.st = .disabled then e' else { e' with st := .stopped, nrdy := false, erdy := false }
  | .drop => if e.st = .running then { e' with st := .stopped, nrdy := false, erdy := false, rally := e.rally.ease now } else e'
  | .reroute => e'.bump now
  | .gone _ => e'

/-- The part of a settlement that can be done now: a begun TD ends STOPPED; of a device that is gone, every TD ends. -/
def Chip.settleWork (c : Chip) (key : Nat) (why : StopWhy) : Chip :=
  let r := c.ring (c.ringHome (keySlot key)) (c.ep key).headRing
  match why with
  | .drop => c.dropWork key
  | .gone code => c.failRings key code
  | _ =>
    if r.live && r.td.begun && r.td.ended.isNone && ((c.ep key).st == .running || (why != .settle && why != .reroute)) then
      c.endTd key (r.endStop ((c.ep key).ty == .control))
    else c.unstage key

/-- Nothing is left that the stop waits for. -/
def Chip.atRest (c : Chip) (key : Nat) (why : StopWhy) : Bool :=
  match why with
  | .gone _ => !c.onBus key && (c.ep key).done.isEmpty
      && (c.ep key).rings.all (fun k => c.drained (c.ringHome (keySlot key)) k)
  | _ => c.quiet key

/-- The elements of a far endpoint that were forwarded and have not begun go back to the host node's ring, whichever node
this is (R105, R359). -/
def Chip.recall (c : Chip) (key : Nat) : Chip :=
  let n := c.ringHome (keySlot key)
  if 128 ≤ n then
    (c.ep key).rings.foldl (fun c k => c.updRing n k (fun r => { r with elems := [], ids := [], prod := 0, cons := 0, td := {} })) c
  else if farKey (keySlot key) then
    (c.ep key).rings.foldl (fun c k => c.updRing n k (fun r => { r with sent := 0, ids := [] })) c
  else c

/-- Settles as much of an endpoint as can be settled now: the begun TD ends, the records that are due are posted,
and once nothing is left the stop takes its effect (R105). -/
def Chip.settle (c : Chip) (key : Nat) : Chip :=
  match (c.ep key).stop with
  | none => c
  | some why =>
    if c.onBus key then c
    else
      let c := (c.settleWork key why).flushEp key
      if c.atRest key why then
        let c := c.updEp key (fun e => e.stopped why c.us)
        if why = .reroute then c else c.recall key
      else c

/-- A stop of an endpoint begins: no new transaction begins, ended TDs that await confirmation become LATE, and what can
be settled is (R105). -/
def Chip.stop (c : Chip) (key : Nat) (why : StopWhy) : Chip :=
  let late := why.settles
  let c := c.updEp key (fun e => { e with
    stop := some why
    settled := (e.asked && e.settled) || e.done.any (fun d => natural d.code)
    done := if late then e.done.map (fun d => if natural d.code then { d with late := true } else d) else e.done })
  c.settle key

/-- Every endpoint of the list is settled, and its bumps have taken effect (R97). -/
def Chip.settledAll (c : Chip) (keys : List Nat) : Bool := keys.all (fun k => (c.ep k).stop.isNone && (c.ep k).due == 0)

/-- A bump asked for outside a stop: at once where nothing of the endpoint is unreported, else once that is (R96, R97). -/
def Ep.bumpWhenQuiet (e : Ep) (now : Nat) : Ep :=
  if e.done.isEmpty then e.bump now else { e with due := e.due + 1, rally := e.rally.ease now }

/-! ### The head of a ring -/

/-- First micro-frame at or after `m` in which the endpoint's entry comes up (R125): period 2^INTERVAL, phase `ph`. -/
def nextOpp (m : BitVec 16) (interval ph : Nat) : BitVec 16 :=
  let p := 2 ^ interval
  m + BitVec.ofNat 16 ((ph + 65536 * p - m.toNat) % p)

/-- The phase of a PEP's first entry within its whole period: the slot, and the pass (R125, R130, R136); up to a multiple
of the period. -/
def Pep.whole (p : Pep) (k : Nat) : Nat := p.phase + 256 * (k % (p.skip + 1)) + 65528 + (p.entries.headD {}).at_

/-- The endpoint's entry in the running micro-frame is still to come. -/
def Bus.stillDue (b : Bus) (key : Nat) : Bool := b.todo.any (fun t => t.1 == key)

/-- The opportunity of the isochronous element at the head (R143, R144); none: it completes MISSED_SERVICE. -/
def Chip.isoPlace (c : Chip) (key : Nat) (x : Elem) : Option (BitVec 16) :=
  let e := c.ep key
  let k := e.pep.getD 0
  let p := c.pep k
  let b := c.bus (c.slotBus (keySlot key))
  let ph := p.whole k
  let next := nextOpp (if b.stillDue key then b.mf else b.mf + 1) e.interval ph
  if x.asap then
    match e.lastOpp with
    | some m => if (m - next).toNat < 32768 then some (nextOpp (m + 1) e.interval ph) else some next
    | none => some next
  else
    let d := (x.frame - b.mf).toNat
    let place := if 65528 ≤ d then some next
      else if d ≤ 7160 then
        let m := nextOpp x.frame e.interval ph
        if m = b.mf ∧ b.stillDue key = false then none else some m
      else none
    match place, e.lastOpp with
    | some m, some l => if (l - m).toNat < 32768 then none else some m
    | q, _ => q

/-- The data of an isochronous OUT element is not in the packet buffer and its opportunity lies in the micro-frame that runs: the
deadline of R145 has passed. -/
def Chip.tooLate (c : Chip) (key : Nat) (m : BitVec 16) : Bool :=
  let r := c.ring (c.ringHome (keySlot key)) (c.ep key).headRing
  let got := match r.ids with
    | x :: _ => x.2
    | [] => 0
  let len := (r.elems.headD {}).len
  !keyIn key && !(c.ep key).staged && decide (got < len) && m == (c.bus (c.slotBus (keySlot key))).mf

/-- Staging of an isochronous OUT element begins within 8 micro-frames of its opportunity (R145). -/
def Chip.stageIso (c : Chip) (key : Nat) (m : BitVec 16) : Chip :=
  if (m - (c.bus (c.slotBus (keySlot key))).mf).toNat ≤ 8 then c.stageOut key else c

/-- Looks at the head of an endpoint's ring: refused TDs and no-ops complete (R58, R59), an isochronous element is placed
or missed (R143), OUT data is staged (R13, R145), elements are fetched (R56). -/
def Chip.advance (c : Chip) (key : Nat) : Nat → Chip
  | 0 => c
  | f + 1 =>
    let e := c.ep key
    let n := c.ringHome (keySlot key)
    let k := e.headRing
    let c := if (c.ring n k).long then c.updRing n k (fun r => r.noteMids.eat false 16) else c
    let c := c.fetch n k
    let r := c.ring n k
    let ctrl := e.ty == .control
    if e.st != .running || e.stop.isSome || decide (0 < e.due) || e.unfit || !r.live || r.halted || !r.filed || r.td.ended.isSome
        || !(c.inst n).serves || c.epHeld key then c
    else if r.td.begun then
      match r.fault ctrl with
      | some j =>
        if (r.plan (c.path key) e (keyIn key)).isNone && !c.onBus key then
          ((c.endTd key (r.endNth j ccParam)).flushEp key).advance key f
        else c.stageOut key
      | none => c.stageOut key
    else
      match r.fault ctrl with
      | some j => ((c.endTd key (r.endNth j ccParam)).flushEp key).advance key f
      | none =>
        if allNoop (headTd r.elems) && tdWhole r.elems then
          ((c.endTd key (r.endNth ((headTd r.elems).length - 1) ccSuccess)).flushEp key).advance key f
        else if e.ty = .isoch then
          match r.td.place with
          | some m => c.stageIso key m
          | none =>
            match c.isoPlace key (r.elems.headD {}) with
            | none => ((c.endTd key (r.endNth 0 ccMissed)).flushEp key).advance key f
            | some m =>
              let c := (c.updRing n k (fun r => { r with td := { r.td with place := some m } })).updEp key
                (fun e => { e with lastOpp := some m })
              if c.tooLate key m then ((c.endTd key (r.endNth 0 ccDataBuf)).flushEp key).advance key f else c.stageIso key m
        else c.stageOut key

/-- A stream has a filed TD. -/
def Chip.streamFiled (c : Chip) (key s : Nat) : Bool :=
  let r := c.ring (c.ringHome (keySlot key)) (Tbl.get 0 (c.ep key).streams s)
  r.live && !r.halted && r.filed && r.td.ended.isNone

/-- The next current stream (R162, R163): one that the device wants and that has received a TD; the one it named last; or
the next with a filed TD in ascending stream ID after the one served last. -/
def Chip.nextStream (c : Chip) (key : Nat) : Nat :=
  let e := c.ep key
  let rank (s : Nat) : Nat := if e.lastStream < s then s else s + 65536
  match e.wanted.find? (c.streamFiled key) with
  | some s => s
  | none =>
    if c.streamFiled key e.named then e.named
    else (e.streams.map (fun s => s.1)).foldl (fun a s =>
      if c.streamFiled key s && (a == 0 || decide (rank s < rank a)) then s else a) 0

/-- An endpoint with streams takes up a stream when it has none with work (R162). -/
def Chip.pickStream (c : Chip) (key : Nat) : Chip :=
  let e := c.ep key
  if e.maxStreams = 0 || c.onBus key || e.waits || (c.streamFiled key e.stream && (e.wanted.all (fun s => !c.streamFiled key s))) then c
  else
    let s := c.nextStream key
    if s = 0 then c
    else c.updEp key (fun e => { e with stream := s, lastStream := s, wanted := e.wanted.filter (· != s) })

/-! ### Far endpoints on the host node -/

/-- The opportunity of a far isochronous element, as the host node knows it: by the phase that admission returned (R131, R143,
R144). -/
def Chip.farOpp (c : Chip) (e : Ep) (x : Elem) : BitVec 16 :=
  let iv := min e.interval 8
  let next := nextOpp (c.mf + 1) iv e.phase
  if !x.asap then nextOpp x.frame iv e.phase
  else
    match e.lastOpp with
    | some m => if (m - next).toNat < 32768 then nextOpp (m + 1) iv e.phase else next
    | none => next

/-- The element may be forwarded now: an isochronous one once its opportunity lies within 16 micro-frames, or its window does not
hold it (R149). -/
def Chip.nearEnough (c : Chip) (e : Ep) (x : Elem) : Bool :=
  let d := (c.farOpp e x - c.mf).toNat
  e.ty != .isoch || decide (d ≤ 16) || decide (32768 ≤ d) || (!x.asap && outsideWindow x.frame c.mf)

/-- The OUT data of elements that are forwarded is read from host memory (R13, R358). -/
def outPieces (r : Ring) (ctrl epIn : Bool) (es : List Elem) : List (Addr × Nat) :=
  if ctrl then (if r.ctrlIn then [] else cutAll (pieces 0 (es.filter (fun x => x.ty == 0x03)) 0 (sumLen es)))
  else if epIn then []
  else cutAll (pieces 0 es 0 (sumLen es))

/-- ELEMENT frames of one TD, or of the elements that continue a TD of more than 16, with the reads of their data. -/
def Chip.sendTd (c : Chip) (key k : Nat) (es : List Elem) (more : Bool) : Chip :=
  let n := c.ringHome (keySlot key)
  let id := if more then (match (c.ring n k).ids.getLast? with | some i => i.1 | none => 0) else c.fab.tdid.toNat
  let ps := outPieces { c.ring n k with elems := es } ((c.ep key).ty == .control) (keyIn key) es
  let st := if ps.isEmpty then 0 else 1
  let per := (c.ep key).ty == .isoch || (c.ep key).ty == .interrupt
  let c := es.foldl (fun (c : Chip) x => c.sendFrame (keySlot key / 256 - 1) 0x00 (id + 2 ^ 16 * x.entry + 2 ^ 32 * key) per) c
  let c := { c with out := (ps.map (fun (p : Addr × Nat) => Out.hostRead n p.1 p.2)).reverse ++ c.out }
  let c := if ps.isEmpty then c else c.fly key n true
  let iso := (c.ep key).ty == .isoch
  let c : Chip := if iso then
      es.foldl (fun (c : Chip) x => let m := c.farOpp (c.ep key) x; c.updEp key (fun e => { e with lastOpp := some m })) c else c
  let c := c.updRing n k (fun r => { r with
    sent := r.sent + es.length
    ids := if more then r.ids.map (fun i => if i.1 = id ∧ st = 1 then (id, 1) else i) else r.ids ++ [(id, st)] })
  if more then c else { c with fab := { c.fab with tdid := c.fab.tdid + 1 } }

/-- Forwards the filed elements of a ring in order; a TD that R59 refuses completes here when it is the oldest (R357,
R358). -/
def Chip.forward (c : Chip) (key k : Nat) : Nat → Chip
  | 0 => c
  | f + 1 =>
    let n := c.ringHome (keySlot key)
    let c := (if (c.ring n k).long then c.updRing n k (fun r => r.noteMids.eat false 16) else c).fetch n k
    let e := c.ep key
    let r := c.ring n k
    let rest := r.elems.drop r.sent
    let more := match (r.elems.take r.sent).getLast? with
      | some x => x.chain
      | none => decide (0 < r.td.nEaten)
    let td := headTd rest
    if e.st != .running || e.stop.isSome || e.asked || !r.live || r.halted || !(c.inst n).serves || c.epHeld key || r.td.ended.isSome
        || td.isEmpty then c
    else if more then (c.sendTd key k td true).forward key k f
    else if !tdWhole rest && !(r.sent == 0 && decide (16 ≤ r.elems.length)) then c
    else
      match ({ r with elems := rest, td := {} } : Ring).fault (e.ty == .control) with
      | some j =>
        if r.sent = 0 then
          ((((c.updEp key (fun e => { e with stream := r.stream })).endTd key (r.endNth j ccParam))).flushEp key).forward key k f
        else c
      | none => if c.nearEnough e (td.headD {}) then (c.sendTd key k td false).forward key k f else c

/-- The oldest TD of a ring, whose OUT data could not be read, ends HOST_MEM_ERR, and the home node is told to stop. -/
def Chip.farBad (c : Chip) (key k : Nat) : Chip :=
  let r := c.ring (c.ringHome (keySlot key)) k
  match r.ids with
  | (_, 3) :: _ =>
    if r.td.ended.isSome then c
    else
      let c := c.updEp key (fun e => { e with stream := r.stream })
      ((c.endTd key (if (c.ep key).ty == .control then r.endNth 1 ccHostMem else r.endAt ccHostMem)).flushEp key).sendFrame
        (keySlot key / 256 - 1) 0x04 key
  | _ => c

/-- The TDs of an endpoint whose confirming read for a CHAIN_MID record has failed end, once no transaction is under way
(R285). -/
def Chip.endBad (c : Chip) (key : Nat) : Chip :=
  if c.onBus key then c
  else
    (c.ep key).rings.foldl (fun c k =>
      let r := c.ring (c.ringHome (keySlot key)) k
      if r.td.memErr && r.td.ended.isNone then
        (c.updEp key (fun e => { e with stream := r.stream })).endTd key (r.endAt ccHostMem)
      else c) c

/-- Every ring of an endpoint: CHAIN_MID records that are due, and the close of a TD whose last elements have come since it
ended (R66, R448). -/
def Chip.midAll (c : Chip) (key : Nat) : Chip :=
  (c.ep key).rings.foldl (fun c k => (c.midStep key (c.ringHome (keySlot key)) k).closeTd key k) (c.endBad key)

/-- A bump that waited for its endpoint is made when it can be (R97). -/
def Chip.payEp (c : Chip) (key : Nat) : Chip :=
  if decide (0 < (c.ep key).due) && !c.onBus key then c.updEp key Ep.payDue else c

/-- A far endpoint of an instance of this node, after anything that happened to it. -/
def Chip.farTend (c : Chip) (key : Nat) : Chip :=
  let c := c.payEp key
  let c := (c.ep key).rings.foldl (fun c k => c.farBad key k) ((((c.flushEp key).midAll key).flushEp key).settle key)
  (c.ep key).rings.foldl (fun c k => (c.fetch (c.ringHome (keySlot key)) k).forward key k 18) c

/-- Settles, reports and looks at the head of the ring of an endpoint, after anything that happened to it. -/
def Chip.tend (c : Chip) (key : Nat) : Chip :=
  if farKey (keySlot key) then c.farTend key
  else
  let c := ((((c.flushEp key).midAll key).flushEp key).settle key).payEp key
  let c := (c.ep key).rings.foldl (fun c k => c.fetch (c.ringHome (keySlot key)) k) c
  (c.pickStream key).advance key 18

end Sys2Proof.Machine
end

