-- ==== Sys2Proof/Machine/Lineup.lean ====
section
/-! DEFINITION. The Lineup: costs (R128), budgets (R129), placement (R130, R134 to R136), admission (R131, R148), the
entries of a slot (R124, R125, R140). -/

namespace Sys2Proof.Machine

/-- Cost of one service opportunity, or the full-speed cost of a split endpoint on its translator (R128). -/
def oppCost (path : Path) (speed : BitVec 4) (iso : Bool) (l burst mult think : Nat) : Nat :=
  match path with
  | .ss => (mult + 1) * ((burst + 1) * (4 * cdiv l 4 + 36) + 48)
  | .hs => (mult + 1) * (stuffed l + (if iso then 42 else 59))
  | .fs => stuffed l + (if iso then 16 else 22)
  | .ls => 8 * stuffed l + 99
  | .split =>
    if speed = 1 then 8 * stuffed l + 99 + think + 1
    else if iso then stuffed l + 16 + think + 1
    else stuffed l + 22 + think + 1

/-- The periodic limit of a bus at a speed, by the PORT_CHANGE code (R129). -/
def busLimit (speed : BitVec 4) : Nat :=
  if speed = 3 then 6000
  else if speed = 4 then 56250
  else if speed = 5 then 112500
  else if speed = 6 then 136363
  else if speed = 7 then 272727
  else 1350

/-- The Lineup repeats every 256 micro-frames; longer intervals are charged in every pass (R130). -/
def lineupPeriod (interval : Nat) : Nat := 2 ^ min interval 8

/-- The entry of a PEP with this phase lies in slot `s`. -/
def Entry.inSlot (x : Entry) (interval phase s : Nat) : Bool :=
  (s + 264 - x.at_) % lineupPeriod interval == phase % lineupPeriod interval

/-- Cost and count of a PEP's entries in a slot. -/
def Pep.slotCost (p : Pep) (s : Nat) : Nat :=
  p.entries.foldl (fun n x => if x.inSlot p.interval p.phase s then n + x.cost else n) 0
def Pep.slotCount (p : Pep) (s : Nat) : Nat :=
  p.entries.foldl (fun n x => if x.inSlot p.interval p.phase s then n + 1 else n) 0

/-- The PEPs that hold a charge on a bus; one being dropped holds it until its boundary (R126). -/
def Chip.busPeps (c : Chip) (b : Nat) : List Pep := (c.peps.map (fun e => e.2)).filter (fun p => p.used && p.bus == b)

def slotLoad (ps : List Pep) (s : Nat) : Nat := ps.foldl (fun n p => n + p.slotCost s) 0
def slotEntries (ps : List Pep) (s : Nat) : Nat := ps.foldl (fun n p => n + p.slotCount s) 0

/-- Entries of the pool in use on the chip (R123). -/
def Chip.poolEntries (c : Chip) : Nat :=
  c.peps.foldl (fun n e => if e.2.used then n + e.2.entries.length * (256 / lineupPeriod e.2.interval) else n) 0
def lineupPool : Nat := 114688

/-- What a candidate placement makes of its slots: the greatest load, and whether a slot or the pool would be
exhausted. -/
def tryPlace (c : Chip) (ps : List Pep) (p : Pep) : Nat × Bool :=
  let used := (List.range 256).filter (fun s => 0 < p.slotCount s)
  (used.foldl (fun n s => max n (slotLoad ps s + p.slotCost s)) 0,
    used.any (fun s => 255 < slotEntries ps s + p.slotCount s)
      || decide (lineupPool < c.poolEntries + p.entries.length * (256 / lineupPeriod p.interval)))

/-- The better of two placements: the smaller load, the earlier phase on a tie. -/
def better (a b : Option (Nat × Nat)) : Option (Nat × Nat) :=
  match a, b with
  | some (l, p), some (l', p') => if l' < l then some (l', p') else some (l, p)
  | none, b => b
  | a, none => a

/-- Chooses the phase of a new endpoint (R130): by load, then the lowest; the REASON where none is left (R131). -/
def Chip.choosePhase (c : Chip) (p : Pep) (phases : List Nat) (limit : Nat) : Except Nat Nat :=
  let ps := c.busPeps p.bus
  let tried := phases.map (fun ph => (ph, tryPlace c ps { p with phase := ph }))
  let within := tried.filter (fun t => decide (t.2.1 ≤ limit))
  let good := within.filter (fun t => !t.2.2)
  match good.foldl (fun a t => better a (some (t.2.1, t.1))) none with
  | some (_, ph) => .ok ph
  | none => if within.isEmpty then .error 4 else .error 5

/-! ### Translators -/

/-- Frames between services on a translator, of its 32-frame period (R134, R135). -/
def ttPeriod (interval : Nat) : Nat := min 32 (2 ^ (interval - 3))

/-- Two placements share a frame. -/
def sameFrame (f p f' p' : Nat) : Bool := f % min p p' == f' % min p p'

/-- The lowest start B free in every frame due, of those that begin the frame or follow another placement (R135). -/
def lowestB (ps : List Pep) (f period cost : Nat) : Option Nat :=
  let qs := ps.filter (fun q => sameFrame f period (q.phase / 8) (ttPeriod q.interval))
  let free (b : Nat) : Bool := decide (b + cost ≤ 1350) && qs.all (fun q => decide (b + cost ≤ q.ttB) || decide (q.ttB + q.ttC ≤ b))
  ((0 :: qs.map (fun q => q.ttB + q.ttC)).filter free).foldl
    (fun a b => match a with | some x => some (min x b) | none => some b) none

/-- Frame phase and B (R135): the phases that give the lowest B, and the lowest of them. -/
def placeTt (ps : List Pep) (interval cost : Nat) : Option (Nat × Nat) :=
  (List.range (ttPeriod interval)).foldl (fun a f =>
    match a, lowestB ps f (ttPeriod interval) cost with
    | none, some b => some (f, b)
    | some (f', b'), some b => if b < b' then some (f, b) else some (f', b')
    | a, none => a) none

/-- The split entries of an endpoint (R136), at micro-frames counted from eight before its frame. -/
def splitEntries (iso inn : Bool) (l b cost : Nat) : List Entry :=
  let y := 8 * b / 1500
  let z := 8 * (b + cost - 1) / 1500
  if iso && !inn then
    let n := max 1 (cdiv l 188)
    (List.range n).map (fun j =>
      { at_ := y + 7 + j, kind := 1, part := if n = 1 then 0 else if j = 0 then 1 else if j + 1 = n then 3 else 2,
        cost := 40 + stuffed (min 188 (l - 188 * j)) })
  else
    let last := if iso then z + 2 else max (y + 2) (z + 2)
    { at_ := y + 7, kind := 1, cost := 40 + (if inn then 0 else stuffed l) } ::
      (List.range (last - y)).map (fun j =>
        { at_ := y + 9 + j, kind := 2, cost := 40 + (if inn then stuffed (min l 188) else 0) })

/-! ### Admission -/

/-- The translator budget an endpoint belongs to: its hub's slot, and the port where each port has its own (R134). -/
def Chip.ttOf (c : Chip) (s : Slot) : Nat × Nat := (c.slotKey s.ttSlot.toNat, if s.mtt then s.ttPort.toNat else 0)

def Chip.tt (c : Chip) (k : Nat) : Tt := Tbl.get {} c.tts k

def Chip.findTt (c : Chip) (s : Slot) : Option Nat :=
  let h := c.ttOf s
  leastFree (fun k => (c.tt k).used && (c.tt k).hub == h.1 && (c.tt k).port == h.2) 0 64

/-- Bytes per opportunity that a far endpoint is charged on each fabric link of its route (R148). -/
def fabricCharge (payload : Nat) : Nat := payload + 20 * cdiv payload 2048

/-- The periodic reservation of one direction of this node's link on a fabric port (R148): IN data leaves through it, OUT data comes
in. The other links of a route are other nodes' (log entry 57). -/
def Chip.fabricLoad (c : Chip) (port : Nat) (inn : Bool) (s : Nat) : Nat :=
  c.peps.foldl (fun n e =>
    if e.2.used && e.2.fabPort == port && keyIn e.2.key == inn && 0 < e.2.fabric && 0 < e.2.slotCount s then n + e.2.fabric else n) 0

/-- What a direction of a fabric link may carry for periodic endpoints: half of its rate (R148), which a lost lane halves (R367). -/
def Chip.fabLimit (c : Chip) (port : Nat) : Nat := if (c.fabPort (port - 1)).lanes = 1 then 195312 else 390625

/-- A far PEP's charge fits beside the others of its direction, in each of its slots (R148). -/
def Chip.fabricFits (c : Chip) (p : Pep) : Bool :=
  (List.range 256).all (fun s => p.slotCount s == 0 || decide (c.fabricLoad p.fabPort (keyIn p.key) s + p.fabric ≤ c.fabLimit p.fabPort))

/-- A request for a periodic endpoint. -/
structure PepReq where
  key : Nat
  iso : Bool
  mps : Nat
  burst : Nat
  mult : Nat
  interval : Nat

/-- Phases a new endpoint may take: all of its interval, multiples of 8 on a full- or low-speed bus (R122, R130). -/
def phasesFor (path : Path) (interval : Nat) : List Nat :=
  (List.range (lineupPeriod interval)).filter (fun p =>
    match path with
    | .fs | .ls => p % 8 == 0
    | _ => true)

/-- Admission (R129 to R131, R134 to R136, R148): the PEP's number and record and the RESERVE, or the REASON. -/
def Chip.admitPep (c : Chip) (q : PepReq) : Except Nat (Nat × Pep × Nat) :=
  let sk := keySlot q.key
  let s := c.slot sk
  let path := c.slotPath sk
  let b := c.slotBus sk
  let inn := keyIn q.key
  let cost := oppCost path s.speed q.iso q.mps q.burst q.mult s.ttThink.toNat
  let far : Option Nat := s.far.map (fun f => f.1)
  let fport := match far with | some n => c.portTo n | none => 0
  let charge := match far with
    | some _ => fabricCharge ((q.mult + 1) * (q.burst + 1) * q.mps)
    | none => 0
  let base : Pep := {
    used := true, key := q.key, bus := b, order := c.pepOrder, interval := q.interval, iso := q.iso,
    skip := if q.interval ≤ 8 then 0 else 2 ^ (q.interval - 8) - 1, fabPort := fport, fabric := charge }
  match leastFree (fun k => !(c.pep k).used) 0 Config.poolPeps with
  | none => .error 1
  | some k =>
    let placed : Except Nat Pep :=
      if path = .split then
        match (match c.findTt s with | some t => some t | none => leastFree (fun t => !(c.tt t).used) 0 64) with
        | none => .error 2
        | some t =>
          match placeTt ((c.peps.map (fun e => e.2)).filter (fun p => p.used && p.tt == some t)) q.interval cost with
          | none => .error 3
          | some (f, bb) =>
            let p := { base with phase := 8 * f, tt := some t, ttB := bb, ttC := cost, entries := splitEntries q.iso inn q.mps bb cost }
            match c.choosePhase p [8 * f] 6000 with
            | .error r => .error r
            | .ok ph => .ok { p with phase := ph }
      else
        let p := { base with entries := [{ kind := if path = .ss then 3 else 0, cost := cost }] }
        match c.choosePhase p (phasesFor path q.interval) (busLimit (c.busSpeed b)) with
        | .error r => .error r
        | .ok ph => .ok { p with phase := ph }
    match placed with
    | .error r => .error r
    | .ok p =>
      match far with
      | none => .ok (k, p, cost)
      | some node =>
        if 8 < c.hopsTo node then .error 6
        else if !c.fabricFits p then .error 7
        else .ok (k, p, cost)

/-- The admitted PEP is stored, with its translator budget (R126, R134). -/
def Chip.putPep (c : Chip) (k : Nat) (p : Pep) : Chip :=
  let c := { c with peps := Tbl.set {} c.peps k p, pepOrder := c.pepOrder + 1 }
  match p.tt with
  | some t =>
    let h := c.ttOf (c.slot (keySlot p.key))
    { c with tts := Tbl.set {} c.tts t { used := true, hub := h.1, port := h.2 } }
  | none => c

/-- A PEP's charge and its number are freed, and its translator budget with its last endpoint (R126, R134). -/
def Chip.freePep (c : Chip) (k : Nat) : Chip :=
  let p := c.pep k
  let c := { c with peps := Tbl.set {} c.peps k {} }
  match p.tt with
  | some t => if c.peps.any (fun e => e.2.used && e.2.tt == some t) then c else { c with tts := Tbl.set {} c.tts t {} }
  | none => c

/-- A drop is asked for: it takes effect at the bus's next boundary. -/
def Chip.dropPep (c : Chip) (k : Nat) : Chip := { c with peps := Tbl.upd {} c.peps k (fun p => { p with dropping := true }) }

/-- The PEP's last change has taken effect (R126). -/
def Pep.steady (p : Pep) : Bool := !p.used || (p.live && !p.dropping)

/-- At a boundary of the bus, adds and drops take effect (R126). -/
def Chip.applyLineup (c : Chip) (b : Nat) : Chip :=
  c.peps.foldl (fun c e =>
    if e.2.used && e.2.bus == b then
      (if e.2.dropping then c.freePep e.1
       else { c with peps := Tbl.upd {} c.peps e.1 (fun p => { p with live := true }) })
    else c) c

/-! ### The slot that runs -/

/-- The entry comes up in micro-frame `n`: the whole period of a PEP's service and its phase within it (R125). All entries of a split
service belong to the frame that R135 gives it, also those that R136 places in the micro-frame before the frame's first or after
slot 255: the pass that R125 tests is that of the frame, not of the entry's own slot. DEDUCED, log entry 55. -/
def Pep.activeAt (p : Pep) (k : Nat) (x : Entry) (n : BitVec 16) : Bool :=
  (n.toNat + 65544 - x.at_) % 2 ^ p.interval == (p.phase + 256 * (k % (p.skip + 1))) % 2 ^ p.interval

/-- The group of an entry in its slot (R140). -/
def Pep.group (p : Pep) (x : Entry) : Nat :=
  if x.kind = 2 then 0 else if x.kind = 1 then 3 else if p.iso || x.kind = 3 then 1 else 2

/-- The last complete-split of its service (R137). -/
def Pep.lastSplit (p : Pep) (x : Entry) : Bool := p.entries.all (fun y => decide (y.at_ ≤ x.at_))

/-- The stored order of entries: by group, and within a group by admission (R140). -/
def entryBefore (a b : Nat × Nat) : Bool := decide (a.1 < b.1) || (a.1 == b.1 && decide (a.2 < b.2))

/-- Puts an item before the first that comes after it. -/
def insSorted {α : Type} (x : α) (k : Nat × Nat) : List ((Nat × Nat) × α) → List ((Nat × Nat) × α)
  | [] => [(k, x)]
  | y :: t => if entryBefore k y.1 then (k, x) :: y :: t else y :: insSorted x k t

/-- The entries that micro-frame `n` of a bus runs, in their stored order: endpoint, KIND, PART, last complete-split. -/
def Chip.lineup (c : Chip) (b : Nat) (n : BitVec 16) : List (Nat × Nat × Nat × Bool) :=
  (c.peps.foldl (fun l e =>
    if e.2.used && e.2.live && e.2.bus == b then
      e.2.entries.foldl (fun l x =>
        if e.2.activeAt e.1 x n then insSorted (e.2.key, x.kind, x.part, e.2.lastSplit x) (e.2.group x, e.2.order) l
        else l) l
    else l) []).map (fun y => y.2)

/-- The entries of a slot of the table, as LINEUP_DATA shows them (R124, R127): entry words in their stored order. -/
def Chip.slotWords (c : Chip) (b s : Nat) : List Nat :=
  (c.peps.foldl (fun l e =>
    if e.2.used && e.2.live && e.2.bus == b then
      e.2.entries.foldl (fun l x =>
        if x.inSlot e.2.interval e.2.phase s then
          insSorted (e.1 + 2 ^ 9 * x.kind + 2 ^ 11 * x.part) (e.2.group x, e.2.order) l
        else l) l
    else l) []).map (fun y => y.2)

end Sys2Proof.Machine
end

