-- ==== Sys2Proof/Machine/Referee.lean ====
section
/-! DEFINITION. The Referee (R175 to R190): colours, wakes, decisions, charges; the start of transactions; and Pitch's run
through a bus micro-frame (R140 to R142, R151). -/

namespace Sys2Proof.Machine

/-- The later of two 40-bit tags (R179, R180). -/
def later (a b : BitVec 40) : BitVec 40 :=
  let d := (a - b).toNat
  if 1 ≤ d ∧ d ≤ 2 ^ 39 - 1 then a else b

/-- A queue's key: 256 × bus + place (R175). -/
def qKey (bus place : Nat) : Nat := 256 * bus + place

/-- The owner of a slot has a place on a bus: an instance of this node always, one of another node while it holds a far place. -/
def Chip.placed (c : Chip) (b sk : Nat) : Bool :=
  match (c.slot sk).far with
  | none => true
  | some f => (List.range 128).any (fun k => (c.queue (qKey b (128 + k))).far == some f)

/-- The place of a slot's owner on a bus: its number, or the far place taken for it (R175). -/
def Chip.placeOf (c : Chip) (b sk : Nat) : Nat :=
  match (c.slot sk).far with
  | none => (c.slot sk).owner.toNat
  | some f => ((List.range 128).find? (fun k => (c.queue (qKey b (128 + k))).far == some f)).map (· + 128) |>.getD 128

/-- The chip is in SERVICE: before, every bucket is unlimited (R32, R187). -/
def Chip.inService (c : Chip) : Bool := c.boot.mode == .service

/-- A queue whose rates are ignored: COMPAT, or no firmware yet (R187). -/
def Chip.unshaped (c : Chip) (place : Nat) : Bool := !c.inService || (decide (place < 128) && (c.inst place).compat)

def unlimited : BitVec 24 := 0xFFFFFF

/-- The colour of a queue (R182). -/
def Chip.colour (c : Chip) (b place : Nat) : Colour :=
  let q := c.queue (qKey b place)
  if c.unshaped place then .green
  else if q.pir ≠ unlimited ∧ q.ptok ≤ 0 then .red
  else if q.cir ≠ unlimited ∧ q.ctok ≤ 0 then .yellow
  else .green

/-- The weight in force (R178, R187). -/
def Chip.weightOf (c : Chip) (b place : Nat) : Nat :=
  if place < 128 ∧ (c.inst place).compat = true then (c.bus b).cweight.toNat else (c.queue (qKey b place)).weight.toNat

/-- The eligible asynchronous endpoints of a bus with their plans (R151). -/
def Chip.eligible (c : Chip) (b : Nat) : List (Nat × Plan) :=
  c.eps.filterMap (fun e =>
    if e.1 / 32 < 256 && c.slotBus (e.1 / 32) == b && (c.slot (e.1 / 32)).st != .disabled
        && c.placed b (e.1 / 32) then
      (c.asyncPlan e.1).map (fun p => (e.1, p)) else none)

def dedup : List Nat → List Nat
  | [] => []
  | a :: t => if t.contains a then dedup t else a :: dedup t

/-- TDs whose last element is among a list of elements. -/
def tdCount : List Elem → Nat
  | [] => 0
  | e :: t => if e.chain then tdCount t else tdCount t + 1

/-- When the head TD of a ring was filed: when its last element, or its sixteenth, came (R59, R192, R448). -/
def Ring.filedAt (r : Ring) : Nat :=
  r.td.filedAt.getD (if tdWhole r.elems then (headTd r.elems).getLast?.getD {} else r.elems.getD 15 {}).at_

/-- TDs of a ring that are filed and have not ended (R192), and when the oldest of them was filed. -/
def Ring.waiting (r : Ring) : Nat := tdCount r.elems + (if r.long && !tdWhole r.elems then 1 else 0) - (if r.td.ended.isSome then 1 else 0)
def Ring.oldest (r : Ring) : Nat :=
  if r.td.ended.isSome then (((headTd (r.elems.drop (headTd r.elems).length)).getLast?.getD {}).at_) else r.filedAt

/-- DEPTH of a queue, and the filing time of its oldest TD (R192). -/
def Chip.depth (c : Chip) (b place : Nat) : Nat × Option Nat :=
  c.eps.foldl (fun a e =>
    let sk := e.1 / 32
    if sk < 256 && c.slotBus sk == b && (e.2.ty == .control || e.2.ty == .bulk) && c.placeOf b sk == place then
      e.2.rings.foldl (fun a k =>
        let r := c.ring (c.ringHome sk) k
        if r.waiting = 0 then a
        else (a.1 + r.waiting, match a.2 with
          | some t => some (min t r.oldest)
          | none => some r.oldest)) a
    else a) (0, none)

/-- wake (R180): never behind the current virtual time. -/
def Queue.wake (q : Queue) (v : BitVec 40) : Queue := { q with s := later q.f v }

/-- Brings one queue's membership up to date: a queue that enters the eligible set, or turns green in it, is woken (R181);
a red queue with work is counted once in a micro-frame (R195 HELD_RED). -/
def Chip.refresh (c : Chip) (b place : Nat) (has : Bool) : Chip :=
  let col := c.colour b place
  let now := has && col != .red
  let red := col == .red && decide (0 < (c.depth b place).1)
  c.updQueue (qKey b place) (fun q =>
    let q := if now && (!q.inSet || (col == .green && !q.green)) then q.wake (c.bus b).v else q
    { q with
      inSet := now, green := col == .green
      heldRed := if red && !q.redCounted then q.heldRed + 1 else q.heldRed
      redCounted := q.redCounted || red })

/-- Places of a bus that have work now, or were in the set. -/
def Chip.places (c : Chip) (b : Nat) (es : List (Nat × Plan)) : List Nat :=
  dedup (es.map (fun e => c.placeOf b (keySlot e.1)) ++
    (c.queues.filterMap (fun q => if q.1 / 256 = b ∧ (q.2.inSet || q.2.depth != 0 || decide (q.2.ptok ≤ 0)) = true then
        some (q.1 % 256) else none)))

def Chip.refreshAll (c : Chip) (b : Nat) : Chip :=
  let es := c.eligible b
  (c.places b es).foldl (fun c p => c.refresh b p (es.any (fun e => c.placeOf b (keySlot e.1) == p))) c

/-- The earlier of two candidates by start tag; ties go to the lower place (R180). -/
def Chip.earlier (c : Chip) (b x y : Nat) : Nat :=
  let sx := (c.queue (qKey b x)).s
  let sy := (c.queue (qKey b y)).s
  if sx = sy then min x y else if later sx sy = sx then y else x

/-- decide (R180): the queue, among green queues that fit, else yellow. -/
def Chip.pick (c : Chip) (b : Nat) (es : List (Nat × Plan)) : Option (Nat × Colour) :=
  let fit := es.filter (fun e => c.fits e.1 e.2)
  let qs := dedup (fit.map (fun e => c.placeOf b (keySlot e.1)))
  let best (l : List Nat) : Option Nat := l.foldl (fun a p => match a with | none => some p | some x => some (c.earlier b x p)) none
  match best (qs.filter (fun p => c.colour b p == .green)) with
  | some p => some (p, .green)
  | none => (best (qs.filter (fun p => c.colour b p == .yellow))).map (fun p => (p, .yellow))

/-- Tags no more than 2^36 behind v (R181). -/
def Queue.keepUp (q : Queue) (v : BitVec 40) : Queue :=
  let far (t : BitVec 40) : Bool := decide (2 ^ 36 < (v - t).toNat) && decide ((v - t).toNat ≤ 2 ^ 39)
  { q with
    s := if far q.s then v - BitVec.ofNat 40 (2 ^ 36) else q.s
    f := if far q.f then v - BitVec.ofNat 40 (2 ^ 36) else q.f }

/-- Raises the tags of a bus that have fallen too far behind, those of queues that nothing has touched with them. -/
def Chip.keepUp (c : Chip) (b : Nat) : Chip :=
  let v := (c.bus b).v
  let idle := (({ s := (c.bus b).idleTag, f := (c.bus b).idleTag } : Queue).keepUp v).s
  (c.updBus b (fun x => { x with idleTag := idle })).mapQueues (fun k q => if k / 256 = b then q.keepUp v else q)

/-- The first endpoint of a queue in round-robin order of context number after the one served last (R151). -/
def Chip.nextEp (c : Chip) (rr : Nat) (es : List (Nat × Plan)) : Option (Nat × Plan) :=
  let rank (k : Nat) : Nat := let n := (c.ep k).ctx; if rr < n then n else n + 4096
  es.foldl (fun a e => match a with
    | none => some e
    | some x => if rank e.1 < rank x.1 then some e else some x) none

/-- Data packets of an isochronous OUT element (R133). -/
def isoPackets (len mps : Nat) : Nat := max 1 (cdiv len (max 1 mps))

/-- The data PID of packet `k`, from 0, of `n` in one service opportunity (R133). -/
def oppPid (n k : Nat) : Tok :=
  if k + 1 < n then .mdata else if n = 1 then .data0 else if n = 2 then .data1 else .data2

/-- What the transaction puts on the bus (R133, R153, R157 to R160). -/
def Chip.token (c : Chip) (key : Nat) (p : Plan) (o : OnBus) : Tok :=
  let e := c.ep key
  let r := c.ring (c.ringHome (keySlot key)) e.headRing
  let path := c.path key
  if o.ping then .ping
  else if path = .split ∧ (p.csplit = true ∨ o.kind = 2) then .csplit
  else if path = .split then .ssplit
  else if p.setup then .setup
  else if path = .ss then (if p.status then .statusTp else .burst e.seq)
  else if p.inn then .inn
  else if e.ty = .isoch then oppPid (isoPackets (r.elems.headD {}).len e.maxPacket) r.td.inOpp
  else if p.status ∨ e.seq.getLsbD 0 = true then .data1
  else .data0

/-- The transaction goes onto the bus: cells for the largest answer are allocated (R12), and the TD has begun. It carries the
endpoint's EPOCH and the instance's GEN (R15). -/
def Chip.launch (c : Chip) (b key : Nat) (p : Plan) (o : OnBus) : Chip :=
  let e := c.ep key
  let n := c.ringHome (keySlot key)
  let c := if p.inn && !p.status && (c.path key != .split || p.csplit || o.periodic) then
      c.takeCells key (p.pkts * cellsFor e.maxPacket) else c
  let c := if e.service then c
    else if o.sa then
      match e.setAddr with
      | some a => if p.setup then
          (c.updSlot (keySlot key) (fun s => s.readdress a.new)).updEp key (fun e => { e with maxPacket := a.new.mps0.toNat }) else c
      | none => c
    else c.updRing n e.headRing (fun r => { r with td := { r.td with begun := true } })
  let c := if 24 ≤ b ∧ ((c.ssp (b - 24)).st = 4 ∨ (c.ssp (b - 24)).st = 5) then c.updSsp (b - 24) (fun p => { p with st := 3 }) else c
  let c := if 24 ≤ b ∧ e.ty = .isoch then c.emit (.ssPing (b - 24) key) else c
  let t := c.token key p o
  let c := c.updEp key (fun e => { e with nrdy := false, erdy := false })
  (c.updBus b (fun x => { x with on := some { o with mf := x.mf, epoch := e.epoch, gen := (c.inst n).gen } })).emit (.xact b key t)

/-- take_tokens (R182): from limited buckets, not below the floor. -/
def takeTokens (t : Int) (len : Nat) : Int := max (t - len) (-16777215)

/-- charge (R180, R186): at the end of a service of `len` bytes of shaped length. -/
def Chip.charge (c : Chip) (b place len : Nat) : Chip :=
  let free := c.unshaped place
  c.updQueue (qKey b place) (fun q =>
    let f := q.s + BitVec.ofNat 40 (cdiv (len * 1024) (max 1 q.wUsed))
    { q with
      f := f, s := f, services := q.services + 1, lenBytes := q.lenBytes + len
      ptok := if free || q.pir == unlimited || !q.pLim then q.ptok else takeTokens q.ptok len
      ctok := if free || q.cir == unlimited || !q.cLim || !q.greenUsed then q.ctok else takeTokens q.ctok len })

/-- The shaped length of a service that carried `p` bytes in `n` data packets (R179). -/
def Bus.shaped (x : Bus) (usb2 : Bool) (p n : Nat) : Nat :=
  p + x.ovhPkt.toNat * n + x.ovhTxn.toNat
    + (if !usb2 || x.stuff == 0 then 0 else if x.stuff == 1 then cdiv p 6 else cdiv p 128)

/-- New rates take effect at the bus's next decision (R178, R183): a bucket that stays limited keeps its count, lowered to the new
depth; one that becomes limited starts full. -/
def newBucket (was rate depth : BitVec 24) (tok : Int) : Int :=
  if rate = unlimited then tok
  else if was = unlimited then depth.toNat
  else min tok depth.toNat
def Queue.renew (q : Queue) : Queue :=
  match q.next with
  | none => q
  | some r =>
    { q with
      ctok := newBucket q.cir r.cir r.cbs q.ctok, ptok := newBucket q.pir r.pir r.pbs q.ptok
      cir := r.cir, pir := r.pir, cbs := r.cbs, pbs := r.pbs, next := none }
def Chip.renewRates (c : Chip) (b : Nat) : Chip := c.mapQueues (fun k q => if k / 256 = b then q.renew else q)

/-- SPIN_NAK (R420, R421): one in RATE + 1 asynchronous services of the bus is replaced by a synthetic NAK. -/
def Chip.spinNak (c : Chip) (b : Nat) : Bool × Chip :=
  let rate := fld c.spin.nak 15 8
  if rate = 0 ∨ b ≠ fld c.spin.nak 5 0 then (false, c)
  else if rate ≤ c.spin.nakCnt then (true, { c with spin := { c.spin with nakCnt := 0 } })
  else (false, { c with spin := { c.spin with nakCnt := c.spin.nakCnt + 1 } })

/-- Pitch offers the free bus to the Referee (R141, R151, R180). A synthetic NAK is charged and paced as a NAK, the bus
sees no transaction, and the Referee chooses again. -/
def Chip.serveAsyncN (c : Chip) (b : Nat) (fuel : Nat) : Chip :=
  match fuel with
  | 0 => c
  | fuel + 1 =>
  let c := (c.renewRates b).refreshAll b
  let es := c.eligible b
  match c.pick b es with
  | none => c
  | some (place, col) =>
    let q := c.queue (qKey b place)
    let c := c.updBus b (fun x => { x with
      v := later x.v q.s, decisions := x.decisions + 1, yellow := if col == .yellow then x.yellow + 1 else x.yellow })
    let c := c.keepUp b
    let w := c.weightOf b place
    let mine := es.filter (fun e => c.placeOf b (keySlot e.1) == place && c.fits e.1 e.2)
    match c.nextEp q.rr mine with
    | none => c
    | some (key, p) =>
      let c := c.updQueue (qKey b place) (fun q => { q with
        wUsed := w, greenUsed := col == .green, cLim := q.cir != unlimited, pLim := q.pir != unlimited, rr := (c.ep key).ctx
        yellowSvc := if col == .yellow then q.yellowSvc + 1 else q.yellowSvc })
      let s := c.spinNak b
      if s.1 then ((s.2.charge b place ((c.bus b).shaped true 0 0)).notReady key c.us (!p.ping && p.inn)).serveAsyncN b fuel
      else s.2.launch b key p { key := key, place := place, ping := p.ping, sa := c.saTurn key }

def Chip.serveAsync (c : Chip) (b : Nat) : Chip := c.serveAsyncN b 64

/-! ### Periodic service -/

/-- What comes of an entry at its turn: passed over, passed over for want of a cell, or run. -/
inductive Turn where
  | pass
  | noCell
  | run (p : Plan)

/-- The turn of an entry (R140, R142): the endpoint Running with an element ready for this opportunity. -/
def Chip.turn (c : Chip) (b key kind : Nat) (again : Bool) : Turn :=
  let e := c.ep key
  let sk := keySlot key
  let n := c.ringHome sk
  let r := c.ring n e.headRing
  let path := c.path key
  let inn := keyIn key
  if !c.busRuns b || e.st != .running || e.unfit || e.stop.isSome || decide (0 < e.due) || e.waits || !(c.inst n).serves
      || c.epHeld key then .pass
  else if kind = 2 && !e.split then .pass
  else if kind = 1 && e.split && !(e.ty == .isoch && !inn) then .pass
  else
    let cells := cellsFor e.maxPacket * (if path = .ss then (e.mult + 1) * (e.maxBurst + 1) else 1)
    let runIn (p : Plan) : Turn :=
      if inn && (kind != 1) && decide (c.periodicFree b < cells) then .noCell else .run p
    let pkt : Plan := { inn := inn, len := e.maxPacket, pkts := if path = .ss then e.maxBurst + 1 else 1, csplit := kind = 2 }
    if e.service then
      if !inn || decide (serviceLimit ≤ e.unread) then .pass else runIn pkt
    else if !r.live || r.halted || !r.filed || r.td.ended.isSome then .pass
    else if e.ty = .isoch then
      if r.td.place ≠ some (c.bus b).mf ∧ again = false ∧ kind ≠ 2 ∧ e.split = false then .pass
      else if !inn && !e.staged && decide (0 < (r.elems.headD {}).len) then .pass
      else runIn pkt
    else if !inn && !e.staged && decide (0 < c.outNeed key) then .pass
    else if (r.plan path e inn).isNone then .pass
    else runIn pkt

/-- An entry passed over for want of a cell (R142): counted; an isochronous element is missed (R146); an interrupt endpoint retries at
its next opportunity, from its start-split where its last complete-split was passed over (R147). -/
def Chip.missCell (c : Chip) (b key : Nat) (last : Bool) : Chip :=
  let c := c.updBus b (fun x => { x with miss := x.miss + 1 })
  let e := c.ep key
  if e.ty = .isoch && !e.service then
    (c.endTd key ((c.ring (c.ringHome (keySlot key)) e.headRing).endNth 0 ccMissed)).tend key
  else if last then c.updEp key (fun e => { e with split := false })
  else c

/-- Runs the first entry of the slot that is not passed over (R140). -/
def Chip.runEntries (c : Chip) (b : Nat) : List (Nat × Nat × Nat × Bool) → Chip
  | [] => c.updBus b (fun x => { x with todo := [] })
  | (key, kind, part, last) :: t =>
    let c := c.updBus b (fun x => { x with todo := t })
    match c.turn b key kind false with
    | .pass => c.runEntries b t
    | .noCell => (c.missCell b key last).runEntries b t
    | .run p => c.launch b key p { key := key, periodic := true, kind := kind, part := part, last := last, place := 0 }

/-- The LPM transaction of a port goes ahead of the Referee's next decision once it fits (R152). -/
def Chip.runLpm (c : Chip) (b : Nat) : Chip :=
  match (c.bus b).lpm with
  | some besl =>
    if (c.bus b).pos + 40 ≤ 7440 then
      (c.updBus b (fun x => { x with lpm := none, on := some { key := 0, lpm := true } })).emit (.lpm b besl)
    else c
  | none => c

/-- A free bus takes up its next work: the slot's entries, a paused burst, the LPM transaction, then the Referee's
choice (R140, R141, R152). -/
def Chip.kick (c : Chip) (b : Nat) : Chip :=
  if (c.bus b).on.isSome then c.refreshAll b
  else
    let c := c.runEntries b (c.bus b).todo
    if (c.bus b).on.isSome then c
    else
      match (c.bus b).paused with
      | some o => c.updBus b (fun x => { x with on := some o, paused := none })
      | none =>
        let c := c.runLpm b
        if (c.bus b).on.isSome then c else c.serveAsync b

/-- After anything happened to an endpoint: it is tended, and its bus takes up what it can. -/
def Chip.stir (c : Chip) (key : Nat) : Chip :=
  if farKey (keySlot key) then c.tend key else (c.tend key).kick (c.slotBus (keySlot key))

/-- Every bus with an endpoint takes up what it can: after a change that may wake queues of any bus (R181). -/
def Chip.kickAll (c : Chip) : Chip :=
  (dedup ((c.slots.filter (fun s => decide (s.1 < 256))).map (fun s => c.slotBus s.1))).foldl (fun c b => c.kick b) c

/-- Every endpoint of an instance is looked at again (THAW, records posted, rings enabled). -/
def Chip.stirInst (c : Chip) (n : Nat) : Chip :=
  (c.eps.foldl (fun c e => if c.ringHome (e.1 / 32) = n then c.tend e.1 else c) c).kickAll

end Sys2Proof.Machine
end

