-- ==== Sys2Proof/Machine/Slots.lean ====
section
/-! DEFINITION. Commands as they are fetched, finished and posted (R56, R98), slots and their loss (R92, R94), rings
destroyed (R110). -/

namespace Sys2Proof.Machine

/-! ### The command ring -/

/-- Entries of the command ring handed over and not yet asked for. -/
def Inst.cmdLeft (x : Inst) : Nat := (x.cmdProd + 2 ^ x.cmdLog2 - x.cmdNext) % 2 ^ x.cmdLog2 - x.cmdReads

/-- A command record waits for ring 0: the command ring stalls (R77). -/
def Inst.cmdStalled (x : Inst) : Bool := (x.cring 0).held.any (fun h => h.body.isCommand)

/-- The command ring may be read (R51, R56, R71, R119). -/
def Inst.cmdOpen (x : Inst) : Bool :=
  x.cmdEn && (x.cring 0).live && !x.cmdHalted && x.serves && !x.cmdStalled

/-- The front end asks for the command elements that R56 lets it hold: four. -/
def Chip.fetchCmds (c : Chip) (n : Nat) : Chip :=
  let x := c.inst n
  let m := if x.cmdOpen then min (4 - (x.cmds.length + x.cmdReads)) x.cmdLeft else 0
  let reads := (List.range m).map (fun j =>
    Out.hostRead n (x.cmdBase + BitVec.ofNat 64 (x.elemSize * ((x.cmdNext + x.cmdReads + j) % 2 ^ x.cmdLog2))) x.elemSize)
  { c.updInst n (fun x => { x with cmdReads := x.cmdReads + m }) with out := reads.reverse ++ c.out }

/-- Posts the records of finished commands in ring order (R98); a command fetched before the ring was last enabled moves no consumer
(R51). -/
def Chip.postCmds (c : Chip) (n : Nat) : Nat → Chip
  | 0 => c
  | f + 1 =>
    match (c.inst n).cmds with
    | m :: t =>
      match m.phase with
      | .done code result =>
        let next := (m.entry + 1) % 2 ^ (c.inst n).cmdLog2
        let c := c.updInst n (fun x => { x with cmds := t, cmdCons := if m.old then x.cmdCons else next })
        (c.post n 0 { body := .command code m.tag result next m.entry }).postCmds n f
      | _ => c
    | [] => c

/-- A command is finished: its record follows when it is the oldest (R98). -/
def Chip.finish (c : Chip) (n id : Nat) (code : Byte) (result : Nat) : Chip :=
  let c := c.updInst n (fun x => { x with
    cmds := updFirst (fun m => m.id == id) (fun m => { m with phase := .done code (BitVec.ofNat 24 result) }) x.cmds })
  (c.postCmds n (c.inst n).cmds.length).fetchCmds n

/-- A command that has bumped an endpoint's EPOCH is finished once the bump has taken effect (R97). -/
def Chip.finishBumped (c : Chip) (n id key : Nat) : Chip :=
  if (c.ep key).due = 0 then c.finish n id ccSuccess 0
  else { c with waits := c.waits ++ [{ keys := [key], posted := false, cont := .finish n id ccSuccess 0 }] }

/-- A command reference, where there is one. -/
def Chip.finishRef (c : Chip) (r : Option CmdRef) (code : Byte) (result : Nat) : Chip :=
  match r with
  | some m => c.finish m.1 m.2 code result
  | none => c

/-! ### Slots -/

/-- Endpoint contexts of a slot that are not Disabled. -/
def Chip.slotEps (c : Chip) (sk : Nat) : List Nat :=
  (c.eps.filter (fun e => e.1 / 32 == sk && e.2.st != .disabled)).map (fun e => e.1)

/-- Slots whose ROOT is a bus of this node (R91). -/
def Chip.busSlots (c : Chip) (b : Nat) : List Nat :=
  (c.slots.filter (fun s => decide (s.1 < 256) && s.2.st != .disabled && c.slotBus s.1 == b)).map (fun s => s.1)

/-- Slots behind a connector: port n, and SSPn for n below 8 (R198). -/
def Chip.connSlots (c : Chip) (p : Nat) : List Nat :=
  c.busSlots p ++ (if p < 8 then c.busSlots (24 + p) else [])

/-- A ring ends: its entries return to software, and reads still outstanding bring nothing (R110). -/
def Ring.destroyed (r : Ring) : Ring := { dead := r.dead + r.reads }

/-- Destroys one transfer ring: the endpoint, or its stream, is bound to none. -/
def Chip.dropRing (c : Chip) (n k : Nat) : Chip :=
  let r := c.ring n k
  let c := c.updRing n k Ring.destroyed
  c.updEp r.key (fun e => { e with
    ring := if e.ring = k then 0 else e.ring
    streams := e.streams.filter (fun s => s.2 != k)
    views := e.views.filter (fun m => !(m.1 == n && m.2.ring == k)) })

/-- Destroys every ring bound to an endpoint (R92, R108, R253). -/
def Chip.dropRings (c : Chip) (key : Nat) : Chip :=
  (c.ep key).rings.foldl (fun c k => c.dropRing (c.ringHome (keySlot key)) k) (c.unstage key)

/-- What a context that returns to Disabled leaves behind: its EPOCH, and the reads that are in flight (R94, R97). -/
def Ep.gone (e : Ep) (bump : Bool) (now : Nat) : Ep :=
  let e' : Ep := { epoch := e.epoch, flights := e.flights, due := e.due }
  if bump then { e'.bump now with rally := {} } else e'

/-- An endpoint context returns to Disabled, with its cells and its periodic endpoint record; EPOCH is kept (R94), bumped where
`bump` says (R96). -/
def Chip.clearEp (c : Chip) (key : Nat) (bump : Bool) : Chip :=
  let e := c.ep key
  let per := e.ty == .isoch || e.ty == .interrupt
  let c := match e.pep with
    | some k => c.dropPep k
    | none => c
  let c := c.updBus (c.slotBus (keySlot key)) (fun x =>
    if per then { x with pcells := x.pcells - e.cells } else { x with cells := x.cells - e.cells })
  { c with eps := Tbl.set {} c.eps key (e.gone bump c.us) }

/-- A far place without endpoints is freed, and its record cleared (R175, R196). -/
def Chip.freePlaces (c : Chip) (b : Nat) : Chip :=
  { c with queues := c.queues.filter (fun q =>
      match q.2.far with
      | some f => q.1 / 256 != b || c.slots.any (fun s => s.2.far == some f && c.slotBus s.1 == b && !(c.slotEps s.1).isEmpty)
      | none => true) }

/-- The slot becomes Disabled: rings, endpoint contexts, reservations and the address go (R92, R108). -/
def Chip.clearSlot (c : Chip) (sk : Nat) (bump : Bool) : Chip :=
  let b := c.slotBus sk
  let far := (c.slot sk).far.isSome
  let ks := c.slotEps sk
  let c := ks.foldl (fun c k => (c.dropRings k).clearEp k bump) c
  let c := { c with slots := Tbl.set {} c.slots sk {} }
  if far then c.freePlaces b else c

/-- The instance of a share-group member that is VALID: present, and not COMPAT (R272). -/
def Chip.memberAt (c : Chip) (g i : Nat) : Option Nat :=
  let s := c.share g
  let w := if i < 4 then s.mem0 else s.mem1
  let b := fld w (8 * (i % 4) + 7) (8 * (i % 4))
  let n := b % 128
  if 128 ≤ b ∧ (c.inst n).st ≠ .absent ∧ (c.inst n).compat = false then some n else none

/-- The VALID members of a group by index, and their instances. -/
def Chip.memberIdx (c : Chip) (g : Nat) : List Nat := (List.range 8).filter (fun i => (c.memberAt g i).isSome)
def Chip.members (c : Chip) (g : Nat) : List Nat := dedup ((List.range 8).filterMap (fun i => c.memberAt g i))

/-- The instances of this node that a slot is reported to: its owner; every member with a view of a shared slot; none for
a service hub or a device that is still being enumerated (R266, R270, R274). -/
def Chip.viewers (c : Chip) (sk : Nat) : List Nat :=
  let s := c.slot sk
  if s.hub || s.busy then []
  else
    match s.shared with
    | some g => (c.members g).filter (fun n => !s.noView.contains n)
    | none => if s.far.isSome then [c.ringHome sk] else [s.owner.toNat]

/-- DETACH to one instance (R72). -/
def Chip.detachEvent (c : Chip) (n : Nat) (sk reason : Nat) : Chip :=
  c.event n evDetach (c.slot sk).root (toWord (c.slotName sk + 2 ^ 12 * reason)) 0

/-- DETACH to everyone a slot is reported to; a far owner hears of it through EVENT (R210, R239, R357). -/
def Chip.detachAll (c : Chip) (sk reason : Nat) : Chip :=
  (c.viewers sk).foldl (fun c n => c.detachEvent n sk reason) c

/-- ATTACH to one instance (R72). -/
def Chip.attachTo (c : Chip) (n sk : Nat) : Chip :=
  let s := c.slot sk
  c.event n evAttach s.root (toWord (c.slotName sk + 2 ^ 12 * s.speed.toNat + 2 ^ 16 * s.cls.toNat))
    (toWord (s.vid.toNat + 2 ^ 16 * s.pid.toNat))

/-- ATTACH to everyone a slot is reported to; held as an orphan notification while the owner is in reset (R266). -/
def Chip.attachAll (c : Chip) (sk : Nat) : Chip :=
  (c.viewers sk).foldl (fun c n =>
      if n < 128 ∧ (c.inst n).deaf = true then c.updSlot sk (fun s => { s with orphan := true }) else c.attachTo n sk) c

def Chip.wait (c : Chip) (w : Wait) : Chip := { c with waits := c.waits ++ [w] }

/-- STATE of some endpoints, to return to. -/
def Chip.epStates (c : Chip) (keys : List Nat) : List (Nat × EpSt) := keys.map (fun k => (k, (c.ep k).st))

/-- The stops of a cancelled command are taken back (R45). Those of an assignment that are complete stay: their endpoints resume at
the next doorbell (R256). -/
def Chip.unstop (c : Chip) (w : Wait) (stay : Bool) : Chip :=
  w.was.foldl (fun c x =>
    if (c.ep x.1).stop.isSome then (c.updEp x.1 (fun e => { e with stop := none, settled := false })).tend x.1
    else if (c.ep x.1).st = .stopped ∧ stay = false then (c.updEp x.1 (fun e => { e with st := x.2 })).tend x.1
    else c) c

/-- A doorbell may take an endpoint out of Stopped while this waits on it: nothing is to become of its rings (R106). -/
def Cont.restarts : Cont → Bool
  | .finish _ _ _ _ | .stopEp _ _ _ | .stopAll _ _ _ | .portGone _ _ | .overcurrent _ _ _ | .ocClear _ _ | .genDone _ _ | .none => true
  | _ => false

/-- The instance's command that a continuation ends. -/
def Cont.cmdRef : Cont → Option CmdRef
  | .finish i m _ _ | .stopEp i m _ | .stopAll i m _ | .disableSlot i m _ | .clearSlot i m _ | .dropEp i m _ | .resetEp i m _
  | .setDequeue i m _ _ _ | .destroyRing i m _ | .destroyCring i m _ | .portGone i m | .powerOff i m _ => some (i, m)
  | .portReset _ _ | .detach _ _ | .movePort _ _ _ _ _ _ | .moveSlot _ _ _ | .overcurrent _ _ _ | .ocClear _ _ | .genDone _ _ | .instReset _
  | .none => Option.none

/-- What a command waits for belongs to a slot. -/
def Wait.ofSlot (w : Wait) (c : Chip) (sk : Nat) : Bool :=
  w.keys.any (fun k => keySlot k == sk) || w.views.any (fun v => keySlot v.1 == sk) || w.peps.any (fun k => keySlot (c.pep k).key == sk)

/-- The slot that a command names by its continuation, where it waits for nothing of it. -/
def Cont.ofSlot (c : Chip) (sk : Nat) : Cont → Bool
  | .stopAll _ _ keys => keys.any (fun k => keySlot k == sk)
  | .disableSlot _ _ s | .clearSlot _ _ s => s == sk
  | .destroyRing i _ k | .setDequeue i _ k _ _ => (c.ring i k).slot == sk
  | .stopEp _ _ key | .dropEp _ _ key | .resetEp _ _ key => keySlot key == sk
  | _ => false

/-- A command that executes on a slot whose device goes away completes DEV_GONE (R99); those of ports and of completion rings name no
device. -/
def Chip.spoilWait (c : Chip) (sk : Nat) (w : Wait) : Wait :=
  match w.cont with
  | .portGone _ _ | .powerOff _ _ _ | .destroyCring _ _ _ => w
  | x =>
    match x.cmdRef with
    | some r => if w.ofSlot c sk || x.ofSlot c sk then { w with peps := [], cont := .finish r.1 r.2 ccDevGone 0 } else w
    | none => w

/-- The device of a slot is gone, with the DETACH reason, or its node is lost: every TD handed over ends with `code`, and
the slot is Disabled and DETACH posted once their records are (R79, R92, R94). -/
def Chip.loseSlot (c : Chip) (sk reason : Nat) (code : Byte) : Chip :=
  if (c.slot sk).st == .disabled || (c.slot sk).leaving then c
  else
    let c := c.updSlot sk (fun s => { s with leaving := true })
    let c := { c with waits := c.waits.map (c.spoilWait sk) }
    let sa := (c.ep (epKey sk 0)).setAddr
    let c := c.updEp (epKey sk 0) (fun e => { e with setAddr := none })
    let c := c.finishRef (sa.map (fun a => (a.inst, a.cmd))) ccDevGone 0
    let ks := c.slotEps sk
    let c := ks.foldl (fun c k => c.stop k (.gone code)) c
    c.wait { keys := ks, cont := .detach sk reason }

/-- Tiers that a ROUTE names (R91). -/
def routeLen (r : Nat) : Nat := ((List.range 5).filter (fun k => decide (0 < r / 16 ^ k % 16))).length

/-- The ROUTE of a device behind a port of a hub, and whether a ROUTE lies behind it. -/
def routeUnder (hub port : Nat) : Nat := hub + 16 ^ routeLen hub * port
def routeBehind (hub r : Nat) : Bool := decide (r % 16 ^ routeLen hub = hub) && decide (routeLen hub < routeLen r)

/-- Descending tier, and ascending slot index within a tier (R268). -/
def Chip.insTier (c : Chip) (sk : Nat) : List Nat → List Nat
  | [] => [sk]
  | x :: t =>
    if routeLen (c.slot x).route.toNat ≤ routeLen (c.slot sk).route.toNat then sk :: x :: t else x :: c.insTier sk t
def Chip.byTier (c : Chip) (sks : List Nat) : List Nat := sks.foldr c.insTier []

/-- Every slot behind a bus is lost (R92, R210). -/
def Chip.loseBus (c : Chip) (b reason : Nat) : Chip :=
  (c.byTier (c.busSlots b)).foldl (fun c sk => c.loseSlot sk reason ccDevGone) c

/-- Stops every endpoint of a slot, Halted ones left as they are (R105). -/
def Chip.stopSlot (c : Chip) (sk : Nat) (why : StopWhy) : Chip :=
  (c.slotEps sk).foldl (fun c k => if (c.ep k).st == .running then c.stop k why else c) c

/-- The same of every endpoint that is there. -/
def Chip.stopAllEps (c : Chip) (sk : Nat) (why : StopWhy) : Chip := (c.slotEps sk).foldl (fun c k => c.stop k why) c

def CmdPhase.ended (p : CmdPhase) : Bool :=
  match p with
  | .done _ _ => true
  | _ => false

/-- A command is no longer among those of its instance, or has ended. -/
def Chip.cmdEnded (c : Chip) (r : Nat × Nat) : Bool := (c.inst r.1).cmds.all (fun m => m.id != r.2 || m.phase.ended)

/-- What a wait is for has come about: endpoints settled, records posted, Lineup changes in effect, GEN bumped (R105, R126, R249). -/
def Chip.ready (c : Chip) (w : Wait) : Bool :=
  c.settledAll w.keys && (!w.posted || !w.keys.any c.epHeld) && w.peps.all (fun k => (c.pep k).steady)
    && w.views.all (fun v => (c.ep v.1).done.all (fun d => d.inst != v.2)) && w.cmds.all c.cmdEnded
    && w.gens.all (fun n => (c.inst n).genDue == 0)

/-- Where a DETACH waits, its root: DETACH events of one port keep their order (R268). -/
def Chip.detachRoot (c : Chip) (w : Wait) : Option (BitVec 16) :=
  match w.cont with
  | .detach sk _ => some (c.slot sk).root
  | _ => none

/-- The oldest wait that has come about, taken out of the list. -/
def takeReady (c : Chip) : List (BitVec 16) → List Wait → Option (Wait × List Wait)
  | _, [] => none
  | behind, w :: t =>
    match c.detachRoot w with
    | some r =>
      if c.ready w && !behind.contains r then some (w, t)
      else (takeReady c (r :: behind) t).map (fun x => (x.1, w :: x.2))
    | none => if c.ready w then some (w, t) else (takeReady c behind t).map (fun x => (x.1, w :: x.2))

end Sys2Proof.Machine
end

