-- ==== Sys2Proof/Machine/Ports.lean ====
section
/-! DEFINITION. Root ports and SuperSpeed companions (R198 to R222): status, change events, power, disconnect,
over-current, and readmission after a change of speed (R132). -/

namespace Sys2Proof.Machine

/-! ### STATE codes of R207 and R211 -/

def pOff : Nat := 0
def pPowering : Nat := 1
def pDisconnected : Nat := 2
def pDebounce : Nat := 3
def pDisabled : Nat := 4
def pResetting : Nat := 5
def pEnabled : Nat := 6
def pSuspending : Nat := 7
def pSuspended : Nat := 8
def pResuming : Nat := 9
def pL1 : Nat := 10
def pRecovery : Nat := 11

def sOff : Nat := 0
def sRxDetect : Nat := 1
def sPolling : Nat := 2
def sU0 : Nat := 3
def sU1 : Nat := 4
def sU2 : Nat := 5
def sU3 : Nat := 6
def sRecovery : Nat := 7
def sResetting : Nat := 8
def sInactive : Nat := 9
def sDisabled : Nat := 10
def sPowering : Nat := 11

/-- Causes of a resume (R72). -/
def causeHost : BitVec 4 := 1
def causeDevice : BitVec 4 := 2
def causeBoth : BitVec 4 := 3

/-- ENABLED: the port carries transfers, or may after resume (R201). -/
def Port.enabled (p : Port) : Bool :=
  p.st == pEnabled || p.st == pSuspending || p.st == pSuspended || p.st == pL1 || p.st == pResuming
    || (p.st == pRecovery && p.afterResume)
def Port.suspended (p : Port) : Bool := p.st == pSuspended || p.st == pL1
def Ssp.enabled (p : Ssp) : Bool := decide (sU0 ≤ p.st) && decide (p.st ≤ sRecovery)
def Ssp.suspended (p : Ssp) : Bool := p.st == sU3

/-- PORT_CHANGE dword2 (R72). -/
def statusBits (speed cause : BitVec 4) (connected enabled suspended powered : Bool) : Nat :=
  speed.toNat + 2 ^ 4 * cause.toNat + flagAt connected 8 + flagAt enabled 9 + flagAt suspended 10 + flagAt powered 11

def Chip.portStatus (c : Chip) (b : Nat) (cause : BitVec 4) : Nat :=
  let pw := (c.port (busPort b)).powered
  if b < 24 then
    let p := c.port b
    statusBits p.speed cause p.connected p.enabled p.suspended pw
  else
    let p := c.ssp (b - 24)
    statusBits p.speed cause p.connected p.enabled p.suspended pw

/-- Change bits of PORT_CHANGE. -/
def chConnect : Nat := 1
def chEnable : Nat := 2
def chReset : Nat := 4
def chSuspend : Nat := 8
def chResume : Nat := 16
def chLinkErr : Nat := 32
def chConfigErr : Nat := 64

/-- The manager's copy of the changes: [6] stands for a link or configuration error, [5] for OC_ACTIVE (R201). -/
def statChg (bits : Nat) : BitVec 7 := BitVec.ofNat 7 (bits % 32 + (if bits / 32 = 0 then 0 else 64))

def Hub.updPort (h : Hub) (i : Nat) (f : HubPort → HubPort) : Hub := { h with ports := Tbl.upd {} h.ports i f }

/-- The change bits that a hub port shows its upstream host (R228, R229). -/
def HubPort.note (h : HubPort) (bits : Nat) (usb2 : Bool) : HubPort :=
  { h with
    cConn := h.cConn || bits.testBit 0
    cEnable := h.cEnable || (usb2 && bits.testBit 5)
    cReset := h.cReset || bits.testBit 2
    cSuspend := h.cSuspend || (usb2 && bits.testBit 4)
    cLink := h.cLink || (!usb2 && (bits.testBit 4 || bits.testBit 5))
    cConfig := h.cConfig || bits.testBit 6 }

/-- A change on a port of a suspended hub whose remote wake is enabled is signalled upstream (R231); on the USB 3.2 hub as
PORT_REMOTE_WAKE_MASK allows it: bit 0 a connect, bit 1 a disconnect, bit 2 an over-current (R229; log entry 20). -/
def Chip.hubWakeOn (c : Chip) (b bit : Nat) : Chip :=
  let h := if b < 24 then c.pass.usb2 else c.pass.usb3
  if h.suspended && h.wake && (decide (b < 24) || bitAt (Tbl.get {} h.ports (b - 24)).wakeMask bit) then c.emit (.hubWake (decide (24 ≤ b)))
  else c

def Chip.hubNote (c : Chip) (b bits : Nat) : Chip :=
  if b < 24 then
    let c := { c with pass := { c.pass with usb2 := c.pass.usb2.updPort b (fun h => h.note bits true) } }
    if bits = 0 then c else c.hubWakeOn b 0
  else
    let warm := (c.ssp (b - 24)).warm
    let c := { c with pass := { c.pass with usb3 := c.pass.usb3.updPort (b - 24) (fun h =>
      { h.note bits false with cBh := h.cBh || (bits.testBit 2 && warm) }) } }
    if bits.testBit 0 then c.hubWakeOn b (if (c.ssp (b - 24)).connected then 0 else 1) else c

/-- An over-current change that a hub port shows. -/
def Chip.hubOver (c : Chip) (p : Nat) : Chip :=
  let f (h : HubPort) : HubPort := { h with cOc := true, power := false }
  let c := { c with pass := { c.pass with usb2 := c.pass.usb2.updPort p f, usb3 := if p < 8 then c.pass.usb3.updPort p f
      else c.pass.usb3 } }
  let c := c.hubWakeOn p 2
  if p < 8 then c.hubWakeOn (24 + p) 2 else c

/-- The instance that owns a connector, on this node or another (R252). -/
def Chip.ownerOf (c : Chip) (p : Nat) : Option Nat :=
  let q := c.port p
  match q.farOwner with
  | some f => some (farInst f.1 f.2)
  | none => if q.owner = nobody then none else some q.owner.toNat

/-- The owner of a bus's connector; 127 where there is none. -/
def Chip.busOwner (c : Chip) (b : Nat) : Nat := (c.ownerOf (busPort b)).getD 127

/-- A PORT_CHANGE to the owner of a port with the matching change bits (R72, R207); a Pass port's changes go to the
hub. -/
def Chip.portChange (c : Chip) (b bits : Nat) (cause : BitVec 4) : Chip :=
  let c := if b < 24 then c.updPort b (fun p => { p with chg := p.chg ||| statChg bits })
    else c.updSsp (b - 24) (fun p => { p with chg := p.chg ||| statChg bits })
  let p := c.port (busPort b)
  if p.pass then c.hubNote b bits
  else
    match c.ownerOf (busPort b) with
    | none => c
    | some n => c.event n evPortChange (c.subject b) (toWord bits) (toWord (c.portStatus b cause))

/-! ### Commands pending on a port -/

def Chip.endPortCmd (c : Chip) (b : Nat) (r : Option CmdRef) : Chip :=
  match r with
  | some m => c.wait { keys := (c.busSlots b).flatMap c.slotEps, cont := .portGone m.1 m.2 }
  | none => c

/-- Port commands pending on a port complete DEV_GONE after the DETACH of its slots (R210, R215, R217). -/
def Chip.dropPortCmds (c : Chip) (b : Nat) : Chip :=
  if b < 24 then
    let p := c.port b
    let c := c.updPort b (fun p => { p with resetCmd := none, suspendCmd := none, resumeCmd := none, already := false, se0 := false })
    ((c.endPortCmd b p.suspendCmd).endPortCmd b p.resumeCmd).endPortCmd b p.resetCmd
  else
    let p := c.ssp (b - 24)
    let c := c.updSsp (b - 24) (fun p => { p with resetCmd := none, resumeCmd := none, exiting := false, se0 := false })
    (c.endPortCmd b p.resumeCmd).endPortCmd b p.resetCmd

/-- The device of a bus is gone: PORT_CHANGE, then its slots, then the port's pending commands (R210). -/
def Chip.unplug (c : Chip) (b reason : Nat) (was : Bool) : Chip :=
  let c := if was then c.portChange b chConnect 0 else c
  let c := { c with jobs := c.jobs.filter (fun j => j.1 / 2 ^ 20 != b) }
  let c := c.updPort (busPort b) (fun p => { p with parked := p.parked.filter (fun x => x.bus != b) })
  let c := c.loseBus b reason
  c.dropPortCmds b

/-! ### Power -/

/-- What a USB 2.0 port and an SSP are after PPE goes low (R207, R211). -/
def Port.dark (p : Port) : Port :=
  { p with
    st := pOff, speed := 0, connected := false, powered := false, fromL1 := false, afterResume := false
    devResumed := false, chargeOnly := false, bc := 0 }
def Ssp.dark (p : Ssp) : Ssp :=
  { p with st := sOff, speed := 0, connected := false, lanes := 0, timeouts := 0, tries := 0, exiting := false }

/-- PPE of a connector goes low: both of its buses go to POWERED_OFF, with their slots settled as a detach (R207, R211,
R113). -/
def Chip.ppeLow (c : Chip) (p reason : Nat) : Chip :=
  let was := (c.port p).connected
  let wasS := (c.ssp p).connected
  let c := c.updPort p Port.dark
  let c := if p < 8 then c.updSsp p Ssp.dark else c
  let c := c.unplug p reason was
  if p < 8 then c.unplug (24 + p) reason wasS else c

/-- PPE of a connector goes high: the power-on wait begins on both of its buses. -/
def Chip.ppeHigh (c : Chip) (p : Nat) : Chip :=
  let c := c.updPort p (fun x => { x with powered := true, st := pPowering })
  if p < 8 then c.updSsp p (fun x => { x with st := sPowering, timeouts := 0 }) else c

/-- Ports of a gang: those whose SOURCE is a POC# ball (R219). -/
def Chip.portSource (c : Chip) (p : Nat) : Nat := ((c.port p).src.map BitVec.toNat).getD p
def Chip.gang (c : Chip) (poc : Nat) : List Nat := (List.range 24).filter (fun p => c.portSource p == poc)

/-- The SUBJECT that names a gang (R222). -/
def Chip.gangSubject (c : Chip) (poc : Nat) : BitVec 16 := BitVec.ofNat 16 (poc + 2 ^ 8 * c.nodeNo)

/-- OVERCURRENT to the owners and to the manager, PF0 once where it is both (R72, R221, R222). -/
def Chip.overcurrent (c : Chip) (poc : Nat) (owners : List Nat) (d1 d2 : Nat) : Chip :=
  let send (c : Chip) (n : Nat) : Chip := c.event n evOvercurrent (c.gangSubject poc) (toWord d1) (toWord d2)
  let c := (if c.straps.mgrSel = 1 then owners else owners.filter (· != 0)).foldl send c
  c.mgrEvent evOvercurrent (c.gangSubject poc) (toWord d1) (toWord d2)

/-- A mask of port numbers. -/
def portMask (ps : List Nat) : Nat := ps.foldl (fun n p => n + 2 ^ p) 0

def maskPorts (m : BitVec 24) : List Nat := (List.range 24).filter (fun p => bitAt m p)

/-- The connectors that a trip switches off. -/
def Chip.tripOff (c : Chip) (poc : Nat) : List Nat :=
  (c.gang poc).filter (fun p => (c.port p).powered || bitAt c.pwr.ppeHeld p)

/-- OC_ACTIVE of a connector, with OC_CHG where it changes, in PORT_STAT and SSP_STAT (R201). -/
def Chip.setOc (c : Chip) (p : Nat) (on : Bool) : Chip :=
  if (c.port p).oc = on then c
  else
    let c := c.updPort p (fun x => { x with oc := on, chg := x.chg ||| 32 })
    if p < 8 then c.updSsp p (fun x => { x with chg := x.chg ||| 32 }) else c

/-- Steps 1 and 2 of a trip: OC_ACTIVE on the gang, PPE low on its powered connectors (R221), which the policy does not
power again (R218, R279); a DCP power cycle on the gang ends with power off. -/
def Chip.tripPower (c : Chip) (poc : Nat) : Chip :=
  let off := c.tripOff poc
  let c := (c.gang poc).foldl (fun c p =>
    (c.setOc p true).updPort p (fun x => { x with cycle := none, noAuto := x.noAuto || x.cycle.isSome })) c
  let c := off.foldl (fun c p => c.updPort p (fun x => { x with trips := x.trips + 1, powered := false, noAuto := true })) c
  let c := c.updPort poc (fun x => { x with tripped := true, deglitch := false })
  let m : BitVec 24 := ~~~(BitVec.ofNat 24 (portMask off))
  { c with pwr := { c.pwr with ppeHeld := c.pwr.ppeHeld &&& m, dcpHeld := c.pwr.dcpHeld &&& m } }

/-- Steps 3 and 4 of a trip, for the connectors switched off (R221, R228). -/
def Chip.tripReport (c : Chip) (poc : Nat) (off : List Nat) : Chip :=
  let owners := dedup (off.filterMap (fun p => if (c.port p).pass then none else c.ownerOf p))
  let keys := (off.flatMap c.connSlots).flatMap c.slotEps
  let c := off.foldl (fun c p =>
    let c := if (c.port p).pass then c.hubOver p else c
    c.ppeLow p 3) c
  let c := c.updPort poc (fun x => { x with tripOwners := owners })
  c.wait { keys := keys, cont := .overcurrent poc (BitVec.ofNat 24 (portMask off)) owners }

/-- OC_ACTIVE clears on the gang of a ball that rises (R222). -/
def Chip.tripClear (c : Chip) (poc : Nat) : Chip :=
  let c := (c.gang poc).foldl (fun c p => c.setOc p false) c
  c.updPort poc (fun x => { x with tripped := false })

/-- OVERCURRENT with ACTIVE = 0 follows the one with ACTIVE = 1, to the same recipients (R222). -/
def Chip.clearReport (c : Chip) (poc : Nat) : Chip :=
  let ks := c.waits.flatMap (fun w => match w.cont with
    | .overcurrent q _ _ => if q = poc then w.keys else []
    | _ => [])
  c.wait { keys := ks, cont := .ocClear poc (c.port poc).tripOwners }

/-! ### Readmission -/

/-- INTERVAL ranges (R120). -/
def intervalOk (path : Path) (iso : Bool) (interval : Nat) : Bool :=
  match path with
  | .ss | .hs => decide (interval ≤ 15)
  | _ => decide (3 ≤ interval) && decide (interval ≤ (if iso then 15 else 10))

/-- MAX_PACKET, MAX_BURST and MULT of a periodic endpoint (R103, R133, R138). -/
def periodicOk (path : Path) (iso : Bool) (mps burst mult : Nat) : Bool :=
  match path with
  | .ss =>
    (if iso then decide (mult ≤ 2) && (mult == 0 || burst == 15) else mult == 0 && decide (burst ≤ 2))
      && (burst == 0 || mps == 1024)
  | .hs => burst == 0 && (mult == 0 || (mult == 1 && decide (513 ≤ mps)) || (mult == 2 && decide (683 ≤ mps)))
  | _ => burst == 0 && mult == 0

/-- A PEP recalculated for a path (R128, R132): a split one keeps its translator's placement while the bus runs at high speed; on a
full- or low-speed bus it is served, as every other, by one entry at the bus's own speed. -/
def Pep.recast (p : Pep) (path : Path) (cost : Nat) : Pep :=
  if path = .split then p
  else { p with tt := none, ttB := 0, ttC := 0, entries := [{ kind := if path = .ss then 3 else 0, cost := cost }] }

/-- An admitted endpoint at the bus's new speed and path, beside those already kept: its PEP, or none where it no longer fits
(R132). A full- or low-speed device behind a hub that now runs at high speed has no translator until ADDRESS_DEVICE names one. -/
def Chip.refit (c : Chip) (kept : List Pep) (p : Pep) : Option Pep :=
  let e := c.ep p.key
  let s := c.slot (keySlot p.key)
  let path := c.path p.key
  let sp := c.busSpeed p.bus
  let q := p.recast path (oppCost path s.speed p.iso e.maxPacket e.maxBurst e.mult s.ttThink.toNat)
  if !intervalOk path p.iso e.interval || !periodicOk path p.iso e.maxPacket e.maxBurst e.mult then none
  else if (path = .fs ∨ path = .ls) ∧ (q.phase % 8 ≠ 0 ∨ sp = 3) then none
  else if path = .split ∧ q.tt = none then none
  else if (List.range 256).any (fun k => decide (0 < q.slotCount k) && decide (busLimit sp < slotLoad kept k + q.slotCount k)) then none
  else some q

/-- PEPs of a bus by order of admission. -/
def insByOrder (x : Nat × Pep) : List (Nat × Pep) → List (Nat × Pep)
  | [] => [x]
  | y :: t => if x.2.order < y.2.order then x :: y :: t else y :: insByOrder x t

/-- An endpoint leaves service: settled, its entries removed, RESERVE 0, and its owner told (R132). -/
def Chip.unfit (c : Chip) (b k key : Nat) : Chip :=
  let c := c.dropPep k
  let c := c.stop key .unfit
  let c := c.updEp key (fun e => { e with unfit := true, reserve := 0, pep := none })
  c.portChange b chConfigErr 0

/-- Admission runs again over the endpoints of a bus, in the order in which they were admitted (R132). -/
def Chip.readmit (c : Chip) (b : Nat) : Chip :=
  let ps := (c.peps.filter (fun e => e.2.used && e.2.bus == b && !e.2.dropping)).foldr insByOrder []
  (ps.foldl (fun a e =>
    match a.1.refit a.2 e.2 with
    | some q =>
      let c := { a.1 with peps := Tbl.set {} a.1.peps e.1 q }
      let c := if c.path q.key = .split then c
        else c.updEp q.key (fun x => { x with reserve := BitVec.ofNat 16 ((q.entries.headD {}).cost) })
      (c, a.2 ++ [q])
    | none => (a.1.unfit b e.1 e.2.key, a.2)) (c, [])).1

/-- A root port's reset has ended: slots on the port itself take the speed reached, and a change of speed readmits
(R91, R111, R132). -/
def Chip.resetDone (c : Chip) (b : Nat) (old : BitVec 4) : Chip :=
  let sp := c.busSpeed b
  let c := (c.busSlots b).foldl (fun c sk => c.updSlot sk (fun s => if s.route = 0 then { s with speed := sp } else s)) c
  if old = sp then c else c.readmit b

end Sys2Proof.Machine
end

