-- ==== Sys2Proof/Machine/Pool.lean ====
section
/-! DEFINITION. The resource pool and quotas (R237 to R240), endpoint contexts as they are made (R94, R103), bus
addresses (R102), and the start of a port reset (R111). -/

namespace Sys2Proof.Machine

/-! ### Functions and instances -/

/-- PF0 always; PF1 is INST 64 in x2+x2 mode (R232). -/
def Chip.isPf (c : Chip) (n : Nat) : Bool := n == 0 || (c.straps.bifur && n == 64)

/-- The link of an instance (R232). -/
def Chip.instLink (c : Chip) (n : Nat) : Nat := if c.straps.bifur && decide (64 ≤ n) then 1 else 0

def Chip.link (c : Chip) (k : Nat) : Link := if k = 0 then c.link0 else c.link1
def Chip.updLink (c : Chip) (k : Nat) (f : Link → Link) : Chip :=
  if k = 0 then { c with link0 := f c.link0 } else { c with link1 := f c.link1 }

/-- L0 or L1, with L1's substates (R278). -/
def linkRunning (p : LinkPm) : Bool := p == .l0 || p == .l1 || p == .l11 || p == .l12
def Chip.linkUp (c : Chip) (n : Nat) : Bool := linkRunning (c.link (c.instLink n)).pm

/-- The role that serves a kind of firmware work is suspended (R406). -/
def Chip.roleDown (c : Chip) (k : Nat) : Bool := c.rel.suspended != 0 && bitAt c.rel.suspended (Config.roleOf k).val

/-- The Fielders that take new work of a role: a swap's incoming one from step c on, the outgoing one until then (R43). -/
def Chip.workers (c : Chip) (role : Nat) : List Nat :=
  (List.range 12).filter (fun f => (c.fielder f).st == .active && (c.fielder f).role.toNat == role
    && !(c.fw.phase == .swapStart && c.fw.incoming == f) && !(c.fw.phase == .swapDrain && c.fw.outgoing == f))

/-- The one Fielder that owns a piece of work from now on (R45); which of several that hold its role is open (log entry 6). -/
def Chip.dispatch (c : Chip) (k : Nat) : Option Nat × Chip :=
  if !c.boot.fwRunning then (none, c)
  else
    match c.workers (Config.roleOf k).val with
    | [] => (none, c)
    | [f] => (some f, c)
    | fs => (some (fs.getD ((Config.freeWord c.free).toNat % fs.length) 0), { c with free := c.free + 1 })

/-! ### Use and quotas -/

/-- Slots whose resources an instance of this node uses: its own, and those of its far devices (R239). -/
def Chip.ownSlots (c : Chip) (n : Nat) : List Nat :=
  (c.slots.filter (fun s => s.2.st != .disabled && s.2.far.isNone && s.2.owner.toNat == n)).map (fun s => s.1)

def Ep.periodic (e : Ep) : Bool := e.ty == .isoch || e.ty == .interrupt
def Ep.streamCount (e : Ep) : Nat := if e.maxStreams = 0 then 0 else 2 ^ e.maxStreams

/-- Contexts of a list of slots that are in use. -/
def Chip.epsOf (c : Chip) (sks : List Nat) : List Ep :=
  (c.eps.filter (fun e => e.2.st != .disabled && sks.contains (e.1 / 32))).map (fun e => e.2)

/-- Highest local channel that is not IDLE, plus one (R287). -/
def Inst.chanUse (x : Inst) : Nat := x.chans.foldl (fun n e => if e.2.st = .idle then n else max n (e.1 + 1)) 0

/-- MSI-X entries that completion rings name. -/
def Inst.vectorsNamed (x : Inst) : List Nat := dedup (0 :: (x.crings.filter (fun r => r.2.live)).map (fun r => r.2.vector))

/-- Completion rings of an instance: ring 0 counts always (R118). -/
def Inst.cringUse (x : Inst) : Nat := 1 + (x.crings.filter (fun r => r.2.live && r.1 != 0)).length

/-- What a list of slots uses. -/
def Chip.slotUse (c : Chip) (sks : List Nat) : Quota :=
  let es := c.epsOf sks
  { slots := sks.length, peps := (es.filter Ep.periodic).length, eps := es.length,
    streams := es.foldl (fun n e => n + e.streamCount) 0 }

/-- An instance's use (R241); in Sandlot play a PF's eight channels count (R287). -/
def Chip.use (c : Chip) (n : Nat) : Quota :=
  let x := c.inst n
  if x.st = .absent then {}
  else
    { c.slotUse (c.ownSlots n) with
      crings := x.cringUse
      vectors := x.vectorsNamed.length
      chans := if c.isPf n && !c.boot.fwRunning then 8 else x.chanUse }

/-- Without firmware PF0 and PF1 are not bound by quotas (R240). -/
def Chip.unbound (c : Chip) (n : Nat) : Bool := c.isPf n && !c.boot.fwRunning

/-- Quotas added up over the instances (R238). -/
def Quota.add (a b : Quota) : Quota :=
  { slots := a.slots + b.slots, peps := a.peps + b.peps, eps := a.eps + b.eps, streams := a.streams + b.streams,
    crings := a.crings + b.crings, vectors := a.vectors + b.vectors, chans := a.chans + b.chans }
def Quota.sub (a b : Quota) : Quota :=
  { slots := a.slots - b.slots, peps := a.peps - b.peps, eps := a.eps - b.eps, streams := a.streams - b.streams,
    crings := a.crings - b.crings, vectors := a.vectors - b.vectors, chans := a.chans - b.chans }
def Quota.max (a b : Quota) : Quota :=
  { slots := Nat.max a.slots b.slots, peps := Nat.max a.peps b.peps, eps := Nat.max a.eps b.eps,
    streams := Nat.max a.streams b.streams, crings := Nat.max a.crings b.crings, vectors := Nat.max a.vectors b.vectors,
    chans := Nat.max a.chans b.chans }

/-- The pool of R237. -/
def pool : Quota :=
  { slots := Config.poolSlots, peps := Config.poolPeps, eps := Config.poolEps, streams := Config.poolStreams,
    crings := Config.poolCrings, vectors := Config.poolVectors, chans := Config.poolChannels }

/-- The defaults of a PF in SERVICE (R240). -/
def pfQuota : Quota := { slots := 32, peps := 64, eps := 256, streams := 256, crings := 16, vectors := 16, chans := 8 }

def Chip.reserved (c : Chip) : Quota := c.insts.foldl (fun q e => if e.1 < 128 then q.add e.2.quota else q) {}

/-- The first resource, by its code, in which `q` exceeds `r` (R238). -/
def Quota.short (q r : Quota) : Option Nat :=
  if r.slots < q.slots then some 1
  else if r.peps < q.peps then some 2
  else if r.eps < q.eps then some 3
  else if r.streams < q.streams then some 4
  else if r.crings < q.crings then some 5
  else if r.vectors < q.vectors then some 6
  else if r.chans < q.chans then some 7
  else none

/-- Slots that far instances hold on this node (R239). -/
def Chip.farSlots (c : Chip) : List Nat :=
  (c.slots.filter (fun s => decide (s.1 < 256) && s.2.st != .disabled && s.2.far.isSome)).map (fun s => s.1)

/-- What no quota reserves, less what far instances hold (R241). -/
def Chip.unreserved (c : Chip) : Quota := (pool.sub c.reserved).sub (c.slotUse c.farSlots)

/-- The instance's quota has room for `k` more of a resource; a far instance draws on what no quota reserves (R239). -/
def Chip.room (c : Chip) (n : Nat) (f : Quota → Nat) (k : Nat) : Bool :=
  if 128 ≤ n then decide (k ≤ f c.unreserved)
  else c.unbound n || decide (f (c.use n) + k ≤ f (c.inst n).quota)

/-! ### Contexts -/

/-- The lowest free endpoint context number of the 2,048 (R93). -/
def Chip.newCtx (c : Chip) : Option Nat :=
  leastFree (fun k => c.eps.all (fun e => e.2.st == .disabled || decide (8192 ≤ e.1) || e.2.ctx != k)) 0 2048

/-- The lowest free slot index of this node (R101). -/
def Chip.newSlot (c : Chip) : Option Nat := leastFree (fun k => (c.slot k).st == .disabled) 0 256

/-- Stream contexts in use on the node, and all there are (R95). -/
def Chip.streamsUsed (c : Chip) : Nat :=
  c.eps.foldl (fun n e => if e.2.st = .disabled ∨ 8192 ≤ e.1 then n else n + e.2.streamCount) 0

/-- A far place begins with the settings that its host node has sent, its buckets full (R177, R183). -/
def Queue.placed (q : Queue) (f : Nat × Nat) (r : Rates) : Queue :=
  { q with
    far := some f, weight := r.weight, cir := r.cir, pir := r.pir, cbs := r.cbs, pbs := r.pbs
    ctok := r.cbs.toNat, ptok := r.pbs.toNat }

/-- The far place of a slot's owner on its bus is taken with its first endpoint there (R175); none is left: `none`. -/
def Chip.takePlace (c : Chip) (sk : Nat) : Option Chip :=
  match (c.slot sk).far with
  | none => some c
  | some f =>
    let b := c.slotBus sk
    if (List.range 128).any (fun k => (c.queue (qKey b (128 + k))).far == some f) then some c
    else (leastFree (fun k => (c.queue (qKey b k)).far.isNone) 128 128).map (fun k =>
      c.updQueue (qKey b k) (fun q => q.placed f (Tbl.get {} (c.inst (farInst f.1 f.2)).farSet b)))

/-- The context of EP 0x00 is made (R91, R92, R94): Stopped, EPOCH kept; a far instance takes its place on the bus with it (R175). -/
def Chip.makeEp0 (c : Chip) (sk mps : Nat) : Chip :=
  let k := epKey sk 0
  let ctx := c.newCtx.getD 0
  let c := (c.takePlace sk).getD c
  let c := c.updEp k (fun e =>
    if e.st = .disabled then { epoch := e.epoch, flights := e.flights, due := e.due, st := .stopped, ctx := ctx } else e)
  let c := c.updEp k (fun e => { e with ty := .control, maxPacket := mps })
  c.updSlot sk (fun s => { s with mps0 := BitVec.ofNat 11 mps, epMask := s.epMask ||| 1 })

/-- Values of CONFIGURE_EP for an add (R103). -/
structure EpArgs where
  ty : EpTy
  mps : Nat
  burst : Nat := 0
  mult : Nat := 0
  interval : Nat := 0
  streams : Nat := 0
  ovr : Bool := false
  linear : Bool := false
  start : Nat := 0
  top : Nat := 0
  inc : Nat := 0

def EpArgs.per (a : EpArgs) : Bool := a.ty == .isoch || a.ty == .interrupt

/-- Encodings and ranges of an add (R103, R120, R133, R138, R166): on SSP0 to SSP7, MAX_PACKET is 1,024 wherever MAX_BURST is not 0. -/
def EpArgs.valid (a : EpArgs) (path : Path) : Bool :=
  decide (1 ≤ a.mps) && decide (a.mps ≤ 1024)
    && (if a.per then intervalOk path (a.ty == .isoch) a.interval && periodicOk path (a.ty == .isoch) a.mps a.burst a.mult
        else a.interval == 0 && a.mult == 0 && (a.burst == 0 || (path == .ss && a.mps == 1024)))
    && (a.streams == 0 || (path == .ss && a.ty == .bulk && decide (a.streams ≤ 8)))
    && (!a.ovr || path == .ss
        || (decide (1 ≤ a.start) && decide (a.start ≤ a.top) && decide (a.top ≤ 1000) && decide (a.inc ≤ 1000)))

/-- An endpoint is added: quotas, admission, context (R99 steps 4 and 5, R103, R131). The refusal's code and RESULT, or
the chip, the RESULT, and the PEP that must take effect first (R126). For a split endpoint the phase p of RESULT [23:16] is that of its
frame, 8 times the frame phase of R135. DEDUCED, log entry 64. -/
def Chip.addEp (c : Chip) (n key : Nat) (a : EpArgs) : Except (Byte × Nat) (Chip × Nat × List Nat) :=
  let far := (c.slot (keySlot key)).far.isSome
  let need : Quota := { eps := 1, peps := if a.per then 1 else 0, streams := if a.streams = 0 then 0 else 2 ^ a.streams }
  if !far && !(c.room n Quota.eps need.eps && (need.peps == 0 || c.room n Quota.peps 1)
      && (need.streams == 0 || c.room n Quota.streams need.streams)) then .error (ccQuota, 0)
  else if far && decide (0 < need.peps) && decide (c.unreserved.peps = 0) then .error (ccBandwidth, 1)
  else if far && (decide (c.unreserved.eps = 0) || decide (c.unreserved.streams < need.streams)) then .error (ccNoSlot, 0)
  else if (c.takePlace (keySlot key)).isNone then .error (ccNoSlot, 0)
  else if c.newCtx.isNone || decide (Config.poolStreams < c.streamsUsed + need.streams) then .error (ccNoSlot, 0)
  else
    let rally : Rally := { ovr := a.ovr, start := a.start, max := a.top, linear := a.linear, inc := a.inc, readyAt := c.us }
    let ctx := c.newCtx.getD 0
    let c := (c.takePlace (keySlot key)).getD c
    let put (c : Chip) (pep : Option Nat) (phase reserve : Nat) : Chip :=
      (c.updEp key (fun e => {
        epoch := e.epoch, flights := e.flights, due := e.due, st := .stopped
        ty := a.ty, maxPacket := a.mps, maxBurst := a.burst, mult := a.mult,
        interval := a.interval, maxStreams := a.streams, rally := rally, reserve := BitVec.ofNat 16 reserve, pep := pep,
        phase := phase, ctx := ctx })).updSlot (keySlot key) (fun s => { s with epMask := s.epMask ||| BitVec.ofNat 32 (2 ^ keyBit key) })
    if a.per then
      match c.admitPep { key := key, iso := a.ty == .isoch, mps := a.mps, burst := a.burst, mult := a.mult, interval := a.interval } with
      | .error r => .error (ccBandwidth, r)
      | .ok (k, p, reserve) => .ok (put (c.putPep k p) (some k) (p.phase % 256) reserve, reserve + 2 ^ 16 * (p.phase % 256), [k])
    else .ok (put c none 0 0, 0, [])

/-! ### USB addresses -/

/-- Addresses that devices of a bus hold, or are being given (R102). -/
def Chip.addrsOn (c : Chip) (b : Nat) : List Nat :=
  (c.busSlots b).filterMap (fun sk =>
    match (c.ep (epKey sk 0)).setAddr with
    | some a => some a.addr.toNat
    | none => if (c.slot sk).addr = 0 then none else some (c.slot sk).addr.toNat)
  ++ (c.jobs.filterMap (fun j => if j.1 / 2 ^ 20 = b ∧ j.2.addr ≠ 0 then some j.2.addr.toNat else none))

/-- The lowest free address of a bus. -/
def Chip.freeAddr (c : Chip) (b : Nat) : Option Nat :=
  let used := c.addrsOn b
  leastFree (fun k => !used.contains k) 1 127

/-! ### Port reset -/

/-- SEQ, STRIKES and the cadence after a port reset (R174). -/
def Ep.afterReset (e : Ep) (now : Nat) : Ep :=
  { e with
    seq := 0, strikes := 0, rally := e.rally.ease now, nrdy := false, erdy := false, pingDue := false, split := false,
    stream := 0, wanted := [], named := 0 }

/-- A slot goes to Default, keeping its address for MODE KEEP (R91, R92). -/
def Slot.toDefault (s : Slot) : Slot :=
  if s.st = .default ∨ s.st = .addressed then
    { s with st := .default, prev := if s.addr = 0 then s.prev else s.addr, addr := 0 }
  else s

/-- The stops of R111 over the slots of a bus: every endpoint, Halted ones included, is left Stopped with its EPOCH bumped (R92, R94). -/
def Chip.stopForReset (c : Chip) (b : Nat) : Chip :=
  ((c.busSlots b).flatMap c.slotEps).foldl (fun c k => c.stop k .reset) c

/-- A port reset begins: suspend and resume signalling stops, and their commands end (R215, R217); the stops of R111
begin; signalling follows them. -/
def Chip.beginReset (c : Chip) (b : Nat) (warm : Bool) : Chip :=
  let c :=
    if b < 24 then
      let p := c.port b
      let lost := p.st == pResuming || (p.st == pRecovery && p.afterResume) || p.resumeCmd.isSome
      let c := c.updPort b (fun p => { p with
        st := pResetting, wasSpeed := p.speed
        before := if p.st = pSuspending then pEnabled
          else if p.st = pResuming ∨ (p.st = pRecovery ∧ p.afterResume = true) then (if p.fromL1 then pL1 else pSuspended) else p.st
        se0 := false, fromL1 := false, afterResume := false, devResumed := false,
        already := false, suspendCmd := none, resumeCmd := none,
        resumeLost := if lost then p.resumeLost + 1 else p.resumeLost })
      let c := c.updBus b (fun x => { x with lpm := none })
      (c.finishRef p.suspendCmd ccAborted 0).finishRef p.resumeCmd ccResumeLost 0
    else
      let p := c.ssp (b - 24)
      let c := c.updSsp (b - 24) (fun p => { p with
        st := sResetting, wasSpeed := p.speed, before := if p.st = sRecovery ∧ p.exiting = true then sU3 else p.st
        warm := warm, se0 := false, exiting := false, tries := 0, resumeCmd := none })
      let c := if p.exiting || p.resumeCmd.isSome then c.updPort (b - 24) (fun p => { p with resumeLost := p.resumeLost + 1 }) else c
      c.finishRef p.resumeCmd ccResumeLost 0
  let keys := (c.busSlots b).flatMap c.slotEps
  (c.stopForReset b).wait { keys := keys, was := c.epStates keys, posted := false, cont := .portReset b warm }

/-- The stops of R111 are complete: slots go to Default, and signalling begins. -/
def Chip.resetSignal (c : Chip) (b : Nat) (warm : Bool) : Chip :=
  if (if b < 24 then (c.port b).st == pResetting && !(c.port b).se0 else (c.ssp (b - 24)).st == sResetting && !(c.ssp (b - 24)).se0) then
    let c := (c.busSlots b).foldl (fun c sk => c.updSlot sk Slot.toDefault) c
    let c := ((c.busSlots b).flatMap c.slotEps).foldl (fun c k => (c.unstage k).updEp k (fun e => e.afterReset c.us)) c
    if b < 24 then (c.updPort b (fun p => { p with se0 := true })).emit (.se0 b)
    else (c.updSsp (b - 24) (fun p => { p with se0 := true })).emit (.ssReset (b - 24) warm)
  else c

end Sys2Proof.Machine
end

