-- ==== Sys2Proof/Machine/Carry.lean ====
section
/-! DEFINITION. Carry's channels (R286 to R310): descriptors, bursts, confirmation, status, halts and aborts. -/

namespace Sys2Proof.Machine

/-! ### Descriptors (R291 to R296) -/

/-- The 32 bytes of a descriptor. -/
def descOf (raw : List Byte) : Desc :=
  { src := BitVec.ofNat 64 (leAt raw 0 8), dst := BitVec.ofNat 64 (leAt raw 8 8), next := BitVec.ofNat 64 (leAt raw 16 8)
    len := leAt raw 24 3, ctl := BitVec.ofNat 24 (leAt raw 27 3), tag := BitVec.ofNat 16 (leAt raw 30 2) }

def Desc.srcFixed (d : Desc) : Bool := bitAt d.ctl 0
def Desc.dstFixed (d : Desc) : Bool := bitAt d.ctl 1
def Desc.notify (d : Desc) : Bool := bitAt d.ctl 6
def Desc.confirm (d : Desc) : Bool := bitAt d.ctl 7
def Desc.last (d : Desc) : Bool := bitAt d.ctl 8

/-- SUB of DESC_INVALID for an instance's channel; 0: the descriptor is valid (R294, R302). -/
def Desc.invalid (d : Desc) : BitVec 4 :=
  if fld d.ctl 23 9 ≠ 0 then 1
  else if fld d.ctl 5 2 ≠ 0 then 2
  else if (d.srcFixed && fld d.src 7 0 != 0) || (d.dstFixed && fld d.dst 7 0 != 0) then 3
  else if !d.last && fld d.next 4 0 != 0 then 4
  else 0

/-- Bytes of the burst at the lowest destination (R295). -/
def Desc.first (d : Desc) : Nat := min d.len (256 - d.dst.toNat % 256)
/-- Bursts of the descriptor. -/
def Desc.bursts (d : Desc) : Nat := if d.len = 0 then 0 else 1 + cdiv (d.len - d.first) 256
/-- Where burst `j` by rising destination begins, and its size. -/
def Desc.off (d : Desc) (j : Nat) : Nat := if j = 0 then 0 else d.first + 256 * (j - 1)
def Desc.size (d : Desc) (j : Nat) : Nat := min (if j = 0 then d.first else 256) (d.len - d.off j)
/-- The copy runs downwards (R296). -/
def Desc.descend (d : Desc) : Bool :=
  !d.srcFixed && !d.dstFixed && decide (d.src.toNat < d.dst.toNat) && decide (d.dst.toNat < d.src.toNat + d.len)
/-- The burst that is moved as number `k`. -/
def Desc.nth (d : Desc) (k : Nat) : Nat := if d.descend then d.bursts - 1 - k else k
/-- Bytes of the first `k` bursts in the order in which they are moved. -/
def Desc.moved (d : Desc) (k : Nat) : Nat := if d.descend then d.len - d.off (d.bursts - k) else min d.len (d.off k)
/-- Source and destination of the burst moved as number `k`. -/
def Desc.srcAt (d : Desc) (k : Nat) : Addr := if d.srcFixed then d.src else d.src + BitVec.ofNat 64 (d.off (d.nth k))
def Desc.dstAt (d : Desc) (k : Nat) : Addr := if d.dstFixed then d.dst else d.dst + BitVec.ofNat 64 (d.off (d.nth k))
/-- The last dword of a burst. -/
def Desc.lastDword (d : Desc) (k : Nat) : Addr := (d.dstAt k + BitVec.ofNat 64 (d.size (d.nth k) - 1)) &&& ~~~(3 : Addr)

/-- The requests of a source read: two where it crosses a 4 KiB boundary (R295). -/
def Desc.requests (d : Desc) (k : Nat) : List (Addr × Nat) :=
  let a := d.srcAt k
  let n := d.size (d.nth k)
  let room := 4096 - a.toNat % 4096
  if n ≤ room then [(a, n)] else [(a, room), (a + BitVec.ofNat 64 room, n - room)]

/-- RESIDUE (R299). -/
def Chan.residue (h : Chan) (d : Desc) : Nat :=
  if h.complete then 0 else d.len - d.moved (if d.confirm then h.conf else h.done)

/-- CH_STS (R288). -/
def ChSt.code (s : ChSt) : Nat :=
  match s with
  | .idle => 0
  | .running => 1
  | .halted => 2
  | .aborting => 3
  | .paused => 4
def Chan.sts (h : Chan) : Word :=
  toWord (h.st.code + flagAt h.cmdErr 3 + flagAt h.confirmRd 5
    + flagAt (match h.cur with | some d => d.descend | none => false) 6
    + 2 ^ 8 * h.cause.toNat + 2 ^ 12 * h.sub.toNat + 2 ^ 16 * min h.hops 65535)

/-- CAUSE of a failed read, and SUB of a failed descriptor fetch (R302). -/
def readCause (r : ReadEnd) : BitVec 4 :=
  match r with
  | .ok => 0
  | .ur => 1
  | .ca => 2
  | .timeout => 3
  | .poison => 4
  | .noRoute => 5
def fetchSub (r : ReadEnd) : BitVec 4 :=
  match r with
  | .ur => 1
  | .ca => 2
  | .timeout => 3
  | .poison => 5
  | _ => 0

/-! ### One channel of an instance -/

def Inst.chan (x : Inst) (k : Nat) : Chan := Tbl.get {} x.chans k
def IW.ch (w : IW) (k : Nat) : Chan := w.x.chan k
def IW.updCh (w : IW) (k : Nat) (f : Chan → Chan) : IW := { w with x := { w.x with chans := Tbl.upd {} w.x.chans k f } }

/-- A status (R300, R301): about the current descriptor, or about the fetch at `nd`. A PF in Sandlot play has no quota. -/
def IW.status (w : IW) (n k : Nat) (mf : BitVec 16) (code : Nat) (cause : BitVec 4) (late : Bool) (nd : Option Addr) : IW :=
  let h := w.ch k
  let d : Desc := if nd.isSome then {} else h.cur.getD {}
  let res := if nd.isSome then 0 else h.residue d
  let addr := nd.getD h.curAddr
  let seq := h.seq + 1
  let w := w.updCh k (fun h => { h with seq := seq, lastRes := BitVec.ofNat 24 res, lastCode := BitVec.ofNat 8 code })
  let w := if w.x.stsEn then
      w.emit (.status n k [
        toWord (code + 2 ^ 8 * cause.toNat + 2 ^ 16 * d.tag.toNat),
        toWord (res + flagAt late 24 + flagAt (nd.isNone && d.descend) 25 + flagAt nd.isSome 26),
        toWord (fld addr 31 0), toWord (fld addr 63 32), toWord (seq.toNat + 2 ^ 16 * mf.toNat),
        toWord (w.x.gen.toNat + 2 ^ 8 * k)])
    else w
  if h.ie && (decide (h.vector.toNat < w.x.quota.vectors) || w.x.quota.vectors == 0) then w.msix n h.vector.toNat else w

/-- A descriptor is fetched (R291). -/
def IW.chFetch (w : IW) (n k : Nat) (a : Addr) : IW :=
  (w.updCh k (fun h => { h with fetching := true, fetchAt := a })).emit (.hostRead n a 32)

/-- The channel is IDLE; CH_DESC holds the chain's position (R307). -/
def Chan.rest (h : Chan) : Chan :=
  { h with st := .idle, cur := none, begun := 0, done := 0, conf := 0, complete := false, bad := false, errCause := 0 }

/-- A halt that concerns no descriptor in progress: LOOP, DESC_FETCH_ERR, DESC_INVALID (R302). -/
def IW.chHaltNd (w : IW) (n k : Nat) (mf : BitVec 16) (cause sub : BitVec 4) (a : Addr) : IW :=
  let w := w.updCh k (fun h => { h with
    errAddr := a, confirmRd := false, cause := cause, sub := sub, desc := if cause = 6 then h.desc else a })
  (w.status n k mf 3 cause false (some a)).updCh k (fun h => { h with st := .halted })

/-- NEXT is fetched, within HOP_LIMIT (R303). -/
def IW.chNext (w : IW) (n k : Nat) (mf : BitVec 16) (d : Desc) : IW :=
  if (w.ch k).hops < (w.ch k).hopLimit.toNat then w.chFetch n k d.next else w.chHaltNd n k mf 6 0 d.next

/-- The current descriptor completes (R298, R308). A PAUSED channel fetches its NEXT after THAW. -/
def IW.chComplete (w : IW) (n k : Nat) (mf : BitVec 16) (d : Desc) : IW :=
  let w := w.updCh k (fun h => { h with complete := true })
  let w := if d.notify then w.status n k mf 1 0 false none else w
  if d.last then w.updCh k Chan.rest
  else if (w.ch k).st = .running then w.chNext n k mf d
  else w

/-- An abort is settled (R305, R306). -/
def IW.chSettle (w : IW) (n k : Nat) (mf : BitVec 16) : IW :=
  let h := w.ch k
  match h.cur with
  | none => (w.status n k mf 2 0 false (some h.fetchAt)).updCh k (fun h => { h.rest with desc := h.fetchAt })
  | some d =>
    if h.complete then (w.status n k mf 1 0 true none).updCh k (fun h => { h.rest with desc := d.next })
    else (w.status n k mf 2 h.errCause false none).updCh k (fun h => { h.rest with desc := h.curAddr })

/-- The descriptor in progress is settled after a failed access: HALTED, or the abort's status (R302, R306). -/
def IW.chFailed (w : IW) (n k : Nat) (mf : BitVec 16) : IW :=
  if (w.ch k).st = .aborting then w.chSettle n k mf
  else
    let w := w.updCh k (fun h => { h with cause := h.errCause, sub := 0 })
    (w.status n k mf 3 (w.ch k).errCause false none).updCh k (fun h => { h with st := .halted })

/-- Source reads begin, at most 4 bursts ahead of the writes (R297). -/
def IW.chBegin (w : IW) (n k : Nat) (d : Desc) : Nat → IW
  | 0 => w
  | f + 1 =>
    let h := w.ch k
    if h.begun < d.bursts ∧ h.begun < h.done + 4 then
      ((d.requests h.begun).foldl (fun (w : IW) (r : Addr × Nat) => w.emit (.hostRead n r.1 r.2))
        (w.updCh k (fun h => { h with begun := h.begun + 1 }))).chBegin n k d f
    else w

/-- The confirming read of R298: the last dword written. -/
def IW.chConfirm (w : IW) (n k : Nat) (d : Desc) : IW :=
  (w.updCh k (fun h => { h with confirming := true })).emit (.hostRead n (d.lastDword ((w.ch k).done - 1)) 4)

/-- The channel goes on as far as it can. -/
def IW.chGo (w : IW) (n k : Nat) (mf : BitVec 16) : IW :=
  let h := w.ch k
  if h.fetching || h.confirming then w
  else
    match h.cur with
    | none => if h.st = .aborting then w.chSettle n k mf else w
    | some d =>
      if h.complete then
        (match h.st with
        | .running => w.chNext n k mf d
        | .aborting => w.chSettle n k mf
        | _ => w)
      else if h.bad then (if d.confirm ∧ h.conf < h.done then w.chConfirm n k d else w.chFailed n k mf)
      else
        match h.st with
        | .aborting =>
          if h.done < h.begun then w
          else if d.confirm ∧ h.conf < h.done then w.chConfirm n k d
          else w.chSettle n k mf
        | .running =>
          let w := w.chBegin n k d 4
          if h.done < d.bursts then w
          else if d.confirm ∧ h.conf < h.done then w.chConfirm n k d
          else w.chComplete n k mf d
        | .paused => if h.done = d.bursts ∧ (d.confirm = false ∨ h.conf = h.done) then w.chComplete n k mf d else w
        | _ => w

/-! ### CH_CMD (R293, R304, R305, R308) -/

def IW.chRefuse (w : IW) (k : Nat) : IW := w.updCh k (fun h => { h with cmdErr := true })

def IW.chStart (w : IW) (n k : Nat) : IW :=
  let h := w.ch k
  if h.st = .idle then
    (w.updCh k (fun h => { h.rest with st := .running, hops := 0, cause := 0, sub := 0, confirmRd := false })).chFetch n k h.desc
  else w.chRefuse k

/-- The halt concerns no descriptor in progress. -/
def Chan.ndHalt (h : Chan) : Bool := decide (6 ≤ h.cause.toNat)

def IW.chResume (w : IW) (n k : Nat) (mf : BitVec 16) : IW :=
  let h := w.ch k
  if h.st ≠ .halted then w.chRefuse k
  else
    let nd := h.ndHalt
    let w := w.updCh k (fun h => { h with
      st := .running, hops := 0, cause := 0, sub := 0, confirmRd := false, bad := false, errCause := 0, begun := h.done })
    if nd then w.chFetch n k h.errAddr else w.chGo n k mf

def IW.chSkip (w : IW) (n k : Nat) (mf : BitVec 16) : IW :=
  let h := w.ch k
  if h.st ≠ .halted ∨ h.ndHalt = true then w.chRefuse k
  else
    let w := w.status n k mf 4 h.cause false none
    let w := w.updCh k (fun h => { h with hops := 0, cause := 0, sub := 0, confirmRd := false, bad := false, errCause := 0 })
    match h.cur with
    | none => w.updCh k Chan.rest
    | some d => if d.last then w.updCh k Chan.rest else (w.updCh k (fun h => { h with st := .running })).chFetch n k d.next

def IW.chAbort (w : IW) (n k : Nat) (mf : BitVec 16) : IW :=
  let h := w.ch k
  match h.st with
  | .idle => w.chRefuse k
  | .aborting => w
  | .halted =>
    let w := w.status n k mf 2 h.cause false (if h.ndHalt then some h.errAddr else none)
    w.updCh k (fun h => { h.rest with desc := if h.ndHalt then h.errAddr else h.curAddr })
  | _ =>
    (w.updCh k (fun h => { h with
      st := .aborting, fetching := false, deadFetch := h.deadFetch + (if h.fetching then 1 else 0) })).chGo n k mf

/-- Local channels of an instance: its quota, or a PF's eight in Sandlot play (R287). -/
def Chip.chanCount (c : Chip) (n : Nat) : Nat := if c.unbound n then 8 else (c.inst n).quota.chans

/-- A write of a channel's CH_CMD: discarded where the channel does not exist, and in an instance that is not ACTIVE
(R289). -/
def Chip.chWrite (c : Chip) (n k : Nat) (f : IW → IW) : Chip :=
  if (c.inst n).st = .active ∧ k < c.chanCount n then c.onInst n f else c

/-- A write of CH_CMD with any OP; one that R293 refuses sets CMD_ERR. -/
def Chip.chCmd (c : Chip) (n k : Nat) (val : Word) : Chip :=
  c.chWrite n k (fun w =>
    match fld val 2 0 with
    | 1 => w.chStart n k
    | 2 => w.chResume n k c.mf
    | 3 => w.chSkip n k c.mf
    | 4 => w.chAbort n k c.mf
    | _ => w.chRefuse k)

/-! ### Reads return -/

/-- A descriptor fetch returns (R294, R303). -/
def IW.chFetched (w : IW) (n k : Nat) (mf : BitVec 16) (r : ReadEnd) (raw : List Byte) : IW :=
  let h := w.ch k
  if 0 < h.deadFetch then w.updCh k (fun h => { h with deadFetch := h.deadFetch - 1 })
  else if !h.fetching then w
  else
    let w := w.updCh k (fun h => { h with fetching := false })
    if r ≠ .ok then w.chHaltNd n k mf 7 (fetchSub r) h.fetchAt
    else
      let d := descOf raw
      let w := w.updCh k (fun h => { h with hops := h.hops + 1 })
      if d.invalid ≠ 0 then w.chHaltNd n k mf 8 d.invalid h.fetchAt
      else
        (w.updCh k (fun h => { h with
          cur := some d, curAddr := h.fetchAt, desc := h.fetchAt, begun := 0, done := 0, conf := 0, complete := false
          bad := false, errCause := 0 })).chGo n k mf

/-- FETCH_TO expires (R303); what returns afterwards is discarded. -/
def IW.chFetchLate (w : IW) (n k : Nat) (mf : BitVec 16) : IW :=
  let h := w.ch k
  if h.fetching then
    (w.updCh k (fun h => { h with fetching := false, deadFetch := h.deadFetch + 1 })).chHaltNd n k mf 7 4 h.fetchAt
  else w

/-- The oldest source read returns: its burst is written, or it and every later one are not (R297, R299, R302). Which of
two requests failed is open (log entry 2). -/
def IW.chRead (w : IW) (n k : Nat) (mf : BitVec 16) (r : ReadEnd) : IW :=
  let h := w.ch k
  if 0 < h.deadRead then w.updCh k (fun h => { h with deadRead := h.deadRead - 1 })
  else
    match h.cur with
    | none => w
    | some d =>
      if h.begun ≤ h.done then w
      else if r = .ok then
        ((w.updCh k (fun h => { h with done := h.done + 1 })).emit
          (.hostWrite n (d.dstAt h.done) (d.size (d.nth h.done)))).chGo n k mf
      else
        let rs := d.requests h.done
        let at_ := rs.getD ((Config.freeWord w.free).toNat % rs.length) (0, 0)
        let w := if 1 < rs.length then { w with free := w.free + 1 } else w
        (w.updCh k (fun h => { h with
          bad := true, errCause := readCause r, errAddr := at_.1, confirmRd := false
          deadRead := h.begun - h.done - 1, begun := h.done })).chGo n k mf

/-- A confirming read returns (R298, R299, R305). -/
def IW.chConfirmed (w : IW) (n k : Nat) (mf : BitVec 16) (r : ReadEnd) : IW :=
  let h := w.ch k
  if 0 < h.deadConf then w.updCh k (fun h => { h with deadConf := h.deadConf - 1 })
  else
    match h.cur with
    | none => w
    | some d =>
      if !h.confirming then w
      else
        let w := w.updCh k (fun h => { h with confirming := false })
        if r = .ok then (w.updCh k (fun h => { h with conf := h.done })).chGo n k mf
        else
          let w := if h.bad then w
            else w.updCh k (fun h => { h with
              bad := true, errCause := readCause r, errAddr := d.lastDword (h.done - 1), confirmRd := true })
          (w.updCh k (fun h => { h with done := h.conf, begun := h.conf })).chGo n k mf

/-! ### Internal channels (R286, R302) -/

/-- What an internal channel's client reads, and where, is not given: an access that fails halts the channel, which its
client takes up again with the next one that does not (log entries 2 and 21). -/
def Chip.internalRead (c : Chip) (k : Nat) (cause sub : BitVec 4) (confirm : Bool) : Chip :=
  if cause = 0 then { c with internals := Tbl.set {} c.internals k {} }
  else
    let hi : Word := Config.freeWord c.free
    let lo : Word := Config.freeWord (c.free + 1)
    let h : Chan := { st := .halted, cause := cause, sub := sub, confirmRd := confirm, errAddr := hi ++ lo }
    (({ c with internals := Tbl.set {} c.internals k h, free := c.free + 2 } : Chip).log 0x12 0x08 (240 + k) h.sts.toNat lo.toNat 0).pend
      (376 + k)

/-! ### Channels of an instance as a whole -/

/-- CARRY_DESC_FETCH_DONE. -/
def Chip.carryFetched (c : Chip) (ch : ChanRef) (r : ReadEnd) (raw : List Byte) : Chip :=
  match ch with
  | .loc n k => c.onInst n.val (fun w => w.chFetched n.val k.val c.mf r raw)
  | .internal k => c.internalRead k.val (if r = .ok then 0 else if r = .noRoute then 5 else 7) (fetchSub r) false

/-- CARRY_FETCH_TIMEOUT. -/
def Chip.carryFetchLate (c : Chip) (ch : ChanRef) : Chip :=
  match ch with
  | .loc n k => c.onInst n.val (fun w => w.chFetchLate n.val k.val c.mf)
  | .internal k => c.internalRead k.val 7 4 false

/-- CARRY_BURST_READ_DONE. -/
def Chip.carryRead (c : Chip) (ch : ChanRef) (r : ReadEnd) : Chip :=
  match ch with
  | .loc n k => c.onInst n.val (fun w => w.chRead n.val k.val c.mf r)
  | .internal k => c.internalRead k.val (readCause r) 0 false

/-- CARRY_CONFIRM_DONE. -/
def Chip.carryConfirmed (c : Chip) (ch : ChanRef) (r : ReadEnd) : Chip :=
  match ch with
  | .loc n k => c.onInst n.val (fun w => w.chConfirmed n.val k.val c.mf r)
  | .internal k => c.internalRead k.val (readCause r) 0 true

/-- The channel after a reset of its instance (R309): outstanding reads come back to nothing. -/
def Chan.reset (h : Chan) : Chan :=
  { phys := h.phys, deadFetch := h.deadFetch + (if h.fetching then 1 else 0), deadRead := h.deadRead + (h.begun - h.done)
    deadConf := h.deadConf + (if h.confirming then 1 else 0) }

def Inst.resetChans (x : Inst) : Inst := { x with chans := Tbl.mapv {} x.chans (fun _ h => h.reset), stsEn := false }

/-- FREEZE and THAW (R119, R308). -/
def Chip.pauseChans (c : Chip) (n : Nat) : Chip :=
  c.updInst n (fun x => { x with chans := Tbl.mapv {} x.chans (fun _ h => if h.st = .running then { h with st := .paused } else h) })
def Chip.thawChans (c : Chip) (n : Nat) : Chip :=
  let ks := ((c.inst n).chans.filter (fun h => h.2.st == .paused)).map (fun h => h.1)
  ks.foldl (fun c k => c.onInst n (fun w => (w.updCh k (fun h => { h with st := .running })).chGo n k c.mf)) c

/-- Physical channels in use (R287). -/
def Chip.physUsed (c : Chip) : List Nat := c.insts.flatMap (fun x => x.2.chans.filterMap (fun h => h.2.phys))

/-- Local channels 0 to `q` - 1 are bound, each new one to the lowest free physical channel; the others are released
(R287). -/
def Chip.bindChans (c : Chip) (n q : Nat) : Chip :=
  let c := c.updInst n (fun x => { x with chans := Tbl.mapv {} x.chans (fun k h => if k < q then h else { h.reset with phys := none }) })
  let used := c.physUsed
  let free := (List.range 240).filter (fun p => !used.contains p)
  let new := (List.range q).filter (fun k => ((c.inst n).chan k).phys.isNone)
  (new.zip free).foldl (fun (c : Chip) (b : Nat × Nat) =>
    c.updInst n (fun x => { x with chans := Tbl.upd {} x.chans b.1 (fun h => { h with phys := some b.2 }) })) c

/-! ### Global registers (R310) -/

/-- The physical channels that are bound or not IDLE, each with its instance, local number and channel. -/
def Chip.physChans (c : Chip) : List (Nat × Option (Nat × Nat) × Chan) :=
  c.insts.flatMap (fun x => x.2.chans.filterMap (fun h => h.2.phys.map (fun p => (p, some (x.1, h.1), h.2))))
    ++ c.internals.map (fun h => (240 + h.1, none, h.2))

def Chip.carryGctl (c : Chip) : Word := toWord (c.cap.fetchTo.toNat + 2 ^ 8 * c.cap.instShare.toNat)
def Chip.carryGctlSet (c : Chip) (val : Word) : Chip :=
  if fld val 7 0 = 0 ∨ fld val 12 8 = 0 ∨ 16 < fld val 12 8 then c
  else { c with cap := { c.cap with fetchTo := BitVec.ofNat 8 (fld val 7 0), instShare := BitVec.ofNat 5 (fld val 12 8) } }
def ChSt.active (s : ChSt) : Bool := s == .running || s == .aborting || s == .paused
def Chip.carryGsts (c : Chip) : Word :=
  toWord ((c.physChans.filter (fun p => p.2.2.st.active)).length + 2 ^ 9 * (c.physChans.filter (fun p => p.2.2.st == .halted)).length)
/-- CARRY_BUSY and CARRY_HALT. -/
def Chip.carryBits (c : Chip) (k : Nat) (f : ChSt → Bool) : Word :=
  toWord ((c.physChans.filter (fun p => p.1 / 32 == k && f p.2.2.st)).foldl (fun n p => n + 2 ^ (p.1 % 32)) 0)

/-- CARRY_SEL_WRITE: one physical channel is captured. -/
def Chip.carrySel (c : Chip) (val : Word) : Chip :=
  let k := fld val 7 0
  let d := match c.physChans.find? (fun p => p.1 == k) with
    | none => 0x7F
    | some (_, o, h) =>
      (match o with
        | some (n, i) => n + 2 ^ 7 + 2 ^ 8 * i
        | none => 0x7F) + 2 ^ 16 * h.st.code + 2 ^ 19 * h.cause.toNat
  { c with cap := { c.cap with
    carrySel := toWord k, carryData := toWord d } }

end Sys2Proof.Machine
end

