-- ==== Sys2Proof/Machine/Enumerate.lean ====
section
/-! DEFINITION. Managed enumeration and external hubs (R264 to R271). -/

namespace Sys2Proof.Machine

/-- An enumeration is named by its bus and ROUTE. -/
def jobKey (b route : Nat) : Nat := 2 ^ 20 * b + route
def jobBus (k : Nat) : Nat := k / 2 ^ 20
def jobRoute (k : Nat) : Nat := k % 2 ^ 20

def Chip.job (c : Chip) (k : Nat) : EnumJob := Tbl.get {} c.jobs k
def Chip.setJob (c : Chip) (k : Nat) (j : EnumJob) : Chip := { c with jobs := Tbl.set {} c.jobs k j }
def Chip.svcReq (c : Chip) (k req val : Nat) : Chip := c.emit (.svc k req val)

/-- The Referee place of a connector's owner on a bus: its number, or its far place where it has one (R175). -/
def Chip.ownerPlace (c : Chip) (b : Nat) : Option Nat :=
  match (c.port (busPort b)).farOwner with
  | some f => ((List.range 128).find? (fun k => (c.queue (qKey b (128 + k))).far == some f)).map (· + 128)
  | none => if c.portOwner b = nobody then none else some (c.portOwner b).toNat

/-- A control transfer of a service is charged to the queue of the instance that owns the connector (R179, R262): the SETUP, data
packets of up to `mps` bytes, and the status stage. DESIGN CHOICE, log entry 77. -/
def Chip.svcCharge (c : Chip) (b mps len : Nat) : Chip :=
  match c.ownerPlace b with
  | none => c
  | some q =>
    let one (c : Chip) (p : Nat) : Chip := c.charge b q ((c.bus b).shaped (decide (b < 24)) p 1)
    let m := max 8 mps
    one ((List.range (cdiv len m)).foldl (fun c k => one c (min m (len - m * k))) (one c 8)) 0

/-- Managed enumeration serves the connector of a bus (R264): its hubs are service hubs where `hubsOk`. -/
def Chip.enumOn (c : Chip) (b : Nat) : Bool :=
  let p := c.port (busPort b)
  c.boot.fwRunning && bitAt p.svc 0 && !p.pass && (c.ownerOf (busPort b)).any (fun n => !(c.inst n).compat)

/-- The service hub behind which a ROUTE lies, deepest first choice: the one whose ROUTE is the longest. -/
def Chip.hubAbove (c : Chip) (b route : Nat) (want : Slot → Bool) : Option Nat :=
  (c.busSlots b).foldl (fun a sk =>
    let s := c.slot sk
    if s.hub && want s && routeBehind s.route.toNat route then
      match a with
      | none => some sk
      | some x => if routeLen (c.slot x).route.toNat < routeLen s.route.toNat then some sk else some x
    else a) none

/-- The hub directly above, and its port. -/
def Chip.parentOf (c : Chip) (b route : Nat) : Option (Nat × Nat) :=
  (c.hubAbove b route (fun s => routeLen s.route.toNat + 1 == routeLen route)).map
    (fun sk => (sk, route / 16 ^ routeLen (c.slot sk).route.toNat % 16))

/-- A request about the hub port a device sits on. -/
def Chip.hubReq (c : Chip) (b route req : Nat) : Chip :=
  match c.parentOf b route with
  | some (sk, p) => c.svcReq sk req p
  | none => c

/-- The slot that an enumeration holds is freed, without a word to anyone (R266, R267). -/
def Chip.freeJobSlot (c : Chip) (k : Nat) : Chip :=
  match (c.job k).slot with
  | some sk => c.clearSlot sk false
  | none => c

def Chip.dropJob (c : Chip) (k : Nat) : Chip := (c.freeJobSlot k).setJob k {}

/-- An ENUM_FAIL entry of an instance of this node; the 16 newest are kept (R281). -/
def Chip.keepEnumFail (c : Chip) (n : Nat) (e : EnumFail) : Chip :=
  c.updInst n (fun x => { x with enumFails := (x.enumFails ++ [e]).drop (x.enumFails.length + 1 - 16) })

/-- An ENUM_FAIL entry for the connector's owner (R267); a far owner's node is told with an EVENT frame. DESIGN CHOICE, log entry 79. -/
def Chip.enumFail (c : Chip) (b route reason attempts : Nat) : Chip :=
  match c.ownerOf (busPort b) with
  | none => c
  | some n =>
    if 128 ≤ n then c.sendFrame (instNode n) 0x06 (2 ^ 8 * (c.subject b).toNat + 2 ^ 24 * route + 2 ^ 44 * reason + 2 ^ 52 * attempts)
    else c.keepEnumFail n
      { root := c.subject b, route := BitVec.ofNat 20 route, reason := BitVec.ofNat 8 reason, attempts := BitVec.ofNat 8 attempts }

/-- The device is parked (R267). -/
def Chip.parkJob (c : Chip) (k reason attempts : Nat) : Chip :=
  let b := jobBus k
  let route := jobRoute k
  let speed := (c.job k).speed
  let c := c.dropJob k
  let c := c.updPort (busPort b) (fun p => { p with
    parked := p.parked ++ [{ bus := b, route := BitVec.ofNat 20 route, reason := reason, speed := speed }] })
  let c := (c.hubReq b route 7).enumFail b route reason attempts
  if route = 0 then c.portChange b chConfigErr 0 else c

/-- Why step 3 cannot be tried: QUOTA or NO_SLOT (R267). -/
def Chip.noAddress (c : Chip) (k : Nat) : Option Nat :=
  let b := jobBus k
  let n := c.busOwner b
  if (c.job k).slot.isNone && !(c.room n Quota.slots 1 && c.room n Quota.eps 1) then some 4
  else if ((c.job k).slot.isNone && c.newSlot.isNone) || (c.freeAddr b).isNone then some 5
  else none

/-- Step 3 begins (R265): the lowest free slot and address, against the owner's quota. A slot that an earlier attempt took stays, and
takes the lowest free address again. -/
def Chip.beginAddress (c : Chip) (k : Nat) : Chip :=
  let j := c.job k
  let b := jobBus k
  let route := jobRoute k
  match j.slot with
  | some _ =>
    let a := (c.freeAddr b).getD 0
    (c.setJob k { j with addr := BitVec.ofNat 7 a }).svcReq k 2 a
  | none =>
      match c.newSlot, c.freeAddr b with
      | some sk, some a =>
        let tt := if j.speed = 1 ∨ j.speed = 2 then c.hubAbove b route (fun s => s.speed == 3) else none
        let base : Slot := {
          st := .enabled, owner := c.portOwner b, far := (c.port (busPort b)).farOwner
          root := c.subject b, route := BitVec.ofNat 20 route, speed := j.speed
          managed := true, busy := true }
        let s : Slot := match tt with
          | some h =>
            { base with
              ttSlot := BitVec.ofNat 12 (c.slotName h)
              ttPort := BitVec.ofNat 8 (route / 16 ^ routeLen (c.slot h).route.toNat % 16)
              mtt := (c.slot h).mtt, ttThink := (c.slot h).ttThink }
          | none => base
        let c := c.updSlot sk (fun _ => s)
        (c.setJob k { j with slot := some sk, addr := BitVec.ofNat 7 a }).svcReq k 2 a
      | _, _ => c

/-- A step sends its request. -/
def Chip.sendStep (c : Chip) (k step : Nat) : Chip :=
  let c := c.setJob k { c.job k with step := step }
  if step = 3 then c.beginAddress k
  else if step = 2 then c.svcReq k 1 0
  else if step = 4 then c.svcReq k 3 0
  else c

/-- A failure is counted against its step. -/
def EnumJob.failed (j : EnumJob) : EnumJob :=
  if j.step = 2 then { j with fail2 := j.fail2 + 1 } else if j.step = 3 then { j with fail3 := j.fail3 + 1 }
  else { j with fail4 := j.fail4 + 1 }
def EnumJob.fails (j : EnumJob) : Nat := if j.step = 2 then j.fail2 else if j.step = 3 then j.fail3 else j.fail4

/-- A step has failed: tried again after a port reset, or the device is parked after the third failure (R267). Behind a hub a step 3
that finds no slot or quota fails again at once. -/
def Chip.failN (c : Chip) (k reason : Nat) : Nat → Chip
  | 0 => c.parkJob k reason 3
  | f + 1 =>
    let j := (c.job k).failed
    let c := c.setJob k j
    if 3 ≤ j.fails then c.parkJob k reason 3
    else
      let b := jobBus k
      let again := if j.step = 4 then 3 else j.step
      if jobRoute k = 0 then (c.setJob k { j with step := 1, again := again }).beginReset b false
      else
        let c := match j.slot with
          | some sk => c.updSlot sk Slot.toDefault
          | none => c
        let c := (c.hubReq b (jobRoute k) 6).setJob k { j with step := again }
        match (if again = 3 then c.noAddress k else none) with
        | some r => c.failN k r f
        | none => c.sendStep k again
def Chip.failStep (c : Chip) (k reason : Nat) : Chip := c.failN k reason 3

/-- A step begins. -/
def Chip.beginStep (c : Chip) (k step : Nat) : Chip :=
  match (if step = 3 then c.noAddress k else none) with
  | some r => (c.setJob k { c.job k with step := 3 }).failStep k r
  | none => c.sendStep k step

/-- Enumeration of a device begins: with a port reset on a USB 2.0 root port, or a warm one of a companion that a hand-over left
disabled (R226; log entry 76); with step 2 on an SSP and behind a hub, whose port has been reset (R265). -/
def Chip.startEnum (c : Chip) (b route : Nat) (speed : BitVec 4) : Chip :=
  let k := jobKey b route
  let d := c.dispatch 81
  if route = 0 ∧ (b < 24 ∨ (c.ssp (b - 24)).st = sInactive) then
      (d.2.setJob k { step := 1, speed := speed, holder := d.1 }).beginReset b (decide (24 ≤ b))
  else (d.2.setJob k { speed := speed, holder := d.1 }).beginStep k 2

/-- A device on a root port has become attached: enumerated where the service is on (R264). -/
def Chip.enumRoot (c : Chip) (b : Nat) : Chip := if c.enumOn b then c.startEnum b 0 (c.busSpeed b) else c

/-- A connector with a device that no one has enumerated comes under the service (R226, R264). -/
def Chip.enumLate (c : Chip) (b : Nat) : Chip :=
  let attached := if b < 24 then (c.port b).connected else (c.ssp (b - 24)).connected
  let parked := (c.port (busPort b)).parked.any (fun x => x.bus == b && x.route == 0)
  if attached && (c.busSlots b).isEmpty && !parked && (c.job (jobKey b 0)).step == 0 then c.enumRoot b else c

/-! ### Descriptors -/

/-- The descriptors of a configuration, one by one. -/
def descsOf : Nat → List Byte → List (List Byte)
  | 0, _ => []
  | f + 1, bs =>
    match bs with
    | [] => []
    | l :: _ => if l.toNat < 2 then [] else bs.take l.toNat :: descsOf f (bs.drop l.toNat)

def Slot.descs (s : Slot) : List (List Byte) := descsOf s.cfgDesc.length s.cfgDesc

/-- MPS0 from the first 8 bytes of a device descriptor (R265 step 2). -/
def mps0Of (speed : BitVec 4) (bs : List Byte) : Option Nat :=
  if bs.length < 8 ∨ leAt bs 1 1 ≠ 1 then none
  else
    let m := leAt bs 7 1
    if 4 ≤ speed.toNat then (if m = 9 then some 512 else none)
    else if m = 8 ∨ m = 16 ∨ m = 32 ∨ m = 64 then some m else none

/-- An interrupt endpoint that a configuration describes: its bit of EP_MASK, packet size, MULT, burst, bInterval, and
whether its interface is a keyboard. -/
structure IntEp where
  bit : Nat
  mps : Nat
  mult : Nat
  burst : Nat
  bInterval : Nat
  keyboard : Bool
  /-- The interface, by the place of its HID descriptor among those of the configuration. -/
  iface : Nat

/-- The interrupt endpoints of the interfaces' first settings; `seen` HID descriptors have gone before. -/
def intEpsFrom : List (List Byte) → Bool → Bool → Nat → List IntEp
  | [], _, _, _ => []
  | d :: t, alt, kb, seen =>
    if leAt d 1 1 = 4 then intEpsFrom t (leAt d 3 1 != 0) (leAt d 5 1 == 3 && leAt d 7 1 == 1) seen
    else if leAt d 1 1 = 0x21 ∧ alt = false then intEpsFrom t alt kb (seen + 1)
    else if leAt d 1 1 = 5 ∧ leAt d 3 1 % 4 = 3 ∧ alt = false then
      let a := leAt d 2 1
      let burst := match t with
        | x :: _ => if leAt x 1 1 = 0x30 then leAt x 2 1 else 0
        | [] => 0
      { bit := a % 16 + (if 128 ≤ a then 16 else 0), mps := leAt d 4 2 % 2048, mult := leAt d 4 2 / 2048 % 4,
        burst := burst, bInterval := leAt d 6 1, keyboard := kb, iface := seen - 1 } :: intEpsFrom t alt kb seen
    else intEpsFrom t alt kb seen
def intEps (ds : List (List Byte)) : List IntEp := intEpsFrom ds false false 0

/-- The HID descriptors of the interfaces' first settings. -/
def hidDescs : List (List Byte) → Bool → List (List Byte)
  | [], _ => []
  | d :: t, alt =>
    if leAt d 1 1 = 4 then hidDescs t (leAt d 3 1 != 0)
    else if leAt d 1 1 = 0x21 ∧ alt = false then d :: hidDescs t alt
    else hidDescs t alt

/-- The report descriptors that were read one after another, each of the length its HID descriptor gives, and of up to 4,096 bytes
(R273). -/
def reportDescs : List (List Byte) → List Byte → List (List Byte)
  | [], _ => []
  | h :: t, bs => let n := min 4096 (leAt h 7 2); bs.take n :: reportDescs t (bs.drop n)

/-- Every interface is of class 0x03 (R273). -/
def allHid (ds : List (List Byte)) : Bool :=
  let is := ds.filter (fun d => leAt d 1 1 == 4)
  !is.isEmpty && is.all (fun d => leAt d 5 1 == 3)

/-- INTERVAL of an interrupt endpoint from bInterval (R120). -/
def intervalOf (path : Path) (b : Nat) : Nat :=
  match path with
  | .ss | .hs => min 15 (b - 1)
  | _ => min 10 (3 + Nat.log2 (max 1 b))

/-- A report descriptor declares report IDs: it has an item of tag 0x84 (R277). -/
def hasReportId : Nat → List Byte → Bool
  | 0, _ => false
  | f + 1, bs =>
    match bs with
    | [] => false
    | b :: t =>
      if b = 0xFE then hasReportId f (t.drop ((t.headD 0).toNat + 2))
      else if b.toNat / 4 = 0x21 then true
      else hasReportId f (t.drop (if b.toNat % 4 = 3 then 4 else b.toNat % 4))

/-- A service endpoint is admitted and Running (R262, R269, R273). -/
def Chip.addService (c : Chip) (n sk : Nat) (e : IntEp) : Option Chip :=
  let path := (c.slot sk).path
  let a : EpArgs := { ty := .interrupt, mps := e.mps, burst := e.burst, mult := e.mult, interval := intervalOf path e.bInterval }
  match c.addEp n (epKey sk e.bit) a with
  | .ok x => some (x.1.updEp (epKey sk e.bit) (fun y => { y with service := true, st := .running, keyboard := e.keyboard }))
  | .error _ => none

def Chip.addServices (c : Chip) (n sk : Nat) : List IntEp → Option Chip
  | [] => some c
  | e :: t =>
    match c.addService n sk e with
    | some c => c.addServices n sk t
    | none => none

/-! ### Step 5 -/

/-- The enumeration ends: the device is reported (R265 step 5). -/
def Chip.enumDone (c : Chip) (k sk : Nat) : Chip :=
  ((c.setJob k {}).updSlot sk (fun s => { s with busy := false })).attachAll sk

/-- Devices enumerated behind the connector join its share group, where it is in use (R263, R273). -/
def Chip.shareOn (c : Chip) (b : Nat) : Option Nat :=
  let p := c.port (busPort b)
  if bitAt p.svc 6 && bitAt (c.share (fld p.svc 9 7)).ctl 0 then some (fld p.svc 9 7) else none

/-- The device's descriptors are read (R265 step 4): a hub is configured, a HID device of a sharing connector gives its
report descriptors, any other device is reported. -/
def Chip.described (c : Chip) (k sk : Nat) (bs : List Byte) : Chip :=
  let cfg := bs.drop 18
  let total := min (leAt cfg 2 2) 4096
  let c := c.updSlot sk (fun s => { s with
    devDesc := bs.take 18, cfgDesc := cfg.take total, bosDesc := cfg.drop total, cls := bs.getD 4 0
    vid := BitVec.ofNat 16 (leAt bs 8 2), pid := BitVec.ofNat 16 (leAt bs 10 2) })
  let s := c.slot sk
  if leAt bs 4 1 = 9 then
    let c := if s.speed = 3 ∧ leAt bs 6 1 = 2 then c.updSlot sk (fun s => { s with mtt := true }) else c
    let c := if 4 ≤ s.speed.toNat then c.svcReq k 4 (routeLen s.route.toNat) else c.svcReq k 4 0
    c.setJob k { c.job k with step := 5 }
  else if (c.shareOn (jobBus k)).isSome && allHid s.descs then (c.setJob k { c.job k with step := 5 }).svcReq k 5 0
  else c.enumDone k sk

/-- Well-formed descriptors of step 4: the device descriptor, the first configuration, and what follows it. -/
def descsOk (bs : List Byte) : Bool :=
  decide (27 ≤ bs.length) && leAt bs 0 1 == 18 && leAt bs 1 1 == 1 && leAt bs 18 1 == 9 && leAt bs 19 1 == 2
    && decide (9 ≤ leAt bs 20 2) && decide (18 + min (leAt bs 20 2) 4096 ≤ bs.length)

/-- The hub's descriptor is read and the hub configured (R269, R270). -/
def Chip.hubReady (c : Chip) (k sk : Nat) (bs : List Byte) : Chip :=
  let b := jobBus k
  let route := jobRoute k
  let n := c.busOwner b
  let ports := leAt bs 2 1
  let redo := (c.job k).redo
  let c := c.updSlot sk (fun s =>
      { s with hub := true, busy := false, ttThink := BitVec.ofNat 2 (fld (BitVec.ofNat 16 (leAt bs 3 2)) 6 5) })
  let armed : Option Chip :=
    if redo then
      some ((c.slotEps sk).foldl (fun c e => if (c.ep e).service then c.updEp e (fun x => { x with st := .running }) else c) c)
    else c.addServices n sk ((intEps (c.slot sk).descs).take 1)
  match armed with
  | none => (c.updSlot sk (fun s => { s with hub := false, busy := true })).parkJob k 4 1
  | some c =>
    let c := c.setJob k {}
    let top := if routeLen route < 5 then min ports 15 else 0
    let off := (c.slot sk).offPorts.map (fun x => x.1)
    let c := ((List.range top).filter (fun p => !off.contains (p + 1))).foldl (fun c p => c.svcReq sk 8 (p + 1)) c
    if top < ports then c.enumFail b route 6 0 else c

/-- The report descriptors are read: the device joins its share group, where its endpoints are admitted (R273). -/
def Chip.hidReady (c : Chip) (k sk : Nat) (bs : List Byte) : Chip :=
  match c.shareOn (jobBus k) with
  | none => c.enumDone k sk
  | some g =>
    let es := intEps (c.slot sk).descs
    match c.addServices (c.busOwner (jobBus k)) sk es with
    | none => c.enumDone k sk
    | some c =>
      let rs := reportDescs (hidDescs (c.slot sk).descs false) bs
      let rid (e : IntEp) : Bool := let r := rs.getD e.iface []; hasReportId r.length r
      let c := es.foldl (fun c e => c.updEp (epKey sk e.bit) (fun x => { x with reportId := rid e })) c
      let c := (c.updEp (epKey sk 0) (fun x => { x with service := true, st := .running })).updSlot sk (fun s =>
        { s with shared := some g, repDescs := rs })
      (c.svcReq sk 10 1).enumDone k sk

/-! ### Steps -/

/-- The device has its address (R265 step 3). -/
def Chip.addressed (c : Chip) (k sk : Nat) : Chip :=
  let j := c.job k
  let c := (c.updSlot sk (fun s => { s with st := .addressed, addr := j.addr, prev := j.addr })).makeEp0 sk j.mps0.toNat
  if j.redo then (c.setJob k { j with step := 5 }).svcReq k 4 0
  else c.beginStep k 4

/-- ENUM_STEP_COMPLETE (R265, R267). The control transfer that brought the step's bytes is charged to the owner's queue (R262). -/
def Chip.enumStep (c : Chip) (k : Nat) (r : EnumEnd) : Chip :=
  let j := c.job k
  let sk := j.slot.getD 0
  let c : Chip := match r with
    | .ok bs => if j.step = 0 then c else c.svcCharge (jobBus k) j.mps0.toNat bs.length
    | _ => c
  if j.step = 2 then
    match r with
    | .ok bs =>
      match mps0Of j.speed bs with
      | some m => (c.setJob k { j with mps0 := BitVec.ofNat 11 m }).beginStep k 3
      | none => c.failStep k 3
    | .noAnswer => c.failStep k 1
    | .malformed => c.failStep k 3
  else if j.step = 3 then
    match r with
    | .ok _ => c.addressed k sk
    | _ => c.failStep k 2
  else if j.step = 4 then
    match r with
    | .ok bs => if descsOk bs then c.described k sk bs else c.failStep k 3
    | _ => c.failStep k 3
  else if j.step = 5 then
    let hub := j.redo || (c.slot sk).cls == 9
    match r with
    | .ok bs => if hub then (if bs.length < 5 then c.parkJob k 3 1 else c.hubReady k sk bs) else c.hidReady k sk bs
    | _ => if hub then c.parkJob k 3 1 else c.enumDone k sk
  else c

/-! ### Resets, parking and hubs -/

/-- Devices behind a hub's ROUTE are gone: enumerations, parked devices and slots (R268, R271). -/
def Chip.loseBehind (c : Chip) (b : Nat) (behind : Nat → Bool) (reason : Nat) : Chip :=
  let c := { c with jobs := c.jobs.filter (fun j => !(jobBus j.1 == b && behind (jobRoute j.1))) }
  let c := c.updPort (busPort b) (fun p => { p with parked := p.parked.filter (fun x => !(x.bus == b && behind x.route.toNat)) })
  (c.byTier ((c.busSlots b).filter (fun sk => behind (c.slot sk).route.toNat))).foldl
    (fun c sk => c.loseSlot sk reason ccDevGone) c

/-- The owner's PORT_RESET meets an enumeration (R266): it starts again at step 2 after RESET_DONE. -/
def Chip.enumStop (c : Chip) (b : Nat) : Chip :=
  let k := jobKey b 0
  let j := c.job k
  if j.step = 0 then c
  else (c.freeJobSlot k).setJob k { step := 1, speed := j.speed }

/-- A port reset has ended: the enumeration that waited for it goes on; a service hub is addressed and configured again,
and what was behind it is gone (R265, R266, R271). -/
def Chip.enumReset (c : Chip) (b : Nat) : Chip :=
  let k := jobKey b 0
  let j := c.job k
  if j.step = 1 then
    let c := c.setJob k { j with speed := c.busSpeed b }
    c.beginStep k j.again
  else
    match (c.busSlots b).find? (fun sk => (c.slot sk).hub && (c.slot sk).route == 0) with
    | some sk =>
      let c := c.loseBehind b (fun r => r != 0) 0
      match c.freeAddr b with
      | some a => (c.setJob k
          { slot := some sk, speed := c.busSpeed b, mps0 := (c.slot sk).mps0, addr := BitVec.ofNat 7 a, redo := true }).beginStep k 3
      | none => c
    | none => c

/-- Parked devices that a test accepts are enumerated again (R267, R281). -/
def Chip.unpark (c : Chip) (p : Nat) (test : Parked → Bool) : Chip :=
  let (go, stay) := (c.port p).parked.partition (fun x => test x && c.enumOn x.bus
    && (x.route == 0 || (c.parentOf x.bus x.route.toNat).isSome)
    && (c.busSlots x.bus).all (fun k => (c.slot k).route != x.route))
  let c := c.updPort p (fun q => { q with parked := stay })
  go.foldl (fun c x => (if x.route = 0 then c else c.hubReq x.bus x.route.toNat 6).startEnum x.bus x.route.toNat x.speed) c

/-- A slot is free again, or a slot quota has grown: devices parked for it are tried again (R267). -/
def Chip.retryParked (c : Chip) : Chip :=
  (List.range 24).foldl (fun c p =>
    if (c.port p).parked.isEmpty then c else c.unpark p (fun x => x.reason == 4 || x.reason == 5)) c

/-- DISABLE_SLOT of a managed slot: the service resets the device's port and parks the device (R268). -/
def Chip.parkDisabled (c : Chip) (b route : Nat) (speed : BitVec 4) : Chip :=
  let c := c.updPort (busPort b) (fun p => { p with
    parked := p.parked ++ [{ bus := b, route := BitVec.ofNat 20 route, reason := 0, speed := speed }] })
  if route = 0 then c.beginReset b false else (c.hubReq b route 6).hubReq b route 7

/-- HUB_PORT_CHANGE (R271). -/
def Chip.hubPort (c : Chip) (sk port : Nat) (e : HubPortEvent) : Chip :=
  let s := c.slot sk
  let b := c.slotBus sk
  let route := routeUnder s.route.toNat port
  let at_ (r : Nat) : Bool := r == route || routeBehind route r
  if !s.hub || s.st == .disabled || s.leaving || port = 0 || decide (15 < port) || decide (5 ≤ routeLen s.route.toNat) then c
  else
    match e with
    | .disconnect => c.loseBehind b at_ 0
    | .overcurrent => ((c.loseBehind b at_ 3).svcReq sk 9 port).updSlot sk (fun s =>
        { s with offPorts := (port, false) :: s.offPorts.filter (fun x => x.1 != port) })
    | .connect speed =>
      let c := if s.offPorts.contains (port, true) then
          (c.updSlot sk (fun s => { s with offPorts := s.offPorts.filter (fun x => x.1 != port) })).svcReq sk 8 port else c
      if s.offPorts.contains (port, false) then c
      else if c.enumOn b && (c.job (jobKey b route)).step == 0 && (c.busSlots b).all (fun k => (c.slot k).route.toNat != route) then
        c.startEnum b route speed
      else c

/-- Devices whose enumeration or sharing no longer fits the connector's settings (R263): managed ones where the service is off now,
those that a driver enumerated where it is on, and those that are to join another group or none. -/
def Chip.changedDevices (c : Chip) (p : Nat) : List Nat :=
  (c.connSlots p).filter (fun sk =>
    let s := c.slot sk
    !s.busy && !s.leaving && (s.managed != c.enumOn (c.slotBus sk)
      || s.managed && !s.hub && (s.shared.isSome || allHid s.descs) && s.shared != c.shareOn (c.slotBus sk)))

/-- A device is given up with DETACH REASON 1, to be enumerated again under the settings in force: parked until its slot is free where
the service takes it, left to its driver otherwise (R263). DESIGN CHOICE, log entry 78. -/
def Chip.takeAnew (c : Chip) (p sk : Nat) : Chip :=
  let s := c.slot sk
  let b := c.slotBus sk
  let c := if c.enumOn b && (s.managed || s.route == 0) then c.updPort p (fun q => { q with
      parked := q.parked ++ [{ bus := b, route := s.route, reason := 5, speed := s.speed }] }) else c
  c.loseSlot sk 1 ccDevGone

/-- RESCAN of a connector (R263, R267, R281): the number of parked devices whose enumeration begins. Hub ports that over-current
switched off are powered at their next connect change (R271). -/
def Chip.rescan (c : Chip) (p : Nat) : Chip × Nat :=
  let before := (c.port p).parked.length
  let c := c.unpark p (fun _ => true)
  let k := before - (c.port p).parked.length
  let c := (c.connSlots p).foldl (fun c sk =>
    c.updSlot sk (fun s => { s with offPorts := s.offPorts.map (fun x => (x.1, true)) })) c
  let c := (c.changedDevices p).foldl (fun c sk => c.takeAnew p sk) c
  let c := c.enumLate p
  (if p < 8 then c.enumLate (24 + p) else c, k)

end Sys2Proof.Machine
end

