-- ==== Sys2Proof/Machine/Sharing.lean ====
section
/-! DEFINITION. Input sharing (R272 to R277): members' views, requests, reports, hot-keys and the switch of the focus. -/

namespace Sys2Proof.Machine

/-! ### Ownership -/

/-- An instance may name a slot (R90): its own, reported to it; a shared one that it has a view of (R274). -/
def Chip.owns (c : Chip) (n sk : Nat) : Bool :=
  let s := c.slot sk
  s.st != .disabled && !s.leaving && !s.hub && !s.busy
    && (match s.shared with
        | some g => (c.members g).contains n && !s.noView.contains n
        | none => if 128 ≤ n then s.far == some (farOf n) else s.far.isNone && s.owner.toNat == n)

def Chip.sharedBy (c : Chip) (sk : Nat) : Bool := (c.slot sk).shared.isSome

/-! ### Views -/

def Ep.view (e : Ep) (n : Nat) : View := Tbl.get {} e.views n
def Chip.updView (c : Chip) (key n : Nat) (f : View → View) : Chip :=
  c.updEp key (fun e => { e with views := Tbl.upd {} e.views n f })

/-- A record of the endpoint is held for a ring of the member (R76). -/
def Chip.viewHeld (c : Chip) (key n : Nat) : Bool := (c.inst n).crings.any (fun r => r.2.held.any (fun h => h.key == some key))

/-- The head TD of a member's ring ends on its view (R67, R74, R274). -/
def Chip.viewEnd (c : Chip) (key n : Nat) (x : TdEnd) : Chip :=
  let k := ((c.ep key).view n).ring
  let x := (c.ring n k).endAs x
  let c := c.updRing n k (fun r => { r with td := { r.td with ended := some x } })
  let c := c.updView key n (fun v =>
    if v.st = .running then { v with st := if halts false x.code then .halted else if x.stopShort then .stopped else .running } else v)
  (c.closeTdOn n key k).flushEp key

/-- The member's view takes up its next TD: refused ones and no-ops complete (R58, R59). -/
def Chip.viewTend (c : Chip) (key n : Nat) : Nat → Chip
  | 0 => c
  | f + 1 =>
    let v := (c.ep key).view n
    let c := ((c.closeTdOn n key v.ring).midStep key n v.ring).fetch n v.ring
    let r := c.ring n v.ring
    let ctrl := (c.ep key).ty == .control
    if r.live && r.td.memErr && r.td.ended.isNone then (c.viewEnd key n (r.endAt ccHostMem)).viewTend key n f
    else if v.ring = 0 || v.st != .running || !r.live || r.halted || !r.filed || r.td.ended.isSome || c.viewHeld key n then c
    else
      match r.fault ctrl with
      | some j => (c.viewEnd key n (r.endNth j ccParam)).viewTend key n f
      | none =>
        if allNoop (headTd r.elems) && tdWhole r.elems then
          (c.viewEnd key n (r.endNth ((headTd r.elems).length - 1) ccSuccess)).viewTend key n f
        else c

/-- A TD of the member is filed and can take data. -/
def Chip.viewFiled (c : Chip) (key n : Nat) : Bool :=
  let v := (c.ep key).view n
  let r := c.ring n v.ring
  v.ring != 0 && v.st == .running && (c.inst n).st == .active && r.live && !r.halted && r.filed && r.td.ended.isNone
    && !c.viewHeld key n && (r.fault ((c.ep key).ty == .control)).isNone

/-- A report goes to a member's filed TD (R156, R276); with none filed it is discarded. -/
def Chip.deliver (c : Chip) (key n : Nat) (bytes : List Byte) : Chip :=
  if !c.viewFiled key n then c
  else
    let v := (c.ep key).view n
    let r := c.ring n v.ring
    let left := (r.avail false).1 - r.td.moved
    let m := min bytes.length left
    let d := r.dataAt false
    let ps := cutAll (pieces d.2.1 d.1 d.2.2 m)
    let mf := (c.bus (c.slotBus (keySlot key))).mf
    let c := { c with out := (ps.map (fun (p : Addr × Nat) => Out.hostWrite n p.1 p.2)).reverse ++ c.out }
    let c := c.emit (.report n (keySlot key) (keyBit key) bytes)
    let c := c.updRing n v.ring (fun r =>
        { r with td := { r.td with begun := true, moved := r.td.moved + m, mf := some mf, last := lastDword r.td.last ps } })
    let c := (c.updEp key (fun e => { e with lastReport := bytes, lastTo := some n })).updView key n (fun v => { v with last := bytes })
    let r := c.ring n v.ring
    let c := if left < bytes.length then c.viewEnd key n (r.endAt ccBabble)
      else if (r.avail false).2 && decide ((r.avail false).1 ≤ r.td.moved) then
        c.viewEnd key n (r.endNth ((headTd r.elems).length - 1) ccSuccess)
      else if bytes.length < (c.ep key).maxPacket then c.viewEnd key n (r.endAt ccShort)
      else c
    c.viewTend key n 18

/-- The member's ring has new work: a release report that waits goes first (R277 step 3). -/
def Chip.viewStir (c : Chip) (key n : Nat) : Chip :=
  let c := c.viewTend key n 18
  match (c.ep key).release with
  | some (m, bytes) =>
    if m = n ∧ c.viewFiled key n = true then (c.updEp key (fun e => { e with release := none })).deliver key n bytes else c
  | none => c

/-- A member's view is stopped as STOP_EP does it (R105, R274): ended TDs that await confirmation become LATE, a begun TD
ends STOPPED. `true`: a TD was settled. -/
def Chip.viewStop (c : Chip) (key n : Nat) : Chip × Bool :=
  let v := (c.ep key).view n
  if v.st ≠ .running then (c, false)
  else
    let r := c.ring n v.ring
    let waits := (c.ep key).done.any (fun d => d.inst == n && natural d.code)
    let c := c.updEp key (fun e => { e with
      done := e.done.map (fun d => if d.inst = n ∧ natural d.code = true then { d with late := true } else d) })
    let begun := r.live && r.td.begun && r.td.ended.isNone
    let c := if begun then c.viewEnd key n (r.endStop ((c.ep key).ty == .control)) else c
    (c.updView key n (fun v => { v with st := .stopped, epoch := v.epoch + 1 }), waits || begun)

/-! ### Groups -/

def Chip.updShare (c : Chip) (g : Nat) (f : Share → Share) : Chip := { c with shares := Tbl.upd {} c.shares g f }

/-- Slots of a group (R272 DEVICES). -/
def Chip.groupSlots (c : Chip) (g : Nat) : List Nat :=
  (c.slots.filter (fun s => s.2.st != .disabled && s.2.shared == some g)).map (fun s => s.1)

/-- Interrupt IN endpoints that a group shares. -/
def Chip.groupEps (c : Chip) (g : Nat) : List Nat :=
  (c.groupSlots g).flatMap (fun sk => (c.slotEps sk).filter (fun k => keyIn k && (c.ep k).service))

def Chip.focusInst (c : Chip) (g : Nat) : Option Nat := c.memberAt g (c.share g).focus

/-- The next VALID member after an index, wrapping (R277). -/
def Chip.nextMember (c : Chip) (g i : Nat) : Option Nat :=
  ((List.range 8).map (fun j => (i + 1 + j) % 8)).find? (fun j => (c.memberAt g j).isSome)

def shareMember (n sk : Nat) : Nat := 128 * sk + n
def Chip.memberVals (c : Chip) (g n sk : Nat) : Member := Tbl.get {} (c.share g).members (shareMember n sk)
def Chip.updMember (c : Chip) (g n sk : Nat) (f : Member → Member) : Chip :=
  c.updShare g (fun s => { s with members := Tbl.upd {} s.members (shareMember n sk) f })

/-- The bytes of a report that the switch tests (R277 step 3), and the release report. -/
def Ep.tested (e : Ep) (r : List Byte) : List Byte := if e.reportId then r.drop 1 else r
def Ep.releaseOf (e : Ep) (r : List Byte) : List Byte :=
  (if e.reportId then r.take 1 else []) ++ (e.tested r).map (fun _ => 0)

/-- The old focus is left with no key held down (R277 step 3). -/
def Chip.release (c : Chip) (old key : Nat) : Chip :=
  let e := c.ep key
  if e.lastTo = some old ∧ (e.tested e.lastReport).any (fun b => b != 0) = true ∧ (c.inst old).st = .active then
    let bytes := e.releaseOf e.lastReport
    if c.viewFiled key old then c.deliver key old bytes else c.updEp key (fun e => { e with release := some (old, bytes) })
  else c

/-- The new focus's stored values go to a device (R277 step 5). -/
def Chip.replay (c : Chip) (g n sk : Nat) : Chip :=
  let m := c.memberVals g n sk
  let c := match m.protocol with | some v => c.svcReq sk 11 v.toNat | none => c
  let c := match m.idle with | some v => c.svcReq sk 12 v.toNat | none => c
  m.reports.foldl (fun c r => c.svcReq sk 13 (leNat r.2)) c

/-- The switch point (R277): release reports, FOCUS and SWITCHES, the stored values, and the withholding after a
hot-key. -/
def Chip.switchFocus (c : Chip) (g m : Nat) (hot : Bool) : Chip :=
  let c := match c.focusInst g with
    | some old => (c.groupEps g).foldl (fun (c : Chip) k => c.release old k) c
    | none => c
  let c := c.updShare g (fun s => { s with focus := m, switches := s.switches + 1, withhold := hot })
  match c.memberAt g m with
  | some n => (c.groupSlots g).foldl (fun c sk => c.replay g n sk) c
  | none => c

/-! ### Reports -/

def shareMods (s : Share) : Byte := s.ctl.extractLsb' 8 8
def shareKey (s : Share) : Byte := s.ctl.extractLsb' 16 8

/-- Modifier byte and usages of a keyboard report in the boot layout, after the report ID. -/
def Ep.modsOf (e : Ep) (r : List Byte) : Byte := (e.tested r).headD 0
def Ep.keysOf (e : Ep) (r : List Byte) : List Byte := ((e.tested r).drop 2).filter (fun b => b != 0)

/-- The member that a hot-key report selects (R277). -/
def Chip.hotKey (c : Chip) (g key : Nat) (r : List Byte) : Option Nat :=
  let s := c.share g
  let e := c.ep key
  let fresh (u : Byte) : Bool := (e.keysOf r).contains u && !e.keysDown.contains u
  if bitAt s.ctl 4 && e.keyboard && (e.modsOf r &&& shareMods s) == shareMods s then
    if fresh (shareKey s) then c.nextMember g s.focus
    else (List.range 8).find? (fun m => fresh (BitVec.ofNat 8 (0x1E + m)) && (c.memberAt g m).isSome)
  else none

/-- The service examines a report (R276, R277). -/
def Chip.examine (c : Chip) (key : Nat) (r : List Byte) : Chip :=
  let c := (c.updEp key (fun e => { e with unread := e.unread - 1 })).freeCells key
  match (c.slot (keySlot key)).shared with
  | none => c
  | some g =>
    let hot := c.hotKey g key r
    let e := c.ep key
    let c := if e.keyboard then c.updEp key (fun e => { e with keysDown := e.keysOf r }) else c
    match hot with
    | some m => c.switchFocus g m true
    | none =>
      let s := c.share g
      let clean := e.keyboard && !(e.keysOf r).contains (shareKey s) && (e.modsOf r &&& shareMods s) == 0
      if s.withhold && !clean then c
      else
        let c := c.updShare g (fun s => { s with withhold := false })
        match c.focusInst g with
        | some n => c.deliver key n r
        | none => c

/-- Forwarding pauses from step c to step e of a live swap (R283). -/
def Chip.sharePause (c : Chip) : Bool := c.fw.phase == .swapDrain

/-- SHARED_HID_REPORT (R276): a report of a shared IN endpoint. -/
def Chip.hidReport (c : Chip) (key : Nat) (r : List Byte) : Chip :=
  if !(c.sharedBy (keySlot key) && keyIn key && (c.ep key).service) then c
  else if c.sharePause then { c with shareWait := c.shareWait ++ [.report key r] }
  else (c.examine key r).kick (c.slotBus (keySlot key))

/-- A write of FOCUS (R277): it switches to a VALID member other than the one in force. -/
def Chip.focusWrite (c : Chip) (g m : Nat) : Chip :=
  if c.sharePause then { c with shareWait := c.shareWait ++ [.focus g m] }
  else if (c.share g).focus = m ∨ (c.memberAt g m).isNone = true then c
  else c.switchFocus g m false

/-- What waited in the pause takes effect in order (R283). -/
def Chip.shareResume (c : Chip) : Chip :=
  let ws := c.shareWait
  ws.foldl (fun c w => match w with
    | .report key r => c.examine key r
    | .focus g m => c.focusWrite g m) { c with shareWait := [] }

/-! ### Leaving a group -/

/-- A member loses its view of a slot: its rings there are destroyed (R274). -/
def Chip.dropView (c : Chip) (sk n : Nat) : Chip :=
  (c.slotEps sk).foldl (fun c k =>
    let v := (c.ep k).view n
    if v.ring = 0 then c else (c.viewStop k n).1.dropRing n v.ring) c

/-- A device leaves its group (R273): DETACH to the members, ATTACH to the connector's owner. -/
def Chip.leaveGroup (c : Chip) (sk : Nat) : Chip :=
  let ns := c.viewers sk
  let c := ns.foldl (fun c n => (c.dropView sk n).detachEvent n sk 1) c
  let c := (c.slotEps sk).foldl (fun c k =>
    if keyBit k = 0 then c.updEp k (fun e => { e.bumpWhenQuiet c.us with st := .stopped, service := false, views := [] })
    else c.clearEp k true) c
  (c.updSlot sk (fun s => { s with shared := none, noView := [] })).attachAll sk

def Chip.dissolve (c : Chip) (g : Nat) : Chip := (c.groupSlots g).foldl (fun c sk => c.leaveGroup sk) c

/-- SHARE_CTLg is written (R272, R273, R277). Without firmware the registers are written and no service acts on them (R261). -/
def Chip.shareCtl (c : Chip) (g : Nat) (val : Word) : Chip :=
  let s := c.share g
  let c := c.updShare g (fun s => { s with ctl := BitVec.ofNat 24 (val.toNat &&& 0xFFFF1F) })
  if !c.boot.fwRunning then c
  else
  let c := if bitAt s.ctl 0 && !bitAt val 0 then c.dissolve g else c
  c.focusWrite g (fld val 3 1)

/-- SHARE_MEM0g or SHARE_MEM1g is written: a member that is no longer VALID loses its views, the focus moves on, and a
group without members is dissolved (R273, R277). -/
def Chip.shareMem (c : Chip) (g : Nat) (hi : Bool) (val : Word) : Chip :=
  let old := c.members g
  let had := c.focusInst g
  let c' := c.updShare g (fun s => if hi then { s with mem1 := val } else { s with mem0 := val })
  let new := c'.members g
  let gone := old.filter (fun n => !new.contains n)
  if !c.boot.fwRunning then c'
  else if new.isEmpty && !old.isEmpty then
    c'.updShare g (fun s => if hi then { s with mem1 := (c.share g).mem1 } else { s with mem0 := (c.share g).mem0 })
      |>.dissolve g |>.updShare g (fun s => if hi then { s with mem1 := val } else { s with mem0 := val })
  else
    let c := (c'.groupSlots g).foldl (fun c sk => gone.foldl (fun c n =>
      (c.dropView sk n).detachEvent n sk 1) c) c'
    let c := (c.groupSlots g).foldl (fun c sk => (new.filter (fun n => !old.contains n)).foldl (fun c n => c.attachTo n sk) c) c
    match had, c.focusInst g with
    | some _, none =>
      match c.nextMember g (c.share g).focus with
      | some m => c.switchFocus g m false
      | none => c
    | _, _ => c

/-! ### Requests of members -/

/-- The interface, by the place of its HID descriptor, that an interface number, or an endpoint of the device, belongs to. -/
def Slot.ifaceNo (s : Slot) (num : Nat) : Nat :=
    ((s.descs.filter (fun d => leAt d 1 1 == 4 && leAt d 3 1 == 0)).findIdx (fun d => leAt d 2 1 == num))
def Slot.ifaceOf (s : Slot) (bit : Nat) : Nat := ((intEps s.descs).find? (fun e => e.bit == bit)).elim 0 IntEp.iface

/-- Where a member's output report is kept (R275, R277): its interface, and its ID where the report descriptor declares them. -/
def Slot.reportKey (s : Slot) (iface : Nat) (bytes : List Byte) : Nat :=
  let d := s.repDescs.getD iface []
  256 * iface + (if hasReportId d.length d then (bytes.headD 0).toNat else 0)

/-- The member's stored values after a request (R275), with the interface it names. -/
def Member.store (m : Member) (s : Slot) (iface : Nat) (r : ShareReq) : Member :=
  match r with
  | .setReport b | .outReport b => { m with reports := Tbl.set [] m.reports (s.reportKey iface b) b }
  | .setIdle v => { m with idle := some v }
  | .setProtocol v => { m with protocol := some v }
  | .remoteWake on => { m with wake := on }
  | _ => m

/-- Requests that the service sends on to the device (R275). -/
def reqForwarded (r : ShareReq) (focus : Bool) : Bool :=
  match r with
  | .getString => true
  | .setReport _ | .setIdle _ | .setProtocol _ | .getReport | .getIdle | .getProtocol | .outReport _ => focus
  | _ => false

def Chip.groupWake (c : Chip) (g sk : Nat) : Bool := (c.share g).members.any (fun m => m.1 / 128 == sk && m.2.wake)

/-- A stored value of a member, free while it has stored none (R275 gives none). DESIGN CHOICE, log entry 80. -/
def Chip.storedByte (c : Chip) (v : Option Byte) : Byte := v.getD ((Config.freeWord c.free).setWidth 8)

/-- The bytes that the service answers from its cache and from the member's stored values (R275). -/
def Chip.answerBytes (c : Chip) (g n sk : Nat) (r : ShareReq) (setup : BitVec 64) : List Byte :=
  let s := c.slot sk
  let m := c.memberVals g n sk
  let iface := s.ifaceNo (fld setup 39 32)
  let kind := fld setup 31 24
  let want := fld setup 63 48
  match r with
  | .getDescriptor =>
    if kind = 1 then s.devDesc
    else if kind = 2 then s.cfgDesc
    else if kind = 0x21 then (hidDescs s.descs false).getD iface []
    else if kind = 0x22 then s.repDescs.getD iface []
    else []
  | .getState =>
    if fld setup 15 8 = 8 then [1]
    else if fld setup 15 8 = 10 then [0]
    else if fld setup 4 0 = 2 then
      [if ((c.ep (epKey sk (fld setup 35 32 + 16 * fld setup 39 39))).view n).st = .halted then 1 else 0, 0]
    else if fld setup 4 0 = 0 then
      [BitVec.ofNat 8 (flagAt (bitAt (BitVec.ofNat 8 (leAt s.cfgDesc 7 1)) 6) 0 + flagAt (c.groupWake g sk) 1), 0]
    else [0, 0]
  | .getReport =>
    let last := (c.groupEps g).findSome? (fun k =>
      let v := (c.ep k).view n
      if keySlot k = sk ∧ s.ifaceOf (keyBit k) = iface ∧ v.last ≠ [] then some v.last else none)
    last.getD (List.replicate want 0)
  | .getIdle => [c.storedByte m.idle]
  | .getProtocol => [c.storedByte m.protocol]
  | _ => []

/-- The member's control TD ends STALL (R275), or after the three strikes of a request that was sent on (R170). -/
def Chip.refuseReq (c : Chip) (n key : Nat) (code : Byte) : Chip :=
  let k := ((c.ep key).view n).ring
  let c := c.updRing n k (fun t => { t with td := { t.td with begun := true, stage := .data, moved := 8 } })
  c.viewEnd key n ((c.ring n k).endCtrl code)

/-- The member's control TD completes, an IN one with these bytes, up to its wLength (R275). -/
def Chip.answerWith (c : Chip) (n sk : Nat) (bytes : List Byte) : Chip :=
  let key := epKey sk 0
  let k := ((c.ep key).view n).ring
  let t := c.ring n k
  let want := t.ctrlLen
  let m := if t.ctrlIn then min want bytes.length else want
  let d := ((headTd t.elems).drop 1).take 1
  let ps := cutAll (pieces 8 d 8 m)
  let c := { c with out := (ps.map (fun (p : Addr × Nat) => if t.ctrlIn then Out.hostWrite n p.1 p.2
      else Out.hostRead n p.1 p.2)).reverse ++ c.out }
  let c := if t.ctrlIn && decide (0 < m) then c.emit (.answer n sk (bytes.take m)) else c
  let c := c.updRing n k (fun t => { t with td := { t.td with
    begun := true, stage := .done, moved := 8 + m, last := lastDword t.td.last ps
    short := decide (m < want), shortOk := (t.elems.getD 1 {}).shortOk } })
  (c.viewEnd key n ((c.ring n k).endCtrl (if m < want then ccShort else ccSuccess))).viewTend key n 18

/-- The member's control TD completes: from the service with no bus traffic, or as the device ends the request that was sent on
(R275). -/
def Chip.answerReq (c : Chip) (g n sk : Nat) (r : ShareReq) (focus : Bool) (dev : DevEnd) : Chip :=
  let key := epKey sk 0
  if !c.viewFiled key n then c
  else if r = .other then c.refuseReq n key ccStall
  else if reqForwarded r focus then
    match dev with
    | .ok bytes => c.answerWith n sk bytes
    | .stall => c.refuseReq n key ccStall
    | .error => c.refuseReq n key ccXactErr
  else
    let bytes := c.answerBytes g n sk r (c.ring n ((c.ep key).view n).ring).setup
    let c := if r = .getIdle ∨ r = .getProtocol then { c with free := c.free + 1 } else c
    c.answerWith n sk bytes

/-- The interrupt OUT endpoint on which a member's TD waits. -/
def Chip.outEp (c : Chip) (n sk : Nat) : Option Nat :=
  (c.slotEps sk).find? (fun k => !keyIn k && keyBit k != 0 && c.viewFiled k n)

/-- The member's interrupt OUT TD completes: at once, or as the device ends it (R275). -/
def Chip.answerOut (c : Chip) (n sk : Nat) (focus : Bool) (dev : DevEnd) : Chip :=
  match c.outEp n sk with
  | some key =>
    let k := ((c.ep key).view n).ring
    let sent (c : Chip) : Chip := c.updRing n k (fun t => { t with td := { t.td with begun := true, moved := (t.avail false).1 } })
    let t := c.ring n k
    match (if focus then dev else .ok []) with
    | .ok _ => ((sent c).viewEnd key n (t.endNth ((headTd t.elems).length - 1) ccSuccess)).viewTend key n 18
    | .stall => c.viewEnd key n (t.endAt ccStall)
    | .error => c.viewEnd key n (t.endAt ccXactErr)
  | none => c

/-- The interface that a member's request names: wIndex of the SETUP, or the endpoint of its OUT TD. -/
def Chip.reqIface (c : Chip) (n sk : Nat) (r : ShareReq) : Nat :=
  match r with
  | .outReport _ => (c.outEp n sk).elim 0 (fun k => (c.slot sk).ifaceOf (keyBit k))
  | _ => (c.slot sk).ifaceNo (fld (c.ring n ((c.ep (epKey sk 0)).view n).ring).setup 39 32)

/-- What the device returned for a request that was sent on. -/
def devLen (d : DevEnd) : Nat :=
  match d with
  | .ok bs => bs.length
  | _ => 0

/-- SHARED_EP0_REQUEST (R275): `dev` is how the device ends a request that is sent on to it; that transfer is charged as R262 says. -/
def Chip.shareReq (c : Chip) (n sk : Nat) (r : ShareReq) (dev : DevEnd) : Chip :=
  match (c.slot sk).shared with
  | none => c
  | some g =>
    if !c.owns n sk then c
    else
      let focus := c.focusInst g == some n
      let woke := c.groupWake g sk
      let iface := c.reqIface n sk r
      let s := c.slot sk
      let c := c.updMember g n sk (fun m => m.store s iface r)
      let c := if c.groupWake g sk != woke then c.svcReq sk 15 (if woke then 0 else 1) else c
      let c := if reqForwarded r focus then (c.svcReq sk 14 0).svcCharge (c.slotBus sk) s.mps0.toNat (devLen dev) else c
      match r with
      | .outReport _ => c.answerOut n sk focus dev
      | .clearHalt b => (c.answerReq g n sk r focus dev).updView (epKey sk b.val) n (fun (v : View) =>
          { v with st := if v.st = EpSt.halted then EpSt.stopped else v.st })
      | r => c.answerReq g n sk r focus dev

end Sys2Proof.Machine
end

