-- ==== Sys2Proof/Machine/Services.lean ====
section
/-! DEFINITION. Port power and BC 1.2 before and under the charging policy (R33, R113, R218, R223, R278, R279), SVC_PORTn
(R263), and the mailbox (R280 to R282). -/

namespace Sys2Proof.Machine

/-! ### The charging policy -/

def dcp : BitVec 2 := 2

def Port.charge (p : Port) : Nat := fld p.svc 3 1
def Port.autoOn (p : Port) : Bool := bitAt p.svc 4
def Port.sleepCharge (p : Port) : Bool := bitAt p.svc 5

/-- A live swap runs: modes and power do not change (R283). -/
def Chip.swapping (c : Chip) : Bool :=
  c.fw.phase == .swapCopy || c.fw.phase == .swapStart || c.fw.phase == .swapDrain

/-- FOLLOW (R278), and the modes of R33: CDP while the owner's link is in L0 or L1, or the hub that holds the connector is
configured; SDP otherwise. A node tells of the link of its instances that own connectors elsewhere. -/
def Chip.follow (c : Chip) (p : Nat) : BitVec 2 :=
  let q := c.port p
  let on :=
    if q.pass then c.pass.usb2.configured
    else
      match c.ownerOf p with
      | none => false
      | some n => if n < 128 then c.linkUp n else (c.inst n).farUp
  if on then 1 else 0

/-- The mode a powered connector is to have (R33, R278). -/
def Chip.wantMode (c : Chip) (p : Nat) : BitVec 2 :=
  let q := c.port p
  match c.boot.mode with
  | .service =>
    if q.charge = 1 then 1
    else if q.charge = 2 then 0
    else if q.charge = 3 then dcp
    else if q.charge = 4 ∧ q.ownerOff = true then dcp
    else c.follow p
  | .sandlotHc | .sandlotPass => c.follow p
  | _ => 0

/-- PPE of a connector goes high, with its BC 1.2 mode (R207, R223). -/
def Chip.powerOn (c : Chip) (p : Nat) : Chip :=
  let m := c.wantMode p
  (c.ppeHigh p).updPort p (fun q => { q with bc := m, chargeOnly := m == dcp, cycle := none })

/-- PPE goes low for a change that involves DCP; the mode to come is set when it goes high again (R223). -/
def Chip.startCycle (c : Chip) (p : Nat) : Chip :=
  let m := c.wantMode p
  (c.ppeLow p 4).updPort p (fun q => { q with cycle := some m })

/-- The policy looks at a connector (R278): the mode of a powered one, and the power that CHARGE 3 and 4 keep. -/
def Chip.applyCharge (c : Chip) (p : Nat) : Chip :=
  let q := c.port p
  let want := c.wantMode p
  let service := c.boot.mode == .service
  if c.swapping then c
  else if q.cycle.isSome then c.updPort p (fun q => { q with cycle := some want })
  else if !q.powered then
    if service && q.charge == 3 && !q.oc && !q.noAuto then c.powerOn p else c
  else if service && q.charge != 4 && q.charge != 3 && q.ownerOff && q.chargeOnly then c.ppeLow p 4
  else if q.bc = want then c
  else if q.bc = dcp ∨ want = dcp then c.startCycle p
  else c.updPort p (fun q => { q with bc := want })

def Chip.chargeAll (c : Chip) : Chip := forUpTo 24 (fun p c => c.applyCharge p) c

/-- AUTO_ON at one of its moments (R279). -/
def Chip.autoPower (c : Chip) (p : Nat) : Chip :=
  let q := c.port p
  if c.boot.mode == .service && q.autoOn && !q.pass && !q.noAuto && !q.ownerOff && !q.oc && !q.powered && q.cycle.isNone then
    c.powerOn p
  else c

/-- The charging policy takes charge (R33, R279). -/
def Chip.chargeStart (c : Chip) : Chip := forUpTo 24 (fun p c => c.autoPower p) c.chargeAll

/-- The 500 ms of a DCP power cycle have passed (R223). -/
def Chip.cycleEnd (c : Chip) (p : Nat) : Chip :=
  let q := c.port p
  if q.cycle.isNone then c
  else if q.oc then c.updPort p (fun q => { q with cycle := none })
  else c.powerOn p

/-- Connectors in DCP without SLEEP_CHARGE are switched off before the scrum for RETAIN or DORMANT (R279). -/
def Chip.sleepCharging (c : Chip) : Chip :=
  forUpTo 24 (fun p c =>
    if (c.port p).powered && (c.port p).bc == dcp && !(c.port p).sleepCharge then c.startCycle p else c) c

/-- They are powered again at exit (R279). -/
def Chip.wakeCharging (c : Chip) : Chip := forUpTo 24 (fun p c => c.cycleEnd p) c

/-! ### PORT_POWER -/

/-- Connectors whose data-line short is held in RETAIN and DORMANT (R279). -/
def Chip.dcpShorts (c : Chip) : BitVec 24 :=
  BitVec.ofNat 24 (portMask ((List.range 24).filter (fun p => (c.port p).powered && (c.port p).bc == dcp)))

/-- RESULT of PORT_POWER (R113): POWERED counts a connector whose DCP power cycle is under way. -/
def Port.powerResult (q : Port) : Nat := flagAt (q.powered || q.cycle.isSome) 0 + flagAt q.oc 1

/-- The charge policy of a connector in force: none before firmware. -/
def Chip.policy (c : Chip) (p : Nat) : Nat := if c.boot.mode == .service then (c.port p).charge else 0

/-- The owner switches a connector on (R113, R218, R278). -/
def Chip.ownerOn (c : Chip) (p : Nat) : Chip :=
  let q := c.port p
  if q.oc then c
  else
    let c := c.updPort p (fun q => { q with noAuto := false, ownerOff := false })
    if c.policy p = 3 then c.applyCharge p
    else if q.powered || q.cycle.isSome then c.applyCharge p
    else c.powerOn p

/-- The owner switches a connector off (R113, R278): CHARGE 3 keeps it, CHARGE 4 leaves it on for charging only. -/
def Chip.ownerOffs (c : Chip) (p : Nat) : Chip :=
  if c.policy p = 3 then c
  else
    let c := c.updPort p (fun q => { q with ownerOff := true })
    if c.policy p = 4 then c.applyCharge p
    else
      let c := c.updPort p (fun q => { q with cycle := none })
      if (c.port p).powered then c.ppeLow p 4 else c

/-! ### SVC_PORTn -/

/-- SVC_PORT_WRITE (R263, R283). -/
def Chip.svcPort (c : Chip) (p : Nat) (val : Word) : Chip :=
  if 5 ≤ fld val 3 1 then c
  else (c.updPort p (fun q => { q with svc := BitVec.ofNat 10 val.toNat })).applyCharge p

/-! ### Names of ports -/

/-- The local bus that a SUBJECT names (R73, R89). -/
def Chip.localBus (c : Chip) (s : BitVec 16) : Option Nat :=
  if fld s 15 12 = 0 ∧ fld s 11 8 = c.nodeNo then codeBus (fld s 7 0) else none

/-- A port that an instance of this node owns (R90). -/
def Chip.ownsBus (c : Chip) (n b : Nat) : Bool := !(c.port (busPort b)).pass && c.ownerOf (busPort b) == some n

/-- A local bus that the instance owns, by its SUBJECT. -/
def Chip.ownedBus (c : Chip) (n : Nat) (s : BitVec 16) : Option Nat :=
  match c.localBus s with
  | some b => if c.ownsBus n b then some b else none
  | none => none

/-! ### The mailbox -/

/-- The instance's page is there to be written (R235, R236). -/
def Inst.pageOn (x : Inst) : Bool := x.st == .active || x.st == .frozen || x.st == .resetting

def Chip.updMbox (c : Chip) (n : Nat) (f : Mbox → Mbox) : Chip := c.updInst n (fun x => { x with mbox := f x.mbox })

/-- The words of a response (R280): OPCODE, the count of valid bytes, and the bytes from byte 4. -/
def mboxWords (op : Byte) (bytes : List Byte) : Tbl Word :=
  let bs := [op, BitVec.ofNat 8 bytes.length, 0, 0] ++ bytes
  (List.range 16).foldl (fun t k => Tbl.set 0 t k (toWord (leAt bs (4 * k) 4))) []

/-- The request completes: DONE, and MSI-X entry 0 where IE is set (R280); a far instance's answer leaves in REPLY. -/
def Chip.mboxDone (c : Chip) (n : Nat) (code : Byte) (rsp : Option (Tbl Word)) : Chip :=
  let c := c.updMbox n (fun m => { m with code := code, busy := false, done := true, rsp := rsp.getD m.rsp })
  if 128 ≤ n then c.sendFrame (instNode n) 0x05 ((Tbl.get 0 (c.inst n).mbox.req 2).toNat + 2 ^ 16 * code.toNat)
  else if (c.inst n).mbox.ie && !(c.inst n).deaf then c.onInst n (fun w => w.msix n 0) else c

def Chip.mboxOk (c : Chip) (n : Nat) (op : Byte) (bytes : List Byte) : Chip :=
  c.mboxDone n ccSuccess (some (mboxWords op bytes))
def Chip.mboxBad (c : Chip) (n : Nat) : Chip := c.mboxDone n ccParam none

/-- An argument of the request. -/
def Chip.mboxArg (c : Chip) (n k : Nat) : Word := Tbl.get 0 (c.inst n).mbox.req k

/-- Marks a mailbox request among the commands that await a REPLY. -/
def mboxRef (op : Byte) : Nat := 2 ^ 64 + op.toNat

/-- A request about a far object goes to the home node, and its answer comes with REPLY (R282, R345, R360). -/
def Chip.mboxFar (c : Chip) (n node : Nat) (op : Byte) : Chip :=
  let tag := c.ids % 65536
  let c := { c with ids := c.ids + 1, fab :=
      { c.fab with proxies := Tbl.set (0, 0) c.fab.proxies (tag + 65536 * node) (n, mboxRef op) } }
  c.sendFrame node 0x04 tag

/-- A port of another node that an instance of this node owns, by the host node's copy of its view (R89, R206). -/
def Chip.ownsView (c : Chip) (n s : Nat) : Bool :=
  decide (n < 128) && s / 256 != c.nodeNo && bitAt (Tbl.get 0 (c.inst n).portViews s) 12

/-- The answer of a far request, with the words of its response. -/
def Chip.mboxReply (c : Chip) (n : Nat) (code : Byte) (data : List Byte) : Chip :=
  if !(c.inst n).mbox.busy then c
  else if code = ccSuccess then
    c.mboxDone n ccSuccess (some ((List.range 16).foldl (fun t k => Tbl.set 0 t k (toWord (leAt data (4 * k) 4))) []))
  else c.mboxDone n code none

/-- Starts a request (R280, R282): a write while BUSY is ignored; without firmware, and from a COMPAT instance, it completes
PARAM_ERR; for a suspended role it completes ABORTED (R406). -/
def Chip.mboxStart (c : Chip) (n : Nat) (op : Nat) (act : Chip → Chip) : Chip :=
  let x := c.inst n
  if !x.pageOn then c
  else if x.mbox.busy then c.updMbox n (fun m => { m with overrun := true })
  else
    let c := c.updMbox n (fun m => { m with busy := true, done := false })
    if !c.boot.fwRunning || x.compat then c.mboxBad n
    else if c.roleDown (64 + op) then c.mboxDone n ccAborted none
    else
      let d := c.dispatch (64 + op)
      act (d.2.updMbox n (fun m => { m with holder := d.1 }))

/-- A request that names an owned slot. -/
def Chip.mboxSlot (c : Chip) (n : Nat) (op : Byte) (act : Chip → Nat → Chip) : Chip :=
  c.mboxStart n op.toNat (fun c =>
    let sk := c.slotKey (fld (c.mboxArg n 0) 11 0)
    if !c.owns n sk then c.mboxBad n
    else if farKey sk then c.mboxFar n (sk / 256 - 1) op
    else act c sk)

/-- DEV_DESC (R281). A slot that a driver enumerated has no cached descriptors. -/
def Chip.mboxDevDesc (c : Chip) (n : Nat) : Chip :=
  c.mboxSlot n 0x01 (fun c sk =>
    if (c.slot sk).devDesc = [] then c.mboxBad n else c.mboxOk n 0x01 (c.slot sk).devDesc)

/-- CFG_DESC (R281). -/
def Chip.mboxCfgDesc (c : Chip) (n : Nat) : Chip :=
  c.mboxSlot n 0x02 (fun c sk =>
    let s := c.slot sk
    let total := leAt s.cfgDesc 2 2
    let off := fld (c.mboxArg n 1) 11 0
    if min total 4096 ≤ off then c.mboxBad n
    else c.mboxOk n 0x02 (leBytes 2 total ++ [0, 0] ++ (s.cfgDesc.drop off).take 56))

/-- The hub slot directly above a slot (R281). -/
def Chip.parentSlot (c : Chip) (sk : Nat) : Option Nat :=
  let r := (c.slot sk).route.toNat
  (c.busSlots (c.slotBus sk)).find? (fun k =>
    let h := (c.slot k).route.toNat
    routeBehind h r && routeLen h + 1 == routeLen r)

/-- TOPOLOGY (R281). -/
def Chip.mboxTopology (c : Chip) (n : Nat) : Chip :=
  c.mboxSlot n 0x03 (fun c sk =>
    let s := c.slot sk
    let parent := if s.route = 0 then 0xFFFF else ((c.parentSlot sk).map c.slotName).getD 0xFFFF
    let parked := (c.port (busPort (c.slotBus sk))).parked.any (fun x =>
      x.bus == c.slotBus sk && routeBehind s.route.toNat x.route.toNat)
    c.mboxOk n 0x03 (leBytes 2 s.root.toNat ++ leBytes 3 s.route.toNat ++ leBytes 1 s.speed.toNat ++ leBytes 2 parent
      ++ leBytes 1 (flagAt s.mtt 0 + 2 * s.ttThink.toNat) ++ leBytes 1 s.ttPort.toNat ++ leBytes 2 s.ttSlot.toNat
      ++ leBytes 1 (flagAt s.shared.isSome 0 + flagAt parked 1)))

/-- A request that names an owned port or connector. -/
def Chip.mboxPort (c : Chip) (n : Nat) (op : Byte) (act : Chip → Nat → Chip) : Chip :=
  c.mboxStart n op.toNat (fun c =>
    let s := fld (c.mboxArg n 0) 15 0
    match c.ownedBus n (BitVec.ofNat 16 s) with
    | some b => act c b
    | none => if c.ownsView n s then c.mboxFar n (s / 256) op else c.mboxBad n)

/-- RESCAN (R281). -/
def Chip.mboxRescan (c : Chip) (n : Nat) : Chip :=
  c.mboxPort n 4 (fun c b =>
    let x := c.rescan (busPort b)
    x.1.mboxOk n 0x04 (leBytes 1 x.2))

def EnumFail.bytes (e : EnumFail) : List Byte :=
  leBytes 2 e.root.toNat ++ leBytes 3 e.route.toNat ++ [e.reason, e.attempts, 0]

/-- ENUM_FAIL (R281): the seven oldest entries, which are removed. -/
def Chip.mboxEnumFail (c : Chip) (n : Nat) : Chip :=
  c.mboxStart n 5 (fun c =>
    let es := (c.inst n).enumFails.take 7
    let c := c.updInst n (fun x => { x with enumFails := x.enumFails.drop 7 })
    c.mboxOk n 0x05 (leBytes 4 es.length ++ es.flatMap EnumFail.bytes))

/-- SHARE_INFO (R281). -/
def Chip.mboxShareInfo (c : Chip) (n : Nat) : Chip :=
  c.mboxSlot n 0x06 (fun c sk =>
    match (c.slot sk).shared with
    | none => c.mboxBad n
    | some g =>
      let i := ((c.memberIdx g).find? (fun i => c.memberAt g i == some n)).getD 0
      c.mboxOk n 0x06 ([BitVec.ofNat 8 g, BitVec.ofNat 8 i, if c.focusInst g = some n then 1 else 0, 0]
        ++ leBytes 2 (c.share g).switches.toNat))

/-- CHARGE_INFO (R281). -/
def Chip.mboxChargeInfo (c : Chip) (n : Nat) : Chip :=
  c.mboxPort n 7 (fun c b =>
    let q := c.port (busPort b)
    c.mboxOk n 0x07 (leBytes 1 q.charge ++ leBytes 1 q.bc.toNat
      ++ leBytes 1 (flagAt q.chargeOnly 0 + flagAt q.autoOn 1 + flagAt q.sleepCharge 2)))

/-- Every other opcode completes PARAM_ERR (R281). -/
def Chip.mboxReserved (c : Chip) (n op : Nat) : Chip := c.mboxStart n op (fun c => c.mboxBad n)

/-- A write of MBOX_CMD (R280). -/
def Chip.mboxCmd (c : Chip) (n : Nat) (op : Nat) : Chip :=
  if op = 1 then c.mboxDevDesc n
  else if op = 2 then c.mboxCfgDesc n
  else if op = 3 then c.mboxTopology n
  else if op = 4 then c.mboxRescan n
  else if op = 5 then c.mboxEnumFail n
  else if op = 6 then c.mboxShareInfo n
  else if op = 7 then c.mboxChargeInfo n
  else c.mboxReserved n op

end Sys2Proof.Machine
end

