-- ==== Sys2Proof/Machine/PortEvents.lean ====
section
/-! DEFINITION. What happens on the root ports and the SuperSpeed companions (R207 to R217), and over-current
(R221, R222). Each meaning leaves a port unchanged in a state for which the table of R207 or R211 lists no event. -/

namespace Sys2Proof.Machine

/-- RETAIN, DORMANT, and the way out of them up to LOGIC_RDY. -/
def Chip.asleep (c : Chip) : Bool :=
  match c.pwr.st with
  | .retain | .dormant | .exiting _ => true
  | _ => false

/-! ### USB 2.0 ports: attach -/

/-- PORT_POWER_ON_WAIT_END (R207, R211). -/
def Chip.powerWaitEnd (c : Chip) (p : Nat) : Chip :=
  let c := if (c.port p).st = pPowering then c.updPort p (fun q => { q with st := pDisconnected }) else c
  if p < 8 ∧ (c.ssp p).st = sPowering then c.updSsp p (fun q => { q with st := sRxDetect }) else c

/-- While the port logic sleeps, the attach state is only sampled: after the exit (R384). -/
def Chip.noteLine (c : Chip) (p : Nat) (v : BitVec 4) : Chip := c.updPort p (fun q => { q with seen := some v })
def Chip.noteTerm (c : Chip) (p : Nat) (there : Bool) : Chip := c.updSsp p (fun q => { q with seen := some there })

/-- PULLUP_SEEN (R207): D− is a low-speed device. A port in DCP has its transceiver isolated (R223). -/
def Chip.pullup (c : Chip) (p : Nat) (low : Bool) : Chip :=
  let q := c.port p
  if c.asleep then c.noteLine p (if low then 1 else 2)
  else if q.st = pDisconnected ∧ q.bc ≠ dcp then
    c.updPort p (fun q => { q with st := pDebounce, wasSpeed := if low then 1 else 2 })
  else c

/-- PULLUP_LOST_IN_DEBOUNCE (R204, R207). -/
def Chip.pullupLost (c : Chip) (p : Nat) : Chip :=
  if c.asleep then c.noteLine p 0
  else if (c.port p).st = pDebounce then c.updPort p (fun q => { q with st := pDisconnected, bounce := q.bounce + 1 }) else c

/-- DEBOUNCE_END (R207, R209, R264). -/
def Chip.debounced (c : Chip) (p : Nat) : Chip :=
  if (c.port p).st = pDebounce then
    let c := c.updPort p (fun q => { q with st := pDisabled, connected := true, speed := q.wasSpeed, devResumed := false })
    (c.portChange p chConnect 0).enumRoot p
  else c

/-! ### USB 2.0 ports: reset -/

/-- RESET_SE0_END (R207, R209): a completed chirp handshake of a full-speed device makes it high speed. -/
def Chip.se0End (c : Chip) (p : Nat) (chirp : Bool) : Chip :=
  let q := c.port p
  if q.st = pResetting ∧ q.se0 = true then
    (c.updBus p (fun x => { x with noSof := true })).updPort p (fun q => { q with
      st := pRecovery, se0 := false, afterResume := false
      speed := if q.wasSpeed = 1 then 1 else if chirp then 3 else 2 })
  else c

/-- A bus whose reset is over: speed and admission, enumeration, and the command's record (R111, R132, R265). -/
def Chip.resetOver (c : Chip) (b : Nat) (old : BitVec 4) (cmd : Option CmdRef) : Chip :=
  let c := (c.resetDone b old).enumReset b
  (c.finishRef cmd ccSuccess (c.busSpeed b).toNat).kick b

/-- RESET_RECOVERY_END (R207, R208). -/
def Chip.resetRecovered (c : Chip) (p : Nat) : Chip :=
  let q := c.port p
  if q.st = pRecovery ∧ q.afterResume = false then
    let c := c.updPort p (fun q => { q with st := pEnabled, resetCmd := none, devResumed := false })
    (c.portChange p (chReset + chEnable) 0).resetOver p q.wasSpeed q.resetCmd
  else c

/-! ### USB 2.0 ports: suspend and resume -/

/-- SUSPEND_ENTRY_TIMER (R207, R214). -/
def Chip.suspendEntered (c : Chip) (p : Nat) : Chip :=
  let q := c.port p
  if q.st = pSuspending then
    let c := c.updPort p (fun q => { q with st := pSuspended, suspendCmd := none, devResumed := false })
    (c.portChange p chSuspend 0).finishRef q.suspendCmd ccSuccess 0
  else c

/-- A resume of a suspended or L1 port begins with a cause (R215). -/
def Chip.beginResume (c : Chip) (p : Nat) (cause : BitVec 4) : Chip :=
  (c.updPort p (fun q => { q with
    st := pResuming, fromL1 := q.st == pL1, nowCause := cause, already := false, afterResume := false })).emit (.resumeK p)

/-- A device on a Pass port wakes: signalled upstream while the hub is suspended with its remote wake enabled (R231). -/
def Chip.passWake (c : Chip) (p : Nat) (ss : Bool) : Chip :=
  let h := if ss then c.pass.usb3 else c.pass.usb2
  if (c.port p).pass && h.suspended && h.wake then c.emit (.hubWake ss) else c

/-- DEVICE_RESUME_K (R215): detected on a suspended or L1 port; or while a PORT_RESUME is accepted and the chip's own K has
not begun. One that comes and goes while the port logic sleeps is not reported (R384). -/
def Chip.deviceK (c : Chip) (p : Nat) : Chip :=
  let q := c.port p
  if c.asleep then c
  else if q.st = pSuspended ∨ q.st = pL1 then (c.beginResume p causeDevice).passWake p false
  else if q.st = pResuming ∧ q.nowCause = causeHost then c.updPort p (fun q => { q with nowCause := causeBoth })
  else if q.st = pEnabled then c.passWake p false
  else c

/-- The resume has ended and the port is ENABLED: the event, then the record (R79, R215). -/
def Chip.resumed (c : Chip) (p : Nat) : Chip :=
  let q := c.port p
  let c := c.updPort p (fun q => { q with
    st := pEnabled, fromL1 := false, afterResume := false, cause := q.nowCause, devResumed := q.nowCause == causeDevice
    resumeCmd := none, already := false })
  ((c.portChange p chResume q.nowCause).finishRef q.resumeCmd ccSuccess (if q.already then 1 else 0)).kick p

/-- RESUME_K_END (R207, R208). -/
def Chip.resumeKEnd (c : Chip) (p : Nat) : Chip :=
  let q := c.port p
  if q.st ≠ pResuming then c
  else
    let c := c.updBus p (fun x => { x with noSof := true })
    if q.fromL1 then c.resumed p else c.updPort p (fun q => { q with st := pRecovery, afterResume := true })

/-- RESUME_RECOVERY_END (R207, R208). -/
def Chip.resumeRecovered (c : Chip) (p : Nat) : Chip :=
  if (c.port p).st = pRecovery ∧ (c.port p).afterResume = true then c.resumed p else c

/-! ### USB 2.0 ports: disconnect -/

/-- USB2_DISCONNECT (R207, R210, R211, R217). -/
def Chip.disconnect (c : Chip) (p : Nat) : Chip :=
  let q := c.port p
  if c.asleep then c.noteLine p 0
  else if q.st < pDisabled then c
  else
    let c := c.updPort p (fun q => { q with
      st := pDisconnected, connected := false, speed := 0, fromL1 := false, afterResume := false, devResumed := false })
    let c := c.updBus p (fun x => { x with lpm := none })
    let c := if p < 8 ∧ (c.ssp p).st = sDisabled then c.updSsp p (fun x => { x with st := sRxDetect, timeouts := 0 }) else c
    c.unplug p 0 q.connected

/-! ### SuperSpeed companions -/

/-- SS_RX_DETECT_POLL (R211). -/
def Chip.rxDetect (c : Chip) (p : Nat) (found : Bool) : Chip :=
  if c.asleep then (if found then c.noteTerm p true else c)
  else if (c.ssp p).st = sRxDetect ∧ found = true ∧ (c.port p).bc ≠ dcp then c.updSsp p (fun q => { q with st := sPolling }) else c

/-- Lanes of a speed (R72, R204). -/
def speedLanes (sp : BitVec 4) : BitVec 2 := if sp = 5 ∨ sp = 7 then 2 else 1

/-- The speed of a SuperSpeed link on one lane (R213, R407). -/
def narrowSpeed (s : BitVec 4) : BitVec 4 := if s = 7 then 6 else if s = 5 then 4 else s

/-- SSP0 and SSP1 train on two lanes, unless one of them is dropped; SSP2 to SSP7 on one (R2, R213). -/
def Chip.twoLanes (c : Chip) (p : Nat) : Bool :=
  decide (p < 2) && !bitAt c.rel.laneDown (4 + 2 * p) && !bitAt c.rel.laneDown (5 + 2 * p)

/-- SS_POLLING_U0 (R211, R212, R264): after Polling, or after a reset. -/
def Chip.reachU0 (c : Chip) (p : Nat) (speed : BitVec 4) : Chip :=
  let q := c.ssp p
  let speed := if c.twoLanes p then speed else narrowSpeed speed
  let b := 24 + p
  if q.st = sPolling then
    let c := c.updSsp p (fun q => { q with
      st := sU0, connected := true, speed := speed, lanes := speedLanes speed, timeouts := 0, wasSpeed := speed })
    (c.portChange b (chConnect + chEnable) 0).enumRoot b
  else if q.st = sResetting ∧ q.se0 = true then
    let c := c.updSsp p (fun q => { q with
      st := sU0, speed := speed, lanes := speedLanes speed, se0 := false, resetCmd := none })
    (c.portChange b chReset 0).resetOver b q.wasSpeed q.resetCmd
  else c

/-- SS_POLLING_TIMEOUT (R204, R211). -/
def Chip.pollingTimeout (c : Chip) (p : Nat) : Chip :=
  if (c.ssp p).st = sPolling then
    let c := c.updSsp p (fun q => { q with trainFail := q.trainFail + 1, timeouts := q.timeouts + 1, st := sRxDetect })
    if 3 ≤ (c.ssp p).timeouts then
      (c.updSsp p (fun q => { q with st := sDisabled })).portChange (24 + p) chLinkErr 0
    else c
  else c

/-- An endpoint with INTERVAL ≤ 3 is Running on the link: no U1 or U2 (R139). -/
def Chip.keepsU0 (c : Chip) (p : Nat) : Bool :=
  (c.busSlots (24 + p)).any (fun sk => (c.slotEps sk).any (fun k =>
    let e := c.ep k
    e.st == .running && e.periodic && decide (e.interval ≤ 3)))

/-- The timers of a companion: SSPPM's (R205), or those the upstream host set on a port that the hub holds (R229). -/
def Chip.u1Time (c : Chip) (p : Nat) : Nat :=
  if (c.port p).pass then (Tbl.get {} c.pass.usb3.ports p).u1.toNat else (c.ssp p).u1.toNat
def Chip.u2Time (c : Chip) (p : Nat) : Nat :=
  if (c.port p).pass then (Tbl.get {} c.pass.usb3.ports p).u2.toNat else (c.ssp p).u2.toNat
def Chip.acceptsU (c : Chip) (p : Nat) (u2 : Bool) : Bool :=
  if (c.port p).pass then
    (Tbl.get {} c.pass.usb3.ports p).forceAccept || decide (0 < if u2 then c.u2Time p else c.u1Time p)
  else (c.ssp p).acceptDev

def Chip.enterU (c : Chip) (p : Nat) (u2 : Bool) : Chip :=
  let st := if u2 then sU2 else sU1
  (c.updSsp p (fun q => { q with st := st })).emit (.ltssm p st)

/-- SS_IDLE_TIMEOUT (R139, R205, R211). -/
def Chip.idleTimeout (c : Chip) (p : Nat) (u2 : Bool) : Chip :=
  let q := c.ssp p
  let armed := if u2 then c.u2Time p != 0 && c.u2Time p != 0xFF else c.u1Time p != 0 && c.u1Time p != 0xFF
  if q.st = sU0 ∧ armed = true ∧ c.keepsU0 p = false then c.enterU p u2 else c

/-- DEVICE_INITIATED_U1_U2 (R139, R205, R211). -/
def Chip.deviceU (c : Chip) (p : Nat) (u2 : Bool) : Chip :=
  let q := c.ssp p
  if q.st ≠ sU0 then c
  else if c.acceptsU p u2 && !c.keepsU0 p then (c.enterU p u2).emit (.lau p true)
  else c.emit (.lau p false)

/-- The Recovery of a U3 exit has failed: INACTIVE, and PORT_RESUME answers LINK_FAILED (R211, R215). -/
def Chip.exitFails (c : Chip) (p : Nat) : Chip :=
  let q := c.ssp p
  let c := c.updSsp p (fun q => { q with
    st := sInactive, exiting := false, tries := 0, inactive := q.inactive + 1, cause := q.nowCause, resumeCmd := none })
  ((c.portChange (24 + p) chLinkErr 0).finishRef q.resumeCmd ccSuccess 2).kick (24 + p)

/-- SS_LINK_ERROR (R204, R211): Recovery, and what comes of it; or the Recovery of a U3 exit fails. -/
def Chip.linkError (c : Chip) (p : Nat) (recovered : Bool) : Chip :=
  let q := c.ssp p
  if q.st = sRecovery ∧ q.exiting = true then (if recovered then c else c.exitFails p) else
  if q.st = sU0 ∨ q.st = sU1 ∨ q.st = sU2 then
    let c := c.updSsp p (fun q => { q with recovery := q.recovery + 1, st := sU0 })
    if recovered then c.kick (24 + p)
    else
      ((c.updSsp p (fun q => { q with st := sInactive, inactive := q.inactive + 1 })).portChange (24 + p) chLinkErr 0).kick (24 + p)
  else c

/-- SS_TERMINATION_LOST (R210, R211). -/
def Chip.termLost (c : Chip) (p : Nat) : Chip :=
  let q := c.ssp p
  if c.asleep then c.noteTerm p false
  else if q.st = sOff then c
  else
    let c := c.updSsp p (fun q => { q with
      st := sRxDetect, connected := false, speed := 0, lanes := 0, timeouts := 0, tries := 0, exiting := false })
    if q.connected then c.unplug (24 + p) 0 true else c

/-- A U3 exit begins with a cause (R211, R215). -/
def Chip.beginU3Exit (c : Chip) (p : Nat) (cause : BitVec 4) : Chip :=
  (c.updSsp p (fun q => { q with st := sRecovery, exiting := true, tries := 0, nowCause := cause })).emit (.ltssm p sRecovery)

/-- SS_WAKE_LFPS (R215). -/
def Chip.wakeLfps (c : Chip) (p : Nat) : Chip :=
  let q := c.ssp p
  if c.asleep then c
  else if q.st = sU3 then (c.beginU3Exit p causeDevice).passWake p true
  else if q.st = sRecovery ∧ q.exiting = true ∧ q.nowCause = causeHost then c.updSsp p (fun q => { q with nowCause := causeBoth })
  else c

/-- U3_EXIT_U0 (R211, R215). -/
def Chip.u3Out (c : Chip) (p : Nat) : Chip :=
  let q := c.ssp p
  if q.st = sRecovery ∧ q.exiting = true then
    let c := c.updSsp p (fun q => { q with st := sU0, exiting := false, tries := 0, cause := q.nowCause, resumeCmd := none })
    ((c.portChange (24 + p) chResume q.nowCause).finishRef q.resumeCmd ccSuccess 0).kick (24 + p)
  else c

/-- U3_EXIT_RETRY_TIMEOUT (R212, R215): the third unanswered try ends the exit. -/
def Chip.u3Retry (c : Chip) (p : Nat) : Chip :=
  let q := c.ssp p
  if q.st = sRecovery ∧ q.exiting = true then
    if 2 ≤ q.tries then c.exitFails p
    else c.updSsp p (fun q => { q with tries := q.tries + 1 })
  else c

/-! ### After the exit from RETAIN -/

/-- The port logic samples the attach state of every port afresh (R384). -/
def Chip.sampleLines (c : Chip) : Chip :=
  let c := forUpTo 24 (fun p c =>
    match (c.port p).seen with
    | none => c
    | some v =>
      let c := c.updPort p (fun q => { q with seen := none })
      if v = 0 then (if (c.port p).st = pDebounce then c.pullupLost p else c.disconnect p) else c.pullup p (v == 1)) c
  forUpTo 8 (fun p c =>
    match (c.ssp p).seen with
    | none => c
    | some there =>
      let c := c.updSsp p (fun q => { q with seen := none })
      if there then c.rxDetect p true else c.termLost p) c

/-- A wake that a busy port stands for (R376, R384): a connection, or a device's resume, with its wake enabled. -/
def Chip.portsWake (c : Chip) : Option WakeEvent :=
  (List.finRange 32).findSome? (fun b =>
    if b.val < 24 then
      let q := c.port b.val
      if bitAt c.pwr.wakeEn 2 && q.st == pDebounce then some (.portConnect b)
      else if bitAt c.pwr.wakeEn 3 && q.st == pResuming && q.nowCause == causeDevice then some (.portWake b) else none
    else
      let q := c.ssp (b.val - 24)
      if bitAt c.pwr.wakeEn 2 && q.st == sPolling then some (.portConnect b)
      else if bitAt c.pwr.wakeEn 3 && q.st == sRecovery && q.exiting && q.nowCause == causeDevice then some (.portWake b) else none)

/-! ### Over-current -/

/-- POC_FALL (R221): the deglitch count starts, once CLK_AUX runs (R26) or the Sideline counts. -/
def Chip.pocFalls (c : Chip) (n : Nat) : Chip :=
  c.updPort n (fun q => { q with pocLow := true, deglitch := c.boot.crystal || c.asleep })

/-- OC_TRIP_QUALIFIED (R221): a ball that is no port's SOURCE is ignored (R219); in RETAIN and DORMANT the report follows
the wake. -/
def Chip.tripped (c : Chip) (n : Nat) : Chip :=
  let q := c.port n
  if !q.pocLow || !q.deglitch || (c.gang n).isEmpty then c
  else
    let off := c.tripOff n
    let c := c.tripPower n
    if c.asleep then c.updPort n (fun q => { q with tripDue := some (BitVec.ofNat 24 (portMask off)) })
    else c.tripReport n off

/-- POC_RISE (R222). -/
def Chip.pocRises (c : Chip) (n : Nat) : Chip :=
  let was := (c.port n).tripped
  let c := c.updPort n (fun q => { q with pocLow := false, deglitch := false })
  if !was then c
  else
    let c := c.tripClear n
    if (c.port n).tripDue.isSome then c else c.clearReport n

/-- Steps 3 and 4 of the trips that happened while the core was off (R221, R384). -/
def Chip.tripsDue (c : Chip) : Chip :=
  forUpTo 24 (fun n c =>
    match (c.port n).tripDue with
    | none => c
    | some m =>
      let c := (c.updPort n (fun q => { q with tripDue := none })).tripReport n (maskPorts m)
      if (c.port n).tripped then c else c.clearReport n) c

/-- OC_MAP_WRITE (R219): only the bytes of unpowered ports change, and only to a SOURCE that exists. -/
def Chip.ocMap (c : Chip) (k : Nat) (val : Word) : Chip :=
  (List.range 4).foldl (fun c j =>
    let p := 4 * k + j
    let v := fld val (8 * j + 4) (8 * j)
    if (c.port p).powered || (decide (24 ≤ v) && v != 31) then c
    else
      let oc := decide (v < 24) && (c.port v).tripped
      (c.updPort p (fun q => { q with src := if v = p then none else some (BitVec.ofNat 5 v) })).setOc p oc) c

end Sys2Proof.Machine
end

