-- ==== Sys2Proof/Machine/Hub.lean ====
section
/-! DEFINITION. Pass mode: the hub pair on the UFP (R224 to R231), and hand-overs of a connector to and from it (R226). -/

namespace Sys2Proof.Machine

/-! ### The hub pair -/

/-- PASS_STS.ATTACHED: the pull-up is presented (R225). -/
def Pass.attached (x : Pass) : Bool := x.hubEn && x.vbus
/-- SuperSpeed termination is presented (R225). -/
def Pass.ssAttached (x : Pass) : Bool := x.hubEn && x.vbus && x.ssEn

def Chip.hub (c : Chip) (ss : Bool) : Hub := if ss then c.pass.usb3 else c.pass.usb2
def Chip.updHub (c : Chip) (ss : Bool) (f : Hub → Hub) : Chip :=
  { c with pass := if ss then { c.pass with usb3 := f c.pass.usb3 } else { c.pass with usb2 := f c.pass.usb2 } }
def Chip.hubPortOf (c : Chip) (ss : Bool) (p : Nat) : HubPort := Tbl.get {} (c.hub ss).ports p
def Chip.updHubPort (c : Chip) (ss : Bool) (p : Nat) (f : HubPort → HubPort) : Chip := c.updHub ss (fun h => h.updPort p f)

/-- The hub is there for the upstream host. -/
def Chip.hubOn (c : Chip) (ss : Bool) : Bool := if ss then c.pass.ssAttached else c.pass.attached

/-- Connectors that the hub holds (R224 PASS_MAP). -/
def Chip.held (c : Chip) : List Nat := (List.range 24).filter (fun p => (c.port p).pass)

/-- `n` bytes that the manual leaves open (log entry 2). -/
def Chip.freeBytes (c : Chip) (n : Nat) : List Byte × Chip :=
  ((List.range n).map (fun k => BitVec.ofNat 8 (Config.freeWord (c.free + k)).toNat), { c with free := c.free + n })

/-- Traffic on the upstream SuperSpeed link shows that it is up; its speed is the peer's and open here. -/
def Chip.upSeen (c : Chip) (ss : Bool) : Chip :=
  if !ss || c.pass.ssLink then c
  else
    let sp : BitVec 4 := BitVec.ofNat 4 (4 + (Config.freeWord c.free).toNat % 4)
    { c with free := c.free + 1, pass := { c.pass with ssLink := true, ssSpeed := sp } }

/-- The hub answers with data, or STALL. -/
def Chip.hubSay (c : Chip) (ss : Bool) (bytes : List Byte) : Chip := c.emit (.hubData ss bytes)
def Chip.hubNo (c : Chip) (ss : Bool) : Chip := c.emit (.hubStall ss)

/-- A request reaches a hub that is attached; its answer is given by `act`. -/
def Chip.hubDo (c : Chip) (ss : Bool) (act : Chip → Chip) : Chip := if c.hubOn ss then act (c.upSeen ss) else c

/-! ### Power -/

/-- A connector of the hub is switched off (R225, R229, R230). -/
def Chip.hubPowerOff (c : Chip) (p : Nat) : Chip :=
  let c := c.updPort p (fun q => { q with cycle := none })
  if (c.port p).powered then c.ppeLow p 4 else c

/-- SetPortFeature(PORT_POWER) (R218, R222, R228). -/
def Chip.hubPowerOn (c : Chip) (p : Nat) : Chip :=
  if !(c.port p).pass then c
  else if (c.port p).oc then
    let c := c.updHubPort false p (fun h => { h with cOc := true })
    if p < 8 then c.updHubPort true p (fun h => { h with cOc := true }) else c
  else
    let c := c.updPort p (fun q => { q with noAuto := false, ownerOff := false })
    if (c.port p).powered || (c.port p).cycle.isSome then c else c.powerOn p

/-- The hub detaches (R225). -/
def Chip.hubGone (c : Chip) : Chip :=
  let c := c.held.foldl (fun c p => c.hubPowerOff p) c
  { c with pass := { c.pass with usb2 := {}, usb3 := {}, hs := false, ssLink := false, ssSpeed := 0 } }

/-- HUB_EN, SS_EN or UFP_VBUS_DET changes (R224, R225). -/
def Chip.passSet (c : Chip) (f : Pass → Pass) : Chip :=
  let was := c.pass
  let c := { c with pass := f c.pass }
  let c := if was.attached && !c.pass.attached then c.hubGone
    else if was.ssAttached && !c.pass.ssAttached then
      { c with pass := { c.pass with usb3 := {}, ssLink := false, ssSpeed := 0 } }
    else c
  c.chargeAll

/-- UFP_VBUS_CHANGE. -/
def Chip.ufpVbus (c : Chip) (high : Bool) : Chip := c.passSet (fun x => { x with vbus := high })
/-- PASS_CTL_WRITE. -/
def Chip.passCtl (c : Chip) (val : Word) : Chip := c.passSet (fun x => { x with hubEn := bitAt val 0, ssEn := bitAt val 1 })

/-! ### Hand-overs (R226) -/

/-- KEEP_POWER counts for a hand-over to the hub only while the hub is attached. -/
def Chip.keepToHub (c : Chip) (keep : Bool) : Bool := keep && c.pass.attached

/-- A companion whose connector changes hands powered: connected and disabled until a reset, that is, INACTIVE (R226; log entry 76). -/
def Chip.disableSs (c : Chip) (p : Nat) : Chip :=
  if p < 8 ∧ (c.ssp p).connected = true ∧ (c.ssp p).enabled = true then
    c.updSsp p (fun q => { q with st := sInactive, exiting := false, inactive := q.inactive + 1 })
  else c

/-- The connector is the hub's from here on: a device that stays powered is connected and disabled. -/
def Chip.giveHub (c : Chip) (p : Nat) : Chip :=
  let c := c.updPort p (fun q => { q with
    pass := true, owner := nobody, farOwner := none, ownerOff := false, parked := []
    st := if q.connected ∧ pDisabled ≤ q.st then pDisabled else q.st })
  let c := c.disableSs p
  let c := if (c.port p).connected then c.hubNote p chConnect else c
  let c := if p < 8 ∧ (c.ssp p).connected = true then c.hubNote (24 + p) chConnect else c
  if ((c.hubPortOf false p).power || (decide (p < 8) && (c.hubPortOf true p).power)) && !(c.port p).powered && c.pass.attached then
    c.hubPowerOn p
  else c

/-- The hub loses the connector: its ports read disconnected and powered off; a device that stays powered is DISABLED. -/
def Chip.leaveHub (c : Chip) (p : Nat) : Chip :=
  let conn := (c.port p).connected
  let connS := (c.ssp p).connected
  let c := if conn then c.updHubPort false p (fun h => { h with cConn := true, power := false })
    else c.updHubPort false p (fun h => { h with power := false })
  let c := if p < 8 then
      (if connS then c.updHubPort true p (fun h => { h with cConn := true, power := false })
       else c.updHubPort true p (fun h => { h with power := false }))
    else c
  (c.disableSs p).updPort p (fun q => { q with pass := false, st := if q.connected ∧ pDisabled ≤ q.st then pDisabled else q.st })

/-! ### Requests of the upstream host (R228, R229) -/

/-- wPortStatus and wPortChange of the USB 2.0 hub (USB 2.0, table 11-21 and 11-22; log entry 20). -/
def Chip.hubStatus2 (c : Chip) (p : Nat) : List Byte :=
  let q := c.port p
  let h := c.hubPortOf false p
  let st := if !q.pass then 0 else
    flagAt q.connected 0 + flagAt (q.enabled && q.st != pSuspending) 1
      + flagAt (q.st == pSuspending || q.st == pSuspended || q.st == pResuming || (q.st == pRecovery && q.afterResume)) 2
      + flagAt q.oc 3 + flagAt (q.st == pResetting || (q.st == pRecovery && !q.afterResume)) 4 + flagAt (q.st == pL1) 5
      + flagAt q.powered 8 + flagAt (q.speed == 1) 9 + flagAt (q.speed == 3) 10 + flagAt (h.test != 0) 11
  leBytes 2 st ++ leBytes 2 (flagAt h.cConn 0 + flagAt h.cEnable 1 + flagAt h.cSuspend 2 + flagAt h.cOc 3 + flagAt h.cReset 4)

/-- PORT_LINK_STATE of a STATE code of R211 (USB 3.2; log entry 20). -/
def linkState3 (st : Nat) : Nat :=
  if st = sU0 then 0 else if st = sU1 then 1 else if st = sU2 then 2 else if st = sU3 then 3
  else if st = sRxDetect then 5 else if st = sInactive then 6 else if st = sPolling then 7
  else if st = sRecovery then 8 else if st = sResetting then 9 else 4

/-- wPortStatus and wPortChange of the USB 3.2 hub. -/
def Chip.hubStatus3 (c : Chip) (p : Nat) : List Byte :=
  let q := c.ssp p
  let h := c.hubPortOf true p
  let st := if !(c.port p).pass then 0 else
    flagAt q.connected 0 + flagAt q.enabled 1 + flagAt (c.port p).oc 3 + flagAt (q.st == sResetting) 4
      + 2 ^ 5 * linkState3 q.st + flagAt (c.port p).powered 9
  leBytes 2 st ++ leBytes 2 (flagAt h.cConn 0 + flagAt h.cOc 3 + flagAt h.cReset 4 + flagAt h.cBh 5 + flagAt h.cLink 6
    + flagAt h.cConfig 7)

/-- HUB_GET_HUB_STATUS: local power good, no over-current, no change. -/
def Chip.hubGetStatus (c : Chip) (ss : Bool) : Chip := c.hubDo ss (fun c => c.hubSay ss [0, 0, 0, 0])

/-- The port exists on the hub: 24 on the USB 2.0 hub, 8 on the USB 3.2 hub. -/
def hubHas (ss : Bool) (p : Nat) : Bool := !ss || decide (p < 8)

/-- HUB_GET_PORT_STATUS. -/
def Chip.hubGetPort (c : Chip) (ss : Bool) (p : Nat) : Chip :=
  c.hubDo ss (fun c =>
    if !hubHas ss p then c.hubNo ss
    else c.hubSay ss (if ss then c.hubStatus3 p else c.hubStatus2 p))

/-- The hub descriptors of R228. -/
def hubDesc (ss : Bool) : List Byte :=
  if ss then [12, 0x2A, 8, 0x09, 0x00, 25, 0, 0, 0x90, 0x01, 0, 0]
  else [15, 0x29, 24, 0x09, 0x00, 25, 0, 0, 0, 0, 0, 0xFF, 0xFF, 0xFF, 0xFF]

/-- HUB_GET_HUB_DESCRIPTOR. -/
def Chip.hubGetDesc (c : Chip) (ss : Bool) : Chip := c.hubDo ss (fun c => c.hubSay ss (hubDesc ss))

/-- HUB_CLEAR_HUB_FEATURE: accepted; never set. -/
def Chip.hubClearHub (c : Chip) (ss : Bool) (f : HubFeature) : Chip :=
  c.hubDo ss (fun c => if f = .cHubLocalPower ∨ f = .cHubOverCurrent then c.hubSay ss [] else c.hubNo ss)

/-- The ports that a hub's ClearPortFeature may clear, and the change bits it clears (R229). -/
def HubPort.clear (h : HubPort) (f : HubFeature) : HubPort :=
  match f with
  | .cConnection => { h with cConn := false }
  | .cEnable => { h with cEnable := false }
  | .cSuspend => { h with cSuspend := false }
  | .cOverCurrent => { h with cOc := false }
  | .cReset => { h with cReset := false }
  | .cBhReset => { h with cBh := false }
  | .cLinkState => { h with cLink := false }
  | .cConfigError => { h with cConfig := false }
  | _ => h

def clears2 (f : HubFeature) : Bool :=
  f == .portEnable || f == .portSuspend || f == .portPower || f == .cConnection || f == .cEnable || f == .cSuspend
    || f == .cOverCurrent || f == .cReset
def clears3 (f : HubFeature) : Bool :=
  f == .portPower || f == .cConnection || f == .cOverCurrent || f == .cReset || f == .cBhReset || f == .cLinkState
    || f == .cConfigError

/-- HUB_CLEAR_PORT_FEATURE. -/
def Chip.hubClearPort (c : Chip) (ss : Bool) (p : Nat) (f : HubFeature) : Chip :=
  c.hubDo ss (fun c =>
    if !hubHas ss p || !(if ss then clears3 f else clears2 f) then c.hubNo ss
    else
      let c := c.hubSay ss []
      let q := c.port p
      match f with
      | .portEnable =>
        if q.pass && q.enabled then c.updPort p (fun q => { q with st := pDisabled }) else c
      | .portSuspend =>
        if q.pass && q.st == pSuspended then c.beginResume p causeHost else c
      | .portPower =>
        let c := c.updHubPort ss p (fun h => { h with power := false })
        if q.pass && c.policy p != 3 then c.hubPowerOff p else c
      | f => c.updHubPort ss p (fun h => h.clear f))

def sets2 (f : HubFeature) (sel : Byte) : Bool :=
  f == .portReset || f == .portSuspend || f == .portPower || (f == .portTest && decide (1 ≤ sel.toNat) && decide (sel.toNat ≤ 5))
def sets3 (f : HubFeature) (sel : Byte) : Bool :=
  f == .portReset || f == .bhPortReset || f == .portPower || (f == .portLinkState && decide (sel.toNat ≤ 5))
    || f == .portU1Timeout || f == .portU2Timeout || f == .portRemoteWakeMask || f == .forceLinkpmAccept

/-- SetPortFeature(PORT_LINK_STATE) (USB 3.2; log entry 20): the link states U0 to U3, SS.Disabled and Rx.Detect. -/
def Chip.hubLinkState (c : Chip) (p sel : Nat) : Chip :=
  let q := c.ssp p
  let low := q.st == sU1 || q.st == sU2
  if sel = 0 then
    if q.st = sU3 then c.beginU3Exit p causeHost
    else if low then c.updSsp p (fun q => { q with st := sU0 }) else c
  else if sel = 1 ∨ sel = 2 then (if q.st = sU0 then c.enterU p (sel = 2) else c)
  else if sel = 3 then
    (if q.st = sU0 || low then (c.updSsp p (fun q => { q with st := sU3 })).emit (.ltssm p sU3) else c)
  else if sel = 4 then
    (if q.st = sOff then c else c.updSsp p (fun q => { q with st := sDisabled, connected := false, speed := 0, lanes := 0 }))
  else if q.st = sDisabled then c.updSsp p (fun q => { q with st := sRxDetect, timeouts := 0 })
  else c

/-- A held companion whose link can be reset (R211). -/
def Ssp.resettable (q : Ssp) (warm : Bool) : Bool := q.enabled || (warm && q.st == sInactive)

/-- HUB_SET_PORT_FEATURE. -/
def Chip.hubSetPort (c : Chip) (ss : Bool) (p : Nat) (f : HubFeature) (sel : Byte) : Chip :=
  c.hubDo ss (fun c =>
    if !hubHas ss p || !(if ss then sets3 f sel else sets2 f sel) then c.hubNo ss
    else
      let c := c.hubSay ss []
      let q := c.port p
      match f with
      | .portPower => (c.updHubPort ss p (fun h => { h with power := true })).hubPowerOn p
      | .portReset =>
        if ss then (if q.pass && (c.ssp p).resettable false then c.beginReset (24 + p) false else c)
        else if q.pass && q.connected && q.powered && q.st != pResetting then c.beginReset p false else c
      | .bhPortReset => if q.pass && (c.ssp p).resettable true then c.beginReset (24 + p) true else c
      | .portSuspend => if q.pass && q.st == pEnabled then c.updPort p (fun q => { q with st := pSuspending }) else c
      | .portTest => c.updHubPort ss p (fun h => { h with test := sel })
      | .portLinkState => if q.pass then c.hubLinkState p sel.toNat else c
      | .portU1Timeout => c.updHubPort ss p (fun h => { h with u1 := sel })
      | .portU2Timeout => c.updHubPort ss p (fun h => { h with u2 := sel })
      | .portRemoteWakeMask => c.updHubPort ss p (fun h => { h with wakeMask := sel })
      | .forceLinkpmAccept => c.updHubPort ss p (fun h => { h with forceAccept := bitAt sel 0 })
      | _ => c)

/-- HUB_CLEAR_TT_BUFFER and HUB_RESET_TT: the translator's buffers hold nothing that outlives a transaction here. -/
def Chip.hubTt (c : Chip) : Chip := c.hubDo false (fun c => c.hubSay false [])

/-- HUB_SET_HUB_DEPTH. -/
def Chip.hubDepth (c : Chip) (d : Byte) : Chip :=
  c.hubDo true (fun c =>
    if d.toNat ≤ 4 then (c.updHub true (fun h => { h with depth := d })).hubSay true [] else c.hubNo true)

/-- HUB_GET_PORT_ERROR_COUNT: the manual gives the count no value. -/
def Chip.hubErrors (c : Chip) : Chip :=
  c.hubDo true (fun c =>
    let x := c.freeBytes 2
    x.2.hubSay true x.1)

/-! ### Standard requests -/

/-- Device descriptors of R228. -/
def Chip.hubDevDesc (c : Chip) (ss : Bool) : List Byte :=
  let x := c.pass
  if ss then [18, 1, 0x20, 0x03, 9, 0, 3, 9] ++ leBytes 2 x.vid.toNat ++ leBytes 2 x.pidSs.toNat ++ [0x01, 0x0A, 0, 0, 0, 1]
  else [18, 1, 0x10, 0x02, 9, 0, 2, 64] ++ leBytes 2 x.vid.toNat ++ leBytes 2 x.pidHs.toNat ++ [0x01, 0x0A, 0, 0, 0, 1]

/-- Configuration, interface and endpoint descriptors of R228. -/
def hubCfgDesc (ss : Bool) : List Byte :=
  if ss then
    [9, 2, 31, 0, 1, 1, 0, 0xE0, 0, 9, 4, 0, 0, 1, 9, 0, 0, 0, 7, 5, 0x81, 3, 2, 0, 12, 6, 0x30, 0, 0, 2, 0]
  else [9, 2, 25, 0, 1, 1, 0, 0xE0, 0, 9, 4, 0, 0, 1, 9, 0, 2, 0, 7, 5, 0x81, 3, 4, 0, 12]

/-- BOS of R228: USB 2.0 Extension with LPM, SuperSpeed USB capability, Container ID. -/
def hubBosDesc : List Byte :=
  [5, 0x0F, 42, 0, 3, 7, 0x10, 2, 2, 0, 0, 0, 10, 0x10, 3, 0, 0, 0, 0, 0, 0, 0, 20, 0x10, 4] ++ List.replicate 17 0

/-- Device_Qualifier of the USB 2.0 hub, by the speed it runs at: what it is at the other speed. Class, release and packet size
are those of R228; a hub at full speed has protocol 0 (USB 2.0, 11.23.1). PRESUMED, log entry 69. -/
def hubQualifier (hs : Bool) : List Byte := [10, 6, 0x10, 0x02, 9, 0, if hs then 0 else 2, 64, 1, 0]

/-- Other_Speed_Configuration of the USB 2.0 hub: R228's configuration, with the interface protocol and the interval of the other speed.
PRESUMED, log entry 69. -/
def hubOtherSpeed (hs : Bool) : List Byte :=
  [9, 7, 25, 0, 1, 1, 0, 0xE0, 0, 9, 4, 0, 0, 1, 9, 0, if hs then 0 else 2, 0, 7, 5, 0x81, 3, 4, 0, if hs then 0xFF else 12]

/-- HUB_STANDARD_REQUEST (R228, R229): those that USB 2.0 and USB 3.2 require of a hub; which they are is PRESUMED (log entry 20). A
configuration change of the USB 2.0 hub moves FOLLOW (R278). -/
def Chip.hubStd (c : Chip) (ss : Bool) (r : StdReq) : Chip :=
  c.hubDo ss (fun c =>
    let h := c.hub ss
    match r with
    | .getDescriptor k =>
      if k = 1 then c.hubSay ss (c.hubDevDesc ss)
      else if k = 2 then c.hubSay ss (hubCfgDesc ss)
      else if k = 0x0F then c.hubSay ss hubBosDesc
      else if ss = false ∧ k = 6 then c.hubSay ss (hubQualifier c.pass.hs)
      else if ss = false ∧ k = 7 then c.hubSay ss (hubOtherSpeed c.pass.hs)
      else c.hubNo ss
    | .setAddress a => (c.updHub ss (fun h => { h with addr := a })).hubSay ss []
    | .getConfiguration => c.hubSay ss [if h.configured then 1 else 0]
    | .setConfiguration v =>
      if v.toNat ≤ 1 then ((c.updHub ss (fun h =>
          { h with configured := v == 1, halted := false, u1On := false, u2On := false })).hubSay ss []).chargeAll else c.hubNo ss
    | .getStatus =>
      let b := if ss then 1 + flagAt h.u1On 2 + flagAt h.u2On 3 else 1 + flagAt h.wake 1
      c.hubSay ss [BitVec.ofNat 8 b, 0]
    | .interfaceStatus => c.hubSay ss [BitVec.ofNat 8 (if ss then 1 + flagAt h.wake 1 else 0), 0]
    | .endpointStatus ep => if ep = 0 ∨ ep = 0x81 then c.hubSay ss [if ep = 0x81 ∧ h.halted = true then 1 else 0, 0] else c.hubNo ss
    | .setHalt ep on =>
      if ep = 0x81 then (c.updHub ss (fun h => { h with halted := on })).hubSay ss []
      else if ep = 0 then c.hubSay ss [] else c.hubNo ss
    | .testMode sel =>
      if ss = false ∧ 1 ≤ sel.toNat ∧ sel.toNat ≤ 5 then (c.updHub ss (fun h => { h with test := sel })).hubSay ss [] else c.hubNo ss
    | .setSel | .setIsochDelay => if ss then c.hubSay ss [] else c.hubNo ss
    | .u1Enable on =>
      if ss ∧ h.configured = true then (c.updHub ss (fun h => { h with u1On := on })).hubSay ss [] else c.hubNo ss
    | .u2Enable on =>
      if ss ∧ h.configured = true then (c.updHub ss (fun h => { h with u2On := on })).hubSay ss [] else c.hubNo ss
    | .functionSuspend _ wake => if ss then (c.updHub ss (fun h => { h with wake := wake })).hubSay ss [] else c.hubNo ss
    | .getInterface => c.hubSay ss [0]
    | .setInterface v => if v = 0 then c.hubSay ss [] else c.hubNo ss
    | .setRemoteWake on => (c.updHub ss (fun h => { h with wake := on })).hubSay ss []
    | .other => c.hubNo ss)

/-- HUB_REQUEST_STALLED. -/
def Chip.hubStalled (c : Chip) (ss : Bool) : Chip := c.hubDo ss (fun c => c.hubNo ss)

/-! ### The upstream link (R230, R231) -/

/-- UPSTREAM_RESET: a USB 2.0 bus reset, or a warm reset of the SuperSpeed link. Whether the reset brings the USB 2.0 link to
high speed is the upstream host's. -/
def Chip.upReset (c : Chip) (warm : Bool) : Chip :=
  if !c.hubOn warm then c
  else
    let c := c.held.foldl (fun c p => c.hubPowerOff p) c
    let c := if warm then { c with pass := { c.pass with usb3 := {}, ssLink := false, ssSpeed := 0 } }
      else { c with pass := { c.pass with usb2 := {}, hs := bitAt (Config.freeWord c.free) 0 }, free := c.free + 1 }
    c.chargeAll

/-- UPSTREAM_HOT_RESET: the USB 3.2 hub's own state, and a hot reset of its links (USB 3.2; log entry 20). -/
def Chip.upHotReset (c : Chip) : Chip :=
  if !c.hubOn true then c
  else
    let c := c.upSeen true
    let c := c.updHub true (fun _ => {})
    (List.range 8).foldl (fun c p =>
      if (c.port p).pass && (c.ssp p).resettable false then c.beginReset (24 + p) false else c) c

/-- UPSTREAM_SUSPEND. -/
def Chip.upSuspend (c : Chip) (ss : Bool) (port : Option Nat) : Chip :=
  if !c.hubOn ss then c
  else
    match port with
    | none => c.updHub ss (fun h => { h with suspended := true })
    | some p =>
      if ss then (if (c.port p).pass && decide (p < 8) then c.hubLinkState p 3 else c)
      else if (c.port p).pass && (c.port p).st == pEnabled then c.updPort p (fun q => { q with st := pSuspending })
      else c

/-- UPSTREAM_RESUME. -/
def Chip.upResume (c : Chip) (ss : Bool) (port : Option Nat) : Chip :=
  if !c.hubOn ss then c
  else
    match port with
    | none => c.updHub ss (fun h => { h with suspended := false })
    | some p =>
      if ss then (if (c.port p).pass && decide (p < 8) then c.hubLinkState p 0 else c)
      else if (c.port p).pass && (c.port p).st == pSuspended then c.beginResume p causeHost
      else c

/-- The change bitmap of a hub's status endpoint: bit i for hub port i (R228). -/
def Chip.hubBits (c : Chip) (ss : Bool) : Nat :=
  (List.range (if ss then 8 else 24)).foldl (fun n p =>
    let h := c.hubPortOf ss p
    n + flagAt (h.cConn || h.cEnable || h.cSuspend || h.cOc || h.cReset || h.cBh || h.cLink || h.cConfig) (p + 1)) 0

/-- UPSTREAM_TRANSACTION (R227). -/
def Chip.upXact (c : Chip) (x : UpXact) : Chip :=
  match x with
  | .statusPoll ss => c.hubDo ss (fun c => if (c.hub ss).halted then c.hubNo ss else c.emit (.hubStatus (c.hubBits ss)))
  | .highSpeed p =>
    if c.hubOn false && (c.port p.val).pass && (c.port p.val).st == pEnabled then c.emit (.hubForward p.val false) else c
  | .translated p =>
    if c.hubOn false && (c.port p.val).pass && (c.port p.val).st == pEnabled then c.emit (.hubForward p.val true) else c
  | .superSpeed p =>
    c.hubDo true (fun c =>
      if (c.port p.val).pass && (c.ssp p.val).enabled then c.emit (.hubForward (24 + p.val) false) else c)

end Sys2Proof.Machine
end

