-- ==== Sys2Proof/Machine/Scorebook.lean ====
section
/-! DEFINITION. The Scorebook (R191 to R197), and the capture registers of the Referee, the Lineup, the pool and Carry
(R127, R190, R241, R310). -/

namespace Sys2Proof.Machine

/-! ### Queues as software sees them -/

/-- The bus that a BUS code names, and its code (R118). -/
def busOfCode (k : Nat) : Option Nat := codeBus k

/-- USED (R190): a local place whose instance exists, a far place that is taken. -/
def Chip.placeUsed (c : Chip) (b place : Nat) : Bool :=
  if place < 128 then (c.inst place).st != .absent else (c.queue (qKey b place)).far.isSome

/-- COLOUR (R190): 3 where the queue is not eligible for another cause than its peak bucket; a red queue reads 2, with or without
eligible work. DEDUCED, log entry 70. -/
def Chip.colourCode (c : Chip) (b place : Nat) : Nat :=
  match c.colour b place with
  | .red => 2
  | col =>
    if (c.eligible b).any (fun e => c.placeOf b (keySlot e.1) == place) then (if col == .green then 0 else 1) else 3

/-- Words as a table of registers. -/
def wordTbl (ws : List Nat) : Tbl Word := (List.range ws.length).foldl (fun t k => Tbl.set 0 t k (toWord (ws.getD k 0))) []

def Queue.lenKib (q : Queue) : Nat := q.lenBytes / 1024

/-! ### Samples -/

/-- The histogram counter of an AGE (R192). -/
def histOf (age : Nat) : Nat := if age < 16 then 0 else if 1024 ≤ age then 7 else Nat.log2 age - 3

/-- One queue's sample (R192). -/
def Queue.sample (q : Queue) (depth : Nat) (oldest : Option Nat) (now : Nat) (colour : Nat) : Queue :=
  let d := min depth 65535
  let age := match oldest with
    | some t => min (now - t) 4294967295
    | none => 0
  { q with
    depth := d, age := age, depthMax := max q.depthMax d, ageMax := max q.ageMax age, colour := BitVec.ofNat 2 colour
    hist := if d = 0 then q.hist else Tbl.upd 0 q.hist (histOf age) (· + 1)
    snap := (q.services, toWord q.lenKib, q.yellowSvc, q.heldRed) }

/-- Queues that can have something to sample. -/
def Chip.sampleKeys (c : Chip) : List Nat :=
  dedup (c.queues.map (fun q => q.1) ++ (c.eps.filter (fun e => decide (e.1 < 8192) && e.2.st != .disabled)).map (fun e =>
    qKey (c.slotBus (e.1 / 32)) (c.placeOf (c.slotBus (e.1 / 32)) (e.1 / 32))))

/-- A sample point falls at the chip tick N, where N mod 2^K = 0 and EN is set; one that comes while the point before it is still
being taken is skipped (R191). The taking of the point is the command SCOREBOOK_SAMPLE. DESIGN CHOICE, log entry 71. -/
def Capture.tick (x : Capture) (n : BitVec 16) : Capture :=
  if !x.sbEn || n.toNat % 2 ^ x.sbK.toNat != 0 then x
  else if x.sbBusy then { x with sbSkipped := x.sbSkipped + 1 }
  else { x with sbBusy := true, sbPoint := n }

/-- SCOREBOOK_SAMPLE (R191, R192): every queue in use is read; the point is named by its N. -/
def Chip.sbSample (c : Chip) : Chip :=
  if !c.cap.sbBusy then c
  else
    let now := c
    let c := c.sampleKeys.foldl (fun c k =>
      let b := k / 256
      let place := k % 256
      if now.placeUsed b place then
        let d := now.depth b place
        c.updQueue k (fun q => q.sample d.1 d.2 now.us (now.colourCode b place))
      else c) c
    let c := { c with insts := Tbl.mapv {} c.insts (fun k x => if k < 128 ∧ x.st ≠ InstSt.absent then
        { x with samples := x.samples + 1 } else x) }
    { c with cap := { c.cap with sbLastMf := c.cap.sbPoint, sbBusy := false } }

/-- A queue's record is cleared: every field of the entry is zero (R196). -/
def Queue.clear (q : Queue) : Queue :=
  { q with
    depth := 0, depthMax := 0, age := 0, ageMax := 0, hist := [], yellowSvc := 0, heldRed := 0, services := 0, lenBytes := 0
    colour := 0, snap := (0, 0, 0, 0) }

/-- SB_CLEAR: every record (R196). -/
def Chip.sbClear (c : Chip) : Chip :=
  let c := c.mapQueues (fun _ q => q.clear)
  { c with insts := Tbl.mapv {} c.insts (fun _ x => { x with samples := 0 }) }

/-- A queue at the reset of its instance: its record cleared, its buckets full, itself out of the eligible set (R183, R196). -/
def Queue.atReset (q : Queue) : Queue := { q.clear with ctok := q.cbs.toNat, ptok := q.pbs.toNat, inSet := false }

/-- The queues of one instance of this node at its reset, and those of the far places that one of another node holds here. -/
def Chip.clearQueues (c : Chip) (n : Nat) : Chip :=
  let c := c.mapQueues (fun k q => if k % 256 = n ∨ (128 ≤ n ∧ q.far = some (farOf n)) then q.atReset else q)
  c.updInst n (fun x => { x with samples := 0 })

/-! ### Entries and the dump -/

/-- The sixteen words of a Scorebook entry (R195). -/
def Chip.sbEntry (c : Chip) (b place : Nat) : List Nat :=
  let q := c.queue (qKey b place)
  let flags := flagAt (128 ≤ place) 0 + flagAt (q.depth != 0) 1 + 2 ^ 2 * q.colour.toNat
  [busCode b + 2 ^ 8 * c.nodeNo + 2 ^ 16 * flags, q.depth + 2 ^ 16 * q.depthMax, q.age, q.ageMax]
    ++ (List.range 8).map (fun k => (Tbl.get 0 q.hist k).toNat)
    ++ [q.snap.1.toNat, q.snap.2.1.toNat, q.snap.2.2.1.toNat, q.snap.2.2.2.toNat]

/-- Buses of this node on which an instance has an endpoint context, with its place there, in ascending BUS. -/
def Chip.dumpBuses (c : Chip) (n : Nat) : List (Nat × Nat) :=
  (List.range 32).filterMap (fun b =>
    ((c.busSlots b).find? (fun sk =>
      (if 128 ≤ n then (c.slot sk).far == some (farOf n) else (c.slot sk).far.isNone && (c.slot sk).owner.toNat == n)
        && !(c.slotEps sk).isEmpty)).map (fun sk => (b, c.placeOf b sk)))

def entryBytes (ws : List Nat) : List Byte := ws.flatMap (leBytes 4)

/-- The entries of this node for an instance. -/
def Chip.localEntries (c : Chip) (n : Nat) : List Byte := (c.dumpBuses n).flatMap (fun x => entryBytes (c.sbEntry x.1 x.2))

/-- The dump of R194: header, local entries, entries of far buses. -/
def Chip.sbDump (c : Chip) (n : Nat) (far : List Byte) : List Byte :=
  let es := c.localEntries n ++ far
  leBytes 4 0x4B424353 ++ leBytes 2 1 ++ leBytes 2 64 ++ leBytes 2 (es.length / 64) ++ leBytes 1 c.cap.sbK.toNat ++ leBytes 1 n
    ++ leBytes 1 (c.inst n).gen.toNat ++ [0, 0, 0] ++ leBytes 2 c.cap.sbLastMf.toNat ++ [0, 0]
    ++ leBytes 4 (c.inst n).samples.toNat ++ List.replicate 40 0 ++ es

/-- What of a dump is written to a buffer of `len` bytes: the header and as many whole entries as fit (R194). -/
def dumpCut (len : Nat) (bs : List Byte) : List Byte := if len < 64 then [] else bs.take (len / 64 * 64)

/-- Nodes on which an instance of this node has endpoints, in ascending order. -/
def Chip.farNodes (c : Chip) (n : Nat) : List Nat :=
  (List.range 16).filter (fun k =>
      c.slots.any (fun s => decide (256 ≤ s.1) && s.1 / 256 == k + 1 && s.2.owner.toNat == n && !(c.slotEps s.1).isEmpty))

/-! ### Capture registers -/

/-- A BUS field at bits [13:8] as a write leaves it: a reserved encoding keeps the value before (R6). -/
def newBus (old val : Word) : Nat := if (codeBus (fld val 13 8)).isSome then fld val 13 8 else fld old 13 8

/-- A write of SB_SEL (R6, R193): the entry of the queue that the register then selects, or zeros. -/
def Chip.sbSelect (c : Chip) (val : Word) : Chip :=
  let place := fld val 7 0
  let bus := newBus c.cap.sbSel val
  let ws := match codeBus bus with
    | some b => if c.placeUsed b place then c.sbEntry b place else []
    | none => []
  { c with cap := { c.cap with sbSel := toWord (place + 2 ^ 8 * bus), sbData := wordTbl ws } }

/-- REF_DATA0 to REF_DATA3 (R190). -/
def Chip.refWords (c : Chip) (b place what : Nat) : List Nat :=
  let q := c.queue (qKey b place)
  let x := c.bus b
  let compat := decide (place < 128) && (c.inst place).compat
  let free := c.unshaped place
  if what = 0 then
    [if free then 0xFFFFFF else q.cir.toNat, if free then 0xFFFFFF else q.pir.toNat, q.cbs.toNat, q.pbs.toNat]
  else if what = 1 then
    let f := q.far.getD (0, place)
    [c.weightOf b place + 2 ^ 10 * c.colourCode b place + flagAt compat 12 + flagAt true 13 + 2 ^ 14 * f.1 + 2 ^ 18 * f.2,
      q.s.toNat, q.f.toNat, q.s.toNat / 2 ^ 32 + 2 ^ 8 * (q.f.toNat / 2 ^ 32)]
  else if what = 2 then
    [signed 25 q.ctok + flagAt (free || q.cir == unlimited) 31, signed 25 q.ptok + flagAt (free || q.pir == unlimited) 31,
      q.services.toNat, q.lenKib]
  else
    let es := c.eligible b
    let act := (c.places b es).filter (fun p => es.any (fun e => c.placeOf b (keySlot e.1) == p) && c.colour b p != .red)
    [x.v.toNat, x.v.toNat / 2 ^ 32 + 2 ^ 8 * act.length, x.decisions.toNat, x.yellow.toNat]

/-- A write of REF_SEL (R6, R190): a reserved BUS captures zeros, and leaves the field as it was. -/
def Chip.refSelect (c : Chip) (val : Word) : Chip :=
  let place := fld val 7 0
  let what := fld val 15 14
  let ws := match codeBus (fld val 13 8) with
    | some b => if what = 3 ∨ c.placeUsed b place = true then c.refWords b place what else []
    | none => []
  { c with cap := { c.cap with refSel := toWord (place + 2 ^ 8 * newBus c.cap.refSel val + 2 ^ 14 * what), refData := wordTbl ws } }

/-- LINEUP_DATA (R127), as a read of it finds it. -/
def Chip.lineupData (c : Chip) : Word :=
  let v := c.cap.lineupSel
  match codeBus (fld v 13 8) with
  | none => 0
  | some b =>
    let s := fld v 7 0
    let ws := c.slotWords b s
    let ps := c.busPeps b
    match fld v 15 14 with
    | 0 =>
      match ws[fld v 23 16]? with
      | some w => toWord (w + 2 ^ 16)
      | none => 0
    | 1 => toWord (slotLoad ps s + 2 ^ 20 * ws.length)
    | 2 => toWord ((List.range 256).foldl (fun m k => max m (slotLoad ps k)) 0 + 2 ^ 20 * ps.length)
    | _ => (c.bus b).miss

/-- Quotas in the layouts of MGR_ARG1 to MGR_ARG3 (R118, R241). -/
def Quota.words (q : Quota) : List Nat :=
  [q.slots + 2 ^ 16 * q.peps, q.eps + 2 ^ 16 * q.streams, q.crings + 2 ^ 8 * q.vectors + 2 ^ 16 * q.chans]

/-- INST_STS.STATE (R236). -/
def InstSt.code (s : InstSt) : Nat :=
  match s with
  | .absent => 0
  | .created => 1
  | .active => 2
  | .frozen => 3
  | .resetting => 4
  | .linkLost => 5

/-- A write of POOL_SEL (R6, R241): WHAT 3 captures zeros, and leaves the field as it was. -/
def Chip.poolSelect (c : Chip) (val : Word) : Chip :=
  let n := fld val 6 0
  let x := c.inst n
  let info := x.st.code + 2 ^ 8 * x.gen.toNat + flagAt x.compat 16
  let u := c.unreserved
  let ws := match fld val 9 8 with
    | 0 => x.quota.words ++ [info]
    | 1 => (c.use n).words ++ [info]
    | 2 => [u.slots + 2 ^ 16 * u.peps, u.eps + 2 ^ 16 * u.streams, u.crings + 2 ^ 10 * u.vectors, 2 ^ 17 * u.chans]
    | _ => []
  { c with cap := { c.cap with
    poolSel := toWord (n + 2 ^ 8 * (if fld val 9 8 = 3 then fld c.cap.poolSel 9 8 else fld val 9 8)), poolData := wordTbl ws } }

end Sys2Proof.Machine
end

