-- ==== Sys2Proof/Machine/Transfers.lean ====
section
/-! DEFINITION. What the end of a transaction or burst does to its endpoint (R133, R137, R146, R147, R153 to R163, R170 to
R172), and the start of a bus micro-frame (R140). -/

namespace Sys2Proof.Machine

/-! ### Pieces of an outcome -/

/-- The ring an endpoint is served from. -/
def Chip.epRing (c : Chip) (key : Nat) : Ring := c.ring (c.ringHome (keySlot key)) (c.ep key).headRing
def Chip.updEpRing (c : Chip) (key : Nat) (f : Ring → Ring) : Chip :=
  c.updRing (c.ringHome (keySlot key)) (c.ep key).headRing f

def Chip.isCtrl (c : Chip) (key : Nat) : Bool := (c.ep key).ty == .control
def Chip.isIso (c : Chip) (key : Nat) : Bool := (c.ep key).ty == .isoch

/-- The TD ends with a code at the element it has reached. -/
def Chip.endWith (c : Chip) (key : Nat) (code : Byte) : Chip :=
  let r := c.epRing key
  c.endTd key (if c.isCtrl key then r.endCtrl code else r.endAt code)

/-- Bytes that came in for a far owner leave as DATA_IN frames, kept until E2E_ACK: the cells that R12 allocated for them stay
taken (R358). -/
def Chip.dataIn (c : Chip) (key len : Nat) : Chip :=
  let off := (c.epRing key).td.moved
  let id := match (c.epRing key).ids with | i :: _ => i.1 | [] => 0
  let node := instNode (c.ringHome (keySlot key))
  (List.range (cdiv len 2048)).foldl (fun c j =>
    let k := cellsFor (min 2048 (len - 2048 * j))
    ((c.sendFrame node 0x02 (id + 2 ^ 16 * (off + 2048 * j)) ((c.ep key).ty == .isoch
        || (c.ep key).ty == .interrupt)).takeCells key k).updEp
      key (fun e => { e with kept := e.kept ++ [k] })) c

/-- Bytes come in: written to their buffers (R14, R284) and counted; the toggle changes, STRIKES and the cadence are
reset (R156, R167, R170). -/
def Chip.takeIn (c : Chip) (key len now : Nat) : Chip :=
  let n := c.ringHome (keySlot key)
  let d := (c.epRing key).dataAt (c.isCtrl key)
  let ps := cutAll (pieces d.2.1 d.1 d.2.2 len)
  let c := if 128 ≤ n then c.dataIn key len
    else { c with out := (ps.map (fun (p : Addr × Nat) => Out.hostWrite n p.1 p.2)).reverse ++ c.out }
  (c.updEpRing key (fun r => { r with td := { r.td with moved := r.td.moved + len, last := lastDword r.td.last ps } })).updEp key
    (fun e => { e with seq := e.seq ^^^ 1, strikes := 0, rally := e.rally.ease now })

/-- Bytes have gone out and count as moved; their cells are free. -/
def Chip.sentOut (c : Chip) (key len : Nat) : Chip :=
  ((c.unstage key).updEpRing key (fun r => { r with td := { r.td with moved := r.td.moved + len } })).updEp key
    (fun e => { e with seq := e.seq ^^^ 1, strikes := 0 })

/-- Bytes moved with ACK: Rally's data (R167). A packet without bytes moves none and leaves the cadence. DEDUCED, log entry 61. -/
def Chip.eased (c : Chip) (key len now : Nat) : Chip :=
  if len = 0 then c else c.updEp key (fun e => { e with rally := e.rally.ease now })

/-- A transaction of the TD has run, in the bus micro-frame that its record's TIMESTAMP names (R68). -/
def Chip.ranOnly (c : Chip) (key : Nat) (mf : BitVec 16) : Chip :=
  c.updEpRing key (fun r => { r with td := { r.td with mf := some mf } })

def Chip.calm (c : Chip) (key : Nat) : Chip := c.updEp key (fun e => { e with strikes := 0 })

/-- One strike; the third in a row ends the TD with XACT_ERR (R170, R171). -/
def Chip.strike (c : Chip) (key : Nat) : Chip :=
  let c := c.updEp key (fun e => { e with strikes := min 3 (e.strikes + 1) })
  if 3 ≤ (c.ep key).strikes then c.endWith key ccXactErr else c

/-- Bytes left of the TD, among those that are there. -/
def Ring.left (r : Ring) (ctrl : Bool) : Nat :=
  if ctrl then 8 + r.ctrlLen - r.td.moved else (r.avail false).1 - r.td.moved

/-- After bytes moved on a TD that is not a control TD: SUCCESS when LENGTH is satisfied, SHORT after a short packet
(R156, R157). -/
def Chip.afterMove (c : Chip) (key : Nat) (short : Bool) : Chip :=
  let r := c.epRing key
  let a := r.avail false
  if a.2 && decide (a.1 ≤ r.td.moved) then c.endTd key (r.endNth ((headTd r.elems).length - 1) ccSuccess)
  else if short then c.endTd key (r.endAt ccShort)
  else c

/-- The toggle that a control stage begins with (R153): DATA1 on USB 2.0, sequence number 0 on SuperSpeed. -/
def stageSeq (path : Path) : BitVec 5 := if path = .ss then 0 else 1

/-- After bytes moved in the DATA stage (R154); STATUS begins with DATA1 (R153). -/
def Chip.afterData (c : Chip) (key : Nat) (short : Bool) : Chip :=
  let r := c.epRing key
  let whole := decide (8 + r.ctrlLen ≤ r.td.moved)
  if whole || short then
    (c.updEpRing key (fun r => { r with td := { r.td with
      stage := .status, short := short && !whole, shortOk := (r.elems.getD 1 {}).shortOk } })).updEp key
      (fun e => { e with seq := stageSeq (c.path key) })
  else c

/-- The STATUS stage has ended: SUCCESS, or SHORT after a short DATA stage (R153, R154). -/
def Chip.afterStatus (c : Chip) (key : Nat) : Chip :=
  let c := c.updEpRing key (fun r => { r with td := { r.td with stage := .done } })
  c.endWith key (if (c.epRing key).td.short then ccShort else ccSuccess)

/-- SETUP acknowledged: its 8 bytes have moved, and the data toggle is set for the stage that follows (R153). -/
def Chip.afterSetup (c : Chip) (key now : Nat) : Chip :=
  (c.updEpRing key (fun r => { r with td := { r.td with
    moved := 8, stage := if r.ctrlLen = 0 then .status else .data } })).updEp key
    (fun e => { e with seq := stageSeq (c.path key), strikes := 0, rally := e.rally.ease now })

/-- An IN packet arrives: within what is left, or babble (R156, R172). -/
def Chip.inPacket (c : Chip) (key len now : Nat) : Chip :=
  let e := c.ep key
  let ctrl := c.isCtrl key
  let left := (c.epRing key).left ctrl
  if e.maxPacket < len then c.endWith key ccBabble
  else if left < len then (c.takeIn key left now).endWith key ccBabble
  else
    let c := c.takeIn key len now
    if ctrl then c.afterData key (decide (len < e.maxPacket)) else c.afterMove key (decide (len < e.maxPacket))

/-- An OUT packet of the plan has been taken by the device. -/
def Chip.outPacket (c : Chip) (key len : Nat) : Chip :=
  let c := c.sentOut key len
  if c.isCtrl key then c.afterData key false else c.afterMove key false

/-! ### Asynchronous USB 2.0 -/

/-- The direction under whose class a stage is paced (R164). -/
def Plan.pacedIn (p : Plan) : Bool := p.inn

/-- The answer to a SETUP (R153, R155, R159, R172): ACK; NYET is no strike (R170), and the SETUP is sent again; a device that still
transmits at the end-of-frame point babbles; ERR is the translator's; all else is a strike. -/
def Chip.setupAnswer (c : Chip) (key : Nat) (r : XactEnd) (now : Nat) : Chip :=
  match r with
  | .ack => c.afterSetup key now
  | .nyet => c
  | .babble _ => c.endWith key ccBabble
  | .ttErr => (c.calm key).endWith key ccTtErr
  | .nak | .stall | .data _ _ | .resent _ | .error => c.strike key

/-- The device's own answer to a transaction, on a root port or passed back by a translator (R153 to R159). A handshake or a data
packet that does not belong to the token is a garbled one: a strike. DEDUCED, log entry 62. -/
def Chip.answer (c : Chip) (key : Nat) (p : Plan) (r : XactEnd) (now : Nat) : Chip :=
  let hs := c.path key == .hs
  if p.setup then c.setupAnswer key r now
  else
    match r with
    | .ack =>
      if p.inn then c.strike key
      else if p.status then (c.calm key).afterStatus key
      else (c.eased key p.len now).outPacket key p.len
    | .nyet =>
      if p.inn then c
      else if p.status then ((c.calm key).afterStatus key).notReady key now false
      else
        let c := (c.outPacket key p.len).notReady key now false
        if hs then c.updEp key (fun e => { e with pingDue := true }) else c
    | .nak =>
      let c := c.notReady key now p.inn
      if hs && !p.inn && !p.status then c.updEp key (fun e => { e with pingDue := true }) else c
    | .stall => (c.calm key).endWith key ccStall
    | .data len _ =>
      if !p.inn then c.strike key
      else if p.status then
        (if len = 0 then ((c.calm key).updEp key (fun e => { e with rally := e.rally.ease now })).afterStatus key
         else c.endWith key ccBabble)
      else c.inPacket key len now
    | .resent _ => c
    | .error => c.strike key
    | .babble _ => c.endWith key ccBabble
    | .ttErr => (c.calm key).endWith key ccTtErr

/-- A PING answered (R158). -/
def Chip.pingEnd (c : Chip) (key : Nat) (r : XactEnd) (now : Nat) : Chip :=
  match r with
  | .ack => c.updEp key (fun e => { e with pingDue := false, strikes := 0, rally := e.rally.pingAck now })
  | .nak => c.notReady key now false
  | .stall => (c.calm key).endWith key ccStall
  | .nyet => c
  | .babble _ => c.endWith key ccBabble
  | .data _ _ | .resent _ | .error | .ttErr => c.strike key

/-- A non-periodic split (R159): the start-split, then the complete-split. -/
def Chip.splitEnd (c : Chip) (key : Nat) (p : Plan) (r : XactEnd) (now : Nat) : Chip :=
  if p.csplit then
    match r with
    | .nyet => c.notReady key now p.inn
    | .error => c.strike key
    | .resent _ => c.updEp key (fun e => { e with split := false })
    | r => (c.updEp key (fun e => { e with split := false })).answer key p r now
  else
    match r with
    | .ack => c.updEp key (fun e => { e with split := true, strikes := 0 })
    | .nak => c.notReady key now p.inn
    | .nyet => c
    | .babble _ => c.endWith key ccBabble
    | .stall | .data _ _ | .resent _ | .error | .ttErr => c.strike key

/-- What a service carried: payload bytes and data packets (R179). -/
def Plan.carried (p : Plan) (r : XactEnd) (path : Path) : Nat × Nat :=
  if p.ping then (0, 0)
  else if path = .split ∧ p.csplit = false then
    if r = .ack ∧ p.inn = false then (p.len, 1) else (0, 0)
  else
    match r with
    | .ack | .nyet =>
      if p.setup then (if path = .split then (0, 0) else (8, 1))
      else if path = .split ∨ p.inn = true then (0, 0) else (p.len, 1)
    | .data len _ => (len, 1)
    | .resent len => (len, 1)
    | .nak | .stall | .babble _ | .error | .ttErr => (0, 0)

/-! ### The SET_ADDRESS transfer -/

/-- A SET_ADDRESS transfer ends: the slot becomes Addressed, or keeps its earlier state (R102). -/
def Chip.setAddrEnd (c : Chip) (key : Nat) (code : Byte) : Chip :=
  match (c.ep key).setAddr with
  | none => c
  | some a =>
    let sk := keySlot key
    let c := c.updEp key (fun e => { e with setAddr := none, saStage := .setup, split := false, strikes := 0 })
    if code = ccSuccess then
      let c := c.updSlot sk (fun s => { s with st := .addressed, addr := a.addr, prev := a.addr })
      c.finish a.inst a.cmd ccSuccess (a.addr.toNat + flagAt a.kept 7)
    else
      let c := c.updSlot sk (fun _ => a.old)
      let c := if a.old.st = .enabled then c.clearEp key false
        else c.updEp key (fun e => { e with maxPacket := a.old.mps0.toNat })
      c.finish a.inst a.cmd ccAborted code.toNat

def Chip.setAddrStrike (c : Chip) (key : Nat) : Chip :=
  let c := c.updEp key (fun e => { e with strikes := min 3 (e.strikes + 1) })
  if 3 ≤ (c.ep key).strikes then c.setAddrEnd key ccXactErr else c

/-- The SETUP of SET_ADDRESS is acknowledged (R153). -/
def Chip.setAddrSent (c : Chip) (key now : Nat) : Chip :=
  c.updEp key (fun e =>
      { e with split := false, saStage := .status, strikes := 0, seq := stageSeq (c.path key), rally := e.rally.ease now })

/-- A stage of SET_ADDRESS is answered on USB 2.0 (R102, R153, R155, R159, R170, R172). -/
def Chip.setAddrStep (c : Chip) (key : Nat) (r : XactEnd) (now : Nat) : Chip :=
  let e := c.ep key
  let split := c.path key == .split
  let setup := e.saStage == .setup
  if split && !e.split then
    match r with
    | .ack => c.updEp key (fun e => { e with split := true, strikes := 0 })
    | .nak => c.notReady key now (!setup)
    | .nyet => c
    | .babble _ => c.setAddrEnd key ccBabble
    | .stall | .data _ _ | .resent _ | .error | .ttErr => c.setAddrStrike key
  else
    let clear (c : Chip) : Chip := c.updEp key (fun e => { e with split := false })
    match r with
    | .ttErr => c.setAddrEnd key ccTtErr
    | .nyet => if split then c.notReady key now (!setup) else c
    | .ack => if setup then c.setAddrSent key now else (clear c).setAddrStrike key
    | .data len _ =>
      if setup then (clear c).setAddrStrike key
      else if len = 0 then (c.updEp key (fun e => { e with rally := e.rally.ease now })).setAddrEnd key ccSuccess
      else c.setAddrEnd key ccBabble
    | .nak => if setup then (clear c).setAddrStrike key else (clear c).notReady key now true
    | .stall => if setup then (clear c).setAddrStrike key else c.setAddrEnd key ccStall
    | .resent _ => clear c
    | .babble _ => c.setAddrEnd key ccBabble
    | .error => if split then c.setAddrStrike key else (clear c).setAddrStrike key

/-- A stage of SET_ADDRESS is answered on a SuperSpeed bus (R102, R153, R161). -/
def Chip.setAddrBurst (c : Chip) (key : Nat) (r : BurstEnd) (now : Nat) : Chip :=
  if r.strike then c.setAddrStrike key
  else if r.stall then c.setAddrEnd key ccStall
  else if r.nrdy then c.updEp key (fun e => { e with nrdy := true, strikes := 0 })
  else if (c.ep key).saStage = .setup then c.setAddrSent key now
  else c.setAddrEnd key ccSuccess

/-! ### Periodic USB 2.0 -/

/-- An isochronous service ends (R146): its code, or SHORT or SUCCESS by what moved. -/
def Chip.isoEnd (c : Chip) (key : Nat) (code : Option Byte) : Chip :=
  let r := c.epRing key
  let x := r.elems.headD {}
  let full := decide (x.len ≤ r.td.moved)
  let code := code.getD (if full then ccSuccess else ccShort)
  let c := c.updEp key (fun e => { e with split := false })
  c.endTd key { r.endNth 0 code with stopShort := code == ccShort && !x.shortOk }

/-- Whether another packet of a high-bandwidth opportunity follows (R133). -/
def Chip.moreInOpp (c : Chip) (key : Nat) : Bool := decide ((c.epRing key).td.inOpp ≤ (c.ep key).mult)

def Chip.countOpp (c : Chip) (key : Nat) : Chip :=
  c.updEpRing key (fun r => { r with td := { r.td with inOpp := r.td.inOpp + 1 } })
def Chip.endOpp (c : Chip) (key : Nat) : Chip :=
  c.updEpRing key (fun r => { r with td := { r.td with inOpp := 0 } })

/-- Bytes of the next packet of an isochronous OUT element. -/
def Chip.isoOutLen (c : Chip) (key part : Nat) : Nat :=
  let r := c.epRing key
  let x := r.elems.headD {}
  let size := if c.path key == .split then 188 else (c.ep key).maxPacket
  if part = 0 ∧ c.path key = .split then x.len else min size (x.len - r.td.moved)

/-- One isochronous transaction at the bus's own speed has ended; `true`: another packet of the opportunity follows. -/
def Chip.isoXact (c : Chip) (key : Nat) (r : XactEnd) (now : Nat) : Chip × Bool :=
  let e := c.ep key
  if keyIn key then
    match r with
    | .data len last =>
      let left := (c.epRing key).left false
      if e.maxPacket < len then (c.isoEnd key (some ccMissed), false)
      else if left < len then ((c.takeIn key left now).isoEnd key (some ccBabble), false)
      else
        let c := (c.takeIn key len now).countOpp key
        if last || decide (len < e.maxPacket) || decide ((c.epRing key).left false = 0) || !c.moreInOpp key then
          (c.isoEnd key none, false)
        else (c, true)
    | _ => (c.isoEnd key (some ccMissed), false)
  else
    let n := c.isoOutLen key 1
      let c := c.updEpRing key (fun r => { r with td := { r.td with moved := r.td.moved + n, inOpp := r.td.inOpp + 1 } })
    if (c.epRing key).td.moved < ((c.epRing key).elems.headD {}).len ∧ c.moreInOpp key = true then (c, true)
    else (c.isoEnd key none, false)

/-- One interrupt transaction at the bus's own speed has ended (R147). -/
def Chip.intXact (c : Chip) (key : Nat) (r : XactEnd) (now : Nat) : Chip × Bool :=
  let e := c.ep key
  let p := ((c.epRing key).plan (c.path key) e (keyIn key)).getD { inn := keyIn key, len := 0 }
  match r with
  | .data len last =>
    if keyIn key then
      let c := (c.inPacket key len now).countOpp key
      if (c.epRing key).td.begun && decide (len = e.maxPacket) && !last && c.moreInOpp key && (c.ep key).st == .running then (c, true)
      else (c.endOpp key, false)
    else ((c.strike key).endOpp key, false)
  | .ack | .nyet =>
    if keyIn key then ((if r == .nyet then c else c.strike key).endOpp key, false)
    else
      let staged := (c.ep key).staged
      let c := (c.outPacket key p.len).countOpp key
      if (c.epRing key).td.begun && c.moreInOpp key && (c.ep key).st == .running && staged then
        (c.updEp key (fun e => { e with staged := true }), true)
      else (c.endOpp key, false)
  | .nak => ((c.calm key).endOpp key, false)
  | .stall => (((c.calm key).endWith key ccStall), false)
  | .resent _ => (c.endOpp key, false)
  | .error => ((c.strike key).endOpp key, false)
  | .babble _ => (c.endWith key ccBabble, false)
  | .ttErr => (c.endWith key ccTtErr, false)

/-- A periodic split has ended (R136, R137). -/
def Chip.periodicSplit (c : Chip) (key : Nat) (o : OnBus) (r : XactEnd) (now : Nat) : Chip :=
  let iso := c.isIso key
  let inn := keyIn key
  if o.kind = 1 then
    if iso && !inn then
      let n := c.isoOutLen key o.part
          let c := c.updEpRing key (fun r => { r with td := { r.td with moved := r.td.moved + n } })
      let c := c.updEp key (fun e => { e with split := true })
      if ((c.epRing key).elems.headD {}).len ≤ (c.epRing key).td.moved then c.isoEnd key none else c
    else c.updEp key (fun e => { e with split := true })
  else
    let off (c : Chip) : Chip := c.updEp key (fun e => { e with split := false })
    match r with
    | .nyet =>
      if !o.last then c.calm key
      else if iso then c.isoEnd key (some ccMissed)
      else (off c).strike key
    | .ttErr => if iso then c.isoEnd key (some ccMissed) else (c.calm key).endWith key ccTtErr
    | .data len last =>
      if iso then
        let left := (c.epRing key).left false
        if left < len then (c.takeIn key left now).isoEnd key (some ccBabble)
        else
          let c := c.takeIn key len now
          if last then c.isoEnd key none else if o.last then c.isoEnd key (some ccMissed) else c
      else if inn then ((off c).inPacket key len now)
      else (off c).strike key
    | .ack => if iso then c else if inn then (off c).strike key
        else (off c).outPacket key (((c.epRing key).plan .split (c.ep key) false).getD { inn := false, len := 0 }).len
    | .nak => (off c).calm key
    | .stall => ((off c).calm key).endWith key ccStall
    | .resent _ => off c
    | .babble _ => if iso then c.isoEnd key (some ccMissed) else c.endWith key ccBabble
    | .error => if iso then c.isoEnd key (some ccMissed) else (off c).strike key

/-- A service endpoint fails: the service's own transfer ends and its endpoint halts; that of a shared device stays Running under the
service (R262, R274). -/
def Chip.serviceHalt (c : Chip) (key : Nat) : Chip :=
  if (c.slot (keySlot key)).shared.isSome then c.updEp key (fun e => { e with strikes := 0, split := false })
  else c.updEp key (fun e => { e with st := .halted, split := false })

def Chip.serviceStrike (c : Chip) (key : Nat) : Chip :=
  let c := c.updEp key (fun e => { e with strikes := min 3 (e.strikes + 1) })
  if 3 ≤ (c.ep key).strikes then c.serviceHalt key else c

/-- A service endpoint's transaction: only its toggle, strikes and state are the data plane's (R262); through a translator its split
transactions run as R136 and R137 give. -/
def Chip.serviceXact (c : Chip) (key : Nat) (o : OnBus) (r : XactEnd) : Chip :=
  if o.kind = 1 then c.updEp key (fun e => { e with split := true })
  else
    let off (c : Chip) : Chip := c.updEp key (fun e => { e with split := false })
    match r with
    | .data _ _ =>
      let shared := (c.slot (keySlot key)).shared.isSome
      let c := (off c).updEp key (fun e => { e with
        seq := e.seq ^^^ 1, strikes := 0, unread := if shared then e.unread + 1 else e.unread })
      if shared then c.takeCells key 1 else c
    | .nak => (off c).calm key
    | .nyet => if o.kind != 2 || !o.last then c.calm key else (off c).serviceStrike key
    | .resent _ => off c
    | .ack | .error => (off c).serviceStrike key
    | .stall | .babble _ | .ttErr => (c.calm key).serviceHalt key

/-! ### Port errors met on the bus -/

/-- Babble at the end-of-frame point disables the port (R172, R207). -/
def Chip.portBabble (c : Chip) (b : Nat) : Chip :=
  if (c.port b).st = pEnabled then
    (c.updPort b (fun p => { p with st := pDisabled, babble := p.babble + 1, disabled := p.disabled + 1 })).portChange b
      (chEnable + chLinkErr) 0
  else c

/-- The LPM transaction of PORT_SUSPEND with L1 has ended (R207, R214). -/
def Chip.lpmEnd (c : Chip) (b : Nat) (r : XactEnd) : Chip :=
  let p := c.port b
  let done (c : Chip) (k : Nat) : Chip := (c.updPort b (fun p => { p with suspendCmd := none })).finishRef p.suspendCmd ccSuccess k
  match r with
  | .ack =>
    if p.st = pEnabled then
      let c := (c.updPort b (fun p => { p with st := pL1, besl := p.askBesl, devResumed := false })).portChange b chSuspend 0
      done c 0
    else c
  | .nyet => done c 1
  | .stall => done c 2
  | _ => done c 3

/-! ### The end of a USB 2.0 transaction -/

def isEof (r : XactEnd) : Bool :=
  match r with
  | .babble eof => eof
  | _ => false

/-- The first check of R15 on what the bus returns for an endpoint, at once with the stops that drop results (R250). -/
def Chip.stale (c : Chip) (o : OnBus) : Bool :=
  let e := c.ep o.key
  let n := c.ringHome (keySlot o.key)
  e.stop == some .drop || o.epoch != e.epoch || (decide (n < 128) && o.gen != (c.inst n).gen)

/-- What the outcome of a transaction finds: its TD, which is in progress whatever state its endpoint has come to since (R14). -/
def Chip.hasTd (c : Chip) (key : Nat) : Bool := (c.epRing key).td.begun && (c.epRing key).td.ended.isNone

/-- Another packet of the opportunity follows where it can; passed over for want of a cell, it is counted (R133, R142). -/
def Chip.nextPacket (c : Chip) (b : Nat) (o : OnBus) (more : Bool) : Chip :=
  if more && (c.bus b).on.isNone then
    (match c.turn b o.key o.kind true with
     | .run p => c.launch b o.key p o
     | .noCell => ((c.missCell b o.key true).endOpp o.key).kick b
     | .pass => (c.endOpp o.key).kick b)
  else c.kick b

/-- The step lies `us` after the tick (R121). -/
def Chip.at_ (c : Chip) (us : Nat) : Chip := { c with usNow := max c.usNow (min us 124) }

/-- USB2_TRANSACTION_END: the outcome, the Referee's charge, and the bus's next work (R156, R180, R186). -/
def Chip.usb2End (c : Chip) (b : Nat) (r : XactEnd) (pos us : Nat) : Chip :=
  let c := c.at_ us
  match (c.bus b).on with
  | none => c
  | some o =>
    let c := c.updBus b (fun x => { x with on := none, pos := pos })
    let now := c.us + us
    if o.lpm then (c.lpmEnd b r).kick b
    else
      let key := o.key
      let e := c.ep key
      let path := c.path key
      let plan := if o.sa then e.setAddrPlan.onPath path e
        else (((c.epRing key).plan path e (keyIn key)).getD { inn := keyIn key, len := 0 }).onPath path e
      let c := if plan.inn || (o.periodic && keyIn key) then c.freeCells key else c
      let c := if o.periodic then c
        else
          let k := plan.carried r path
          c.charge b o.place ((c.bus b).shaped true k.1 k.2)
      let stale := c.stale o
      let n := c.ringHome (keySlot key)
      let c := if stale && n < 128 then c.countDrops n 1 else c
      let c := if o.sa || e.service || stale then c else c.ranOnly key o.mf
      let x : Chip × Bool :=
        if o.sa then (c.setAddrStep key r now, false)
        else if e.service then (c.serviceXact key o r, false)
        else if stale || !c.hasTd key then (c, false)
        else if o.periodic then
          (if o.kind = 1 ∨ o.kind = 2 then (c.periodicSplit key o r now, false)
           else if e.ty = .isoch then c.isoXact key r now
           else c.intXact key r now)
        else if o.ping then (c.pingEnd key r now, false)
        else if path = .split then (c.splitEnd key plan r now, false)
        else (c.answer key plan r now, false)
      let c := x.1
      let c := if isEof r then c.portBabble b else c
      (c.tend key).nextPacket b o x.2

/-! ### SuperSpeed -/

/-- The bytes of a burst, taken or sent (R160). -/
def Chip.burstData (c : Chip) (key : Nat) (r : BurstEnd) (now : Nat) : Chip :=
  let ctrl := c.isCtrl key
  let inn := if ctrl then (c.epRing key).ctrlIn else keyIn key
  let left := (c.epRing key).left ctrl
  let n := min r.bytes (if inn then left else min left (c.ep key).stagedLen)
  let seq := (c.ep key).seq + BitVec.ofNat 5 r.pkts
  let c := if inn then c.takeIn key n now else (c.eased key n now).sentOut key n
  let c := c.updEp key (fun e => { e with seq := seq })
  if inn && decide (left < r.bytes) then c.endWith key ccBabble
  else if ctrl then c.afterData key (inn && r.short)
  else c.afterMove key (inn && r.short)

/-- The answer of the device to a burst (R153, R160, R161, R163, R170). -/
def Chip.burst (c : Chip) (key : Nat) (r : BurstEnd) (now : Nat) : Chip :=
  let c := c.updEp key (fun e => { e with numP := r.numP })
  let stage := (c.epRing key).td.stage
  let ctrl := c.isCtrl key
  let idle := !r.strike && !r.nrdy && !r.stall && !r.babble
  let c :=
    if ctrl && stage == .setup then (if idle then c.afterSetup key now else c)
    else if ctrl && stage == .status then (if idle then (c.calm key).afterStatus key else c)
    else if 0 < r.pkts then c.burstData key r now
    else c
  let open' (c : Chip) : Bool := (c.epRing key).td.ended.isNone && (c.epRing key).td.begun && (c.ep key).st == .running
  if !open' c then c
  else
    let c := if r.babble then c.endWith key ccBabble
      else if r.stall then (c.calm key).endWith key ccStall
      else if r.strike then c.strike key
      else if r.nrdy then c.updEp key (fun e => { e with nrdy := true, strikes := 0 })
      else c.calm key
    if r.streamEnd && (c.ep key).maxStreams != 0 then c.updEp key (fun e => { e with stream := 0 }) else c

/-- A periodic SuperSpeed service of an isochronous endpoint: never retried (R146). -/
def Chip.isoBurst (c : Chip) (key : Nat) (r : BurstEnd) (now : Nat) : Chip × Bool :=
  let left := (c.epRing key).left false
  let n := min r.bytes left
  let inn := keyIn key
  let c := if inn then c.takeIn key n now
    else c.updEpRing key (fun x => { x with td := { x.td with moved := x.td.moved + n } })
  let c := c.countOpp key
  if r.strike || r.stall || r.nrdy then (c.isoEnd key (some ccMissed), false)
  else if left < r.bytes || r.babble then (c.isoEnd key (some ccBabble), false)
  else if r.short || decide ((c.epRing key).left false = 0) || !c.moreInOpp key then (c.isoEnd key none, false)
  else (c, true)

/-- SS_BURST_END (R160). -/
def Chip.ssEnd (c : Chip) (p : Nat) (r : BurstEnd) (us : Nat) : Chip :=
  let b := 24 + p
  let c := c.at_ us
  match (c.bus b).on with
  | none => c
  | some o =>
    let key := o.key
    let e := c.ep key
    let now := c.us + us
    let c := (c.updBus b (fun x => { x with on := none })).freeCells key
    let plan := if o.sa then some e.setAddrPlan else (c.epRing key).plan .ss e (keyIn key)
    let setup := plan.any (fun q => q.setup)
    let sent := setup && !r.strike
    let c := if o.periodic then c
      else c.charge b o.place ((c.bus b).shaped false (if sent then 8 else r.bytes) (if sent then 1 else r.pkts))
    let stale := c.stale o
    let n := c.ringHome (keySlot key)
    let c := if stale && n < 128 then c.countDrops n 1 else c
    let c := if o.sa || e.service || stale then c else c.ranOnly key o.mf
    let x : Chip × Bool :=
      if o.sa then (c.setAddrBurst key r now, false)
      else if e.service then (if r.stall then c.serviceXact key o .stall else if r.strike then c.serviceXact key o .error
        else if r.nrdy then c.updEp key (fun e => { e with nrdy := true }) else c.serviceXact key o (.data r.bytes true), false)
      else if stale || !c.hasTd key then (c, false)
      else if o.periodic && e.ty == .isoch then c.isoBurst key r now
      else (c.burst key r now, false)
    let c := x.1.updEp key (fun e => { e with staged := if x.2 then e.staged else false })
    (c.tend key).nextPacket b o x.2

/-- The endpoint hears ERDY (R161): it is Running, or EP 0x00 carries the chip's own SET_ADDRESS. DEDUCED, log entry 63. -/
def Ep.hears (e : Ep) : Bool := e.st == .running || e.setAddr.isSome

/-- ERDY_RECEIVED (R161, R163): it ends the wait at once, or is remembered until the next TD begins where none is filed. -/
def Chip.erdy (c : Chip) (key stream numP : Nat) : Chip :=
  let e := c.ep key
  if !e.hears then c
  else if e.maxStreams = 0 then
    let now := e.setAddr.isSome || (c.epRing key).filed
    (c.updEp key (fun e =>
      if now then { e with nrdy := false, erdy := false, numP := numP } else { e with erdy := true, numP := numP })).stir key
  else
    let valid := decide (1 ≤ stream) && decide (stream ≤ 2 ^ e.maxStreams)
    if valid && c.streamFiled key stream then
      let c := c.updEp key (fun e => { e with nrdy := false, named := stream, stream := stream, lastStream := stream, numP := numP })
      c.stir key
    else
      let c := c.emit (.noWork (keySlot key) (keyBit key))
      if valid then
        c.updEp key (fun e =>
            { e with named := stream, nrdy := false, wanted := if e.wanted.contains stream then e.wanted else e.wanted ++ [stream] })
      else c

/-! ### Host-memory answers -/

/-- The confirming read of an ended TD returns: the one for a CHAIN_MID record is followed by that of the rest. -/
def DoneTd.confirm (d : DoneTd) (ok : Bool) : DoneTd :=
  if !ok then
    { d with confirming := false, early := none, code := ccHostMem, moved := d.sure, fixed := none, late := false
             mids := d.mids.filter (fun m => decide (m.upto ≤ d.sure)) }
  else
    match d.early with
    | some b => { d with early := none, sure := b, confirming := decide (b < d.moved) }
    | none => { d with confirming := false }

/-- The rings of an endpoint, with their instances: its own, and those of its views (R274). -/
def Chip.ringsOf (c : Chip) (key : Nat) : List (Nat × Nat) :=
  (c.ep key).rings.map (fun k => (c.ringHome (keySlot key), k)) ++ (c.ep key).views.map (fun v => (v.1, v.2.ring))

/-- What a confirming read that is not stale confirms (R14, R65, R284, R285). -/
def Chip.confirmed (c : Chip) (key : Nat) (r : ReadEnd) : Chip :=
  match (c.ep key).done.find? (fun d => d.confirming) with
  | some d =>
    let c := c.updEp key (fun e => { e with
      done := updFirst (fun d => d.confirming) (fun d => d.confirm (r == .ok)) e.done
      st := if r ≠ .ok ∧ e.st ≠ .disabled ∧ e.service = false then .halted else e.st
      views := if r ≠ .ok ∧ e.service = true then Tbl.upd {} e.views d.inst (fun v => { v with st := .halted }) else e.views })
    if (d.confirm (r == .ok)).confirming then (c.fly key d.inst false).emit (.hostRead d.inst d.last 4) else c
  | none =>
    match (c.ringsOf key).find? (fun x => (c.ring x.1 x.2).td.confirming) with
    | none => c
    | some x =>
      c.updRing x.1 x.2 (fun t => { t with td := { t.td with
        confirming := false, sure := if r = .ok then t.td.confAt else t.td.sure, memErr := t.td.memErr || r != .ok } })

/-- A read of an endpoint has returned: what it carried no longer holds back a bump (R97, R249). -/
def Chip.released (c : Chip) (key n : Nat) : Chip := (c.payGen n).stir key

/-- CONFIRM_READ_DONE: the oldest confirming read of the endpoint; a stale one is dropped (R15). -/
def Chip.confirmRead (c : Chip) (key : Nat) (r : ReadEnd) : Chip :=
  match (c.ep key).landed false with
  | none => c
  | some (f, rest) =>
    let fresh := c.current key f.inst f.epoch f.gen
    let c := c.updEp key (fun e => { e with flights := rest })
    (if fresh then c.confirmed key r else c.countDrops f.inst 1).released key f.inst

/-- The host's data for a far OUT endpoint: the oldest TD whose read is outstanding is sent, or ends HOST_MEM_ERR and the
home node stops the endpoint (R13, R285, R358). -/
def Chip.farRead (c : Chip) (key : Nat) (r : ReadEnd) : Chip :=
  let n := c.ringHome (keySlot key)
  match (c.ep key).rings.find? (fun k => (c.ring n k).ids.any (fun i => i.2 == 1)) with
  | none => c
  | some k =>
    let id := (((c.ring n k).ids.find? (fun i => i.2 == 1)).getD (0, 0)).1
    let c := c.updRing n k (fun x => { x with ids := updFirst (fun i => i.2 == 1) (fun i => (i.1, if r = .ok then 2 else 3)) x.ids })
    if r = .ok then c.sendFrame (keySlot key / 256 - 1) 0x01 (id + 2 ^ 32 * key) ((c.ep key).ty == .isoch
        || (c.ep key).ty == .interrupt) else c

/-- OUT_DATA_READ_DONE (R13, R15, R285): the oldest read of OUT data; one that its endpoint has given up brings nothing. -/
def Chip.outRead (c : Chip) (key : Nat) (r : ReadEnd) : Chip :=
  match (c.ep key).landed true with
  | none => c
  | some (f, rest) =>
    let fresh := c.current key f.inst f.epoch f.gen
    let c := c.updEp key (fun e => { e with flights := rest })
    let c :=
      if !fresh then c.countDrops f.inst 1
      else if farKey (keySlot key) then c.farRead key r
      else if !(c.ep key).staging || rest.any (fun f => f.out) then c
      else if r = .ok then c.updEp key (fun e => { e with staging := false, staged := true })
      else (c.updEp key (fun e => { e with staging := false })).endWith key ccHostMem
    c.released key f.inst

/-- ISOCH_STAGE_DEADLINE: 2 µs before the opportunity the data is not there (R145). A frozen instance's TDs stay in progress
(R119). -/
def Chip.stageDeadline (c : Chip) (key : Nat) : Chip :=
  let e := c.ep key
  let r := c.epRing key
  if e.ty = .isoch ∧ keyIn key = false ∧ e.st = .running ∧ e.staged = false ∧ 0 < (r.elems.headD {}).len
      ∧ (c.inst (c.ringHome (keySlot key))).serves = true ∧ r.td.place = some ((c.bus (c.slotBus (keySlot key))).mf + 1)
          ∧ r.td.ended.isNone = true then
    (c.endTd key (r.endNth 0 ccDataBuf)).stir key
  else c

/-! ### The start of a bus micro-frame -/

/-- The isochronous element at the head of an endpoint as its bus's micro-frame begins: missed where its opportunity has passed (R74,
R144); DATA_BUF_ERR where it is due now and its data is not there (R145). A frozen instance's wait (R119). -/
def Chip.isoDue (c : Chip) (b key : Nat) : Chip :=
  let r := c.epRing key
  let finish (code : Byte) : Chip := (c.endTd key (r.endNth 0 code)).tend key
  match r.td.place with
  | some m =>
    let late := ((c.bus b).mf - m).toNat
    if !(c.inst (c.ringHome (keySlot key))).serves || c.onBus key || (c.ep key).split || r.td.ended.isSome then c.tend key
    else if 1 ≤ late ∧ late < 32768 then finish ccMissed
    else if c.tooLate key m then finish ccDataBuf
    else c.tend key
  | none => c.tend key

/-- An opportunity that has passed no longer orders the elements after it (R144). -/
def Ep.forget (e : Ep) (now : BitVec 16) : Ep :=
  match e.lastOpp with
  | some m => if 1 ≤ (now - m).toNat ∧ (now - m).toNat < 32768 then { e with lastOpp := none } else e
  | none => e

/-- The isochronous endpoints of a bus as its micro-frame begins. -/
def Chip.missIso (c : Chip) (b : Nat) : Chip :=
  c.eps.foldl (fun c e =>
    if e.2.ty = .isoch ∧ e.1 < 8192 ∧ c.slotBus (e.1 / 32) = b ∧ e.2.st = .running then
      (c.updEp e.1 (fun x => x.forget (c.bus b).mf)).isoDue b e.1
    else c) c

/-- A frame-based bus counts byte-times from its frame's start (R122). -/
def Chip.frameBus (c : Chip) (b : Nat) : Bool := decide (b < 24) && ((c.port b).speed == 1 || (c.port b).speed == 2)

/-- SOF or keep-alive is sent: each micro-frame at high speed, each frame at full and low speed, on an ENABLED port and
in RECOVERY (R18, R122, R140, R207). -/
def Chip.sendsSof (c : Chip) (b : Nat) : Bool :=
  decide (b < 24) && ((c.port b).st == pEnabled || (c.port b).st == pRecovery)
    && (!c.frameBus b || (c.bus b).mf.toNat % 8 == 0)

/-- Microseconds from the tick to the start of a bus's micro-frame (R18). -/
def busOffset (b : Nat) : Nat := if b < 24 then 4 * b else 4 * (b - 24) + 2

/-- BUS_MICROFRAME_START (R18, R126, R140 to R142). -/
def Chip.busStart (c : Chip) (b : Nat) : Chip :=
  let c := c.at_ (busOffset b)
  let n := c.mf
  let c := c.updBus b (fun x => { x with mf := n, pos := if c.frameBus b && n.toNat % 8 != 0 then x.pos else 0 })
  let c := c.applyLineup b
  let c := c.mapQueues (fun k q => if k / 256 = b then { q with redCounted := false } else q)
  let c := if c.sendsSof b then (c.updBus b (fun x => { x with noSof := false })).emit (.sof b n) else c
  let c := if 24 ≤ b then
      (match (c.bus b).on with
       | some o => if o.periodic then c else c.updBus b (fun x => { x with paused := some o, on := none })
       | none => c)
    else c
  let c := c.updBus b (fun x => { x with todo := c.lineup b n })
  (c.missIso b).kick b

end Sys2Proof.Machine
end

