-- ==== Sys2Proof/Machine/Rings.lean ====
section
/-! DEFINITION. Rings as software and the link act on them: elements as they arrive (R56 to R64, R85), doorbells (R52 to
R55), the ring registers (R50, R51), Huddle (R81, R82), the read after a decision (R446), MSI-X masks (R83), and the
notifications of orphaned slots (R251). -/

namespace Sys2Proof.Machine

/-! ### Elements -/

/-- Types that a transfer ring of an endpoint type takes (R58). -/
def tyOk (ty : EpTy) (t : Nat) : Bool :=
  match ty with
  | .control => t == 2 || t == 3 || t == 4 || t == 6
  | .isoch => t == 5 || t == 6
  | _ => t == 1 || t == 6

/-- What an element is checked against: the endpoint's type and direction, the most of one service interval, the ring's
stream, and whether CRING names a ring that is there. -/
structure ElemCtx where
  ty : EpTy
  inn : Bool
  most : Nat
  stream : Nat
  cringOk : Nat → Bool

/-- The rules of R58 that native and COMPAT elements share. -/
def typeRules (x : ElemCtx) (t len buffer cring : Nat) (chain asap : Bool) : Bool :=
  !tyOk x.ty t || !x.cringOk cring || (asap && t != 5)
    || (t == 1 && x.inn && len == 0)
    || (t == 2 && (len != 8 || buffer != 0))
    || ((t == 4 || t == 6) && (len != 0 || buffer != 0))
    || (t == 5 && (chain || decide (x.most < len)))

/-- A native element (R57, R58, R62). -/
def nativeElem (x : ElemCtx) (raw : List Byte) : Elem :=
  let t := leAt raw 0 1
  let fl := leAt raw 1 1
  let len := leAt raw 4 3
  let buffer := leAt raw 8 8
  let cring := leAt raw 7 1
  let frame := leAt raw 16 2
  let data := leAt raw 24 8
  let asap := fl.testBit 3
  { ty := BitVec.ofNat 8 t, notify := fl.testBit 0, chain := fl.testBit 1, shortOk := fl.testBit 2, asap := asap,
    tag := BitVec.ofNat 16 (leAt raw 2 2), len := len, cring := cring, buffer := BitVec.ofNat 64 buffer,
    frame := BitVec.ofNat 16 frame, stream := BitVec.ofNat 16 (leAt raw 18 2), data := BitVec.ofNat 64 data,
    bad := typeRules x t len buffer cring (fl.testBit 1) asap || decide (16 ≤ fl) || leAt raw 20 4 != 0
      || (t != 2 && data != 0) || (t != 5 && frame != 0) || leAt raw 18 2 != x.stream }

/-- A COMPAT element (R85): no TAG; the setup packet stands in BUFFER; FRAME_ID 0xFFFF means ASAP. -/
def compatElem (x : ElemCtx) (raw : List Byte) : Elem :=
  let t := leAt raw 14 1
  let fl := leAt raw 15 1
  let lw := leAt raw 8 3
  let cr := leAt raw 11 1
  let fs := leAt raw 12 2
  let setup := t == 2
  let asap := t == 5 && fs == 0xFFFF
  let len := if setup then 8 else lw % 2 ^ 17
  let buffer := if setup then 0 else leAt raw 0 8
  { ty := BitVec.ofNat 8 t, notify := fl.testBit 0, chain := fl.testBit 1, shortOk := fl.testBit 2, asap := asap,
    len := len, cring := cr % 8, buffer := BitVec.ofNat 64 buffer, frame := if t = 5 then BitVec.ofNat 16 fs else 0,
    data := if setup then BitVec.ofNat 64 (leAt raw 0 8) else 0,
    bad := typeRules x t len buffer (cr % 8) (fl.testBit 1) asap || decide (8 ≤ fl) || decide (8 ≤ cr)
      || decide (2 ^ 17 ≤ lw) || (setup && lw != 0) || (t != 5 && fs != x.stream) }

/-- What the elements of a ring are checked against. -/
def Chip.elemCtx (c : Chip) (n k : Nat) : ElemCtx :=
  let r := c.ring n k
  let e := c.ep r.key
  { ty := e.ty, inn := keyIn r.key, most := (e.mult + 1) * (e.maxBurst + 1) * e.maxPacket, stream := r.stream,
    cringOk := fun q => decide (128 ≤ n) || q == 0 || (decide (q < 64) && ((c.inst n).cring q).live) }

def Chip.parseElem (c : Chip) (n k : Nat) (raw : List Byte) : Elem :=
  let x := c.elemCtx n k
  if (c.inst n).compat then compatElem x raw else nativeElem x raw

/-- The ring is bound to a member's view of a shared slot (R274). -/
def Chip.ringView (c : Chip) (n k : Nat) : Bool :=
  let r := c.ring n k
  c.sharedBy r.slot && ((c.ep r.key).view n).ring == k

/-- A ring has new work, or may take it up again. -/
def Chip.stirRing (c : Chip) (n k : Nat) : Chip :=
  if c.ringView n k then c.viewStir (c.ring n k).key n else c.stir (c.ring n k).key

/-- The endpoint of a ring, or the member's view, is stopped by R105. -/
def Chip.stopRing (c : Chip) (n k : Nat) : Chip :=
  let key := (c.ring n k).key
  if c.ringView n k then (c.viewStop key n).1
  else if (c.ep key).st = .running then (c.stop key .settle).stir key else c

/-- A ring record of a transfer ring (R71): the ring is halted, and its Running endpoint stopped. The home node of a far
endpoint is told to stop it. -/
def Chip.ringFault (c : Chip) (n k cause : Nat) (code : Byte) : Chip :=
  let r := c.ring n k
  let c := c.post n (r.lastCring.getD 0)
    { body := .transfer code 0 (BitVec.ofNat 24 cause) false false true k r.cons r.cons none }
  let c := c.updRing n k (fun r => { r with halted := true, dead := r.dead + r.reads, reads := 0 })
  let c := if farKey r.slot && (c.ep r.key).st == .running then c.sendFrame (r.slot / 256 - 1) 0x04 r.key else c
  c.stopRing n k

/-- An element read of a transfer ring returns (R56, R71). -/
def Chip.elemDone (c : Chip) (n k : Nat) (r : ReadEnd) (raw : List Byte) : Chip :=
  let t := c.ring n k
  let x := c.inst n
  if 0 < t.dead then c.updRing n k (fun t => { t with dead := t.dead - 1 })
  else if t.reads = 0 then c
  else
    let at_ := t.entryAt t.elems.length
    let c := c.updRing n k (fun t => { t with reads := t.reads - 1 })
    if r = .ok then
      let e := { c.parseElem n k raw with entry := at_, at_ := c.us }
      (c.updRing n k (fun t => { t with elems := t.elems ++ [e] })).stirRing n k
    else
      (c.updInst n (fun y => { y with errAddr := t.base + BitVec.ofNat 64 (x.elemSize * at_) })).ringFault n k 3 ccHostMem

/-! ### Command elements -/

/-- The commands in the order of their TYPE values (R58). -/
def cmdKinds : List CmdKind :=
  [.enableSlot, .addressDevice, .configureEp, .resetEp, .stopEp, .setDequeue, .disableSlot, .createRing, .destroyRing,
    .portReset, .portSuspend, .portResume, .portPower, .getScorebook, .noop]

/-- The command of a TYPE value (R58). -/
def kindOf (t : Nat) : Option CmdKind := cmdKinds[t - 0x20]?.filter (fun _ => decide (0x20 ≤ t))

/-- A command element (R64, R85): its TAG, its command and parameters, unless a reserved bit or TYPE is used. -/
def parseCmd (compat : Bool) (raw : List Byte) : BitVec 16 × Option (CmdKind × BitVec 192) :=
  if compat then
    let par := BitVec.ofNat 192 (leAt raw 0 12)
    (0, if leAt raw 12 2 != 0 || decide (8 ≤ leAt raw 15 1) then none else (kindOf (leAt raw 14 1)).map (fun k => (k, par)))
  else
    (BitVec.ofNat 16 (leAt raw 2 2),
      if leAt raw 1 1 != 0 || leAt raw 4 4 != 0 then none
      else (kindOf (leAt raw 0 1)).map (fun k => (k, BitVec.ofNat 192 (leAt raw 8 24))))

/-- A fetched command takes its place behind those that execute. -/
def Chip.pushCmd (c : Chip) (n : Nat) (tag : BitVec 16) (k : CmdKind) (par : BitVec 192) (ph : CmdPhase) : Chip :=
  let id := c.ids
  { c.updInst n (fun x => { x with
      cmds := x.cmds ++ [{ id := id, tag := tag, entry := x.cmdNext, kind := k, par := par, phase := ph }]
      cmdNext := (x.cmdNext + 1) % 2 ^ x.cmdLog2 }) with ids := id + 1 }

/-- A command element read returns (R56, R71, R99 step 1). -/
def Chip.cmdElemDone (c : Chip) (n : Nat) (r : ReadEnd) (raw : List Byte) : Chip :=
  let x := c.inst n
  if 0 < x.cmdDead then c.updInst n (fun x => { x with cmdDead := x.cmdDead - 1 })
  else if x.cmdReads = 0 then c
  else
    let c := c.updInst n (fun x => { x with cmdReads := x.cmdReads - 1 })
    if r = .ok then
      match parseCmd x.compat raw with
      | (tag, some (k, par)) => c.pushCmd n tag k par .fetched
      | (tag, none) => ((c.pushCmd n tag .noop 0 (.done ccParam 0)).postCmds n 4).fetchCmds n
    else
      let c := c.updInst n (fun x => { x with
        errAddr := x.cmdBase + BitVec.ofNat 64 (x.elemSize * x.cmdNext), cmdHalted := true
        cmdDead := x.cmdDead + x.cmdReads, cmdReads := 0 })
      c.post n 0 { body := .transfer ccHostMem 0 3 false false true 0 x.cmdNext x.cmdNext none }

/-- ELEMENT_FETCH_DONE. -/
def Chip.fetchDone (c : Chip) (n k : Nat) (r : ReadEnd) (raw : List Byte) : Chip :=
  if k = 0 then c.cmdElemDone n r raw else c.elemDone n k r raw

/-- CONFIRM_READ_DONE: the views of a service endpoint go on as its rings do (R274). -/
def Chip.confirmDone (c : Chip) (key : Nat) (r : ReadEnd) : Chip :=
  let c := c.confirmRead key r
  if (c.ep key).service then (c.ep key).views.foldl (fun c v => c.viewStir key v.1) c else c

/-! ### Doorbells -/

/-- Whether a producer index is accepted, and the cause of a refusal (R53, R71). -/
def doorbellFault (size prod cons idx : Nat) : Option Nat :=
  if size ≤ idx then some 1
  else if (idx + size - cons) % size < (prod + size - cons) % size then some 2
  else none

/-- A doorbell reaches the instance: in reset or frozen it is discarded without an event (R55). -/
def Chip.atDoorbell (c : Chip) (n : Nat) (act : Chip → Chip) : Chip :=
  match (c.inst n).st with
  | .active => act c
  | .frozen | .resetting => c.updInst n (fun x => { x with dbErr := true })
  | _ => c

/-- A doorbell of the command ring. -/
def Chip.cmdDoorbell (c : Chip) (n idx : Nat) : Chip :=
  let x := c.inst n
  if !x.cmdEn then c.dbDiscard n (toWord (2 ^ 16 * idx))
  else
    match doorbellFault (2 ^ x.cmdLog2) x.cmdProd x.cmdCons idx with
    | none => (c.updInst n (fun x => { x with cmdProd := idx })).fetchCmds n
    | some cause =>
      let c := c.updInst n (fun x => { x with cmdHalted := true, cmdDead := x.cmdDead + x.cmdReads, cmdReads := 0 })
      c.post n 0 { body := .transfer ccRingErr 0 (BitVec.ofNat 24 cause) false false true 0 x.cmdNext x.cmdNext none }

/-- An endpoint may leave Stopped. In a slot in Default, EP 0x00 alone does: the others wait for ADDRESS_DEVICE and a doorbell after it
(R174). One that a reset, a move or the end of its ring has stopped waits for that (R111, R253). -/
def Chip.mayRun (c : Chip) (key : Nat) : Bool :=
  ((c.slot (keySlot key)).st != .default || keyBit key == 0) && c.waits.all (fun w => w.cont.restarts || !w.keys.contains key)

/-- The endpoint of a ring whose producer moved runs (R94): L1 ends by itself (R216). -/
def Chip.runRing (c : Chip) (n k : Nat) : Chip :=
  let key := (c.ring n k).key
  if c.ringView n k then
    (c.updView key n (fun v => { v with st := if v.st = .stopped then .running else v.st })).viewStir key n
  else
    let b := c.slotBus (keySlot key)
    let c := if (c.ep key).st == .stopped && c.mayRun key then c.updEp key (fun e => { e with st := .running }) else c
    let c := if !farKey (keySlot key) && decide (b < 24) && (c.port b).st == pL1 && (c.ep key).st == .running then
      c.beginResume b causeHost else c
    c.stir key

/-- DOORBELL_PRODUCER (R52 to R56). -/
def Chip.doorbellP (c : Chip) (n k idx : Nat) : Chip :=
  c.atDoorbell n (fun c =>
    if k = 0 then c.cmdDoorbell n idx
    else
      let r := c.ring n k
      if !r.live then c.dbDiscard n (toWord (k + 2 ^ 16 * idx))
      else
        match doorbellFault r.size r.prod r.cons idx with
        | some cause => c.ringFault n k cause ccRingErr
        | none =>
          if idx = r.prod then c
          else
            let c := c.updRing n k (fun r => { r with prod := idx })
            if r.halted then c else c.runRing n k)

/-- What waited for a completion ring goes on: held records, the endpoints that held them, the command ring (R76, R77). -/
def Chip.ringRoom (c : Chip) (n k : Nat) : Chip :=
  ((c.onInst n (fun w => w.flushAll n k c.mf)).fetchCmds n).stirInst n

/-- DOORBELL_CONSUMER (R54, R55). -/
def Chip.doorbellC (c : Chip) (n k idx : Nat) : Chip :=
  c.atDoorbell n (fun c =>
    let r := (c.inst n).cring k
    if 64 ≤ k ∨ r.live = false ∨ r.size ≤ idx ∨ (r.prod + r.size - r.cons) % r.size < (idx + r.size - r.cons) % r.size then
      c.dbDiscard n (toWord (k + 2 ^ 15 + 2 ^ 16 * idx))
    else (c.updInst n (fun x => x.updCring k (fun r => { r with cons := idx }))).ringRoom n k)

/-! ### Ring registers -/

/-- Notifications of what an instance holds, once both of its rings are enabled after a reset (R251). -/
def Chip.tellOrphans (c : Chip) (n : Nat) : Chip :=
  let x := c.inst n
  if !x.orphans || !x.cmdEn || !(x.cring 0).live then c
  else
    let c := c.updInst n (fun x => { x with orphans := false })
    if x.compat then
      (List.range 32).foldl (fun c b =>
        if c.ownsBus n b && (if b < 24 then (c.port b).connected else (c.ssp (b - 24)).connected) then
          c.event n evPortChange (c.subject b) 1 (toWord (c.portStatus b 0)) else c) c
    else
      (c.slots.filter (fun s => (s.2.orphan || s.2.shared.isSome) && c.owns n s.1)).foldl (fun c s => c.attachTo n s.1) c

/-- A LOG2_SIZE field as a write leaves it (R6, R51). -/
def newLog2 (old : Nat) (en : Bool) (val : Word) : Nat :=
  let v := fld val 4 0
  if en || decide (v < 4) || decide (16 < v) then old else v

/-- CMD_RING_SIZE_WRITE (R50, R51, R71). -/
def Chip.cmdSize (c : Chip) (n : Nat) (val : Word) : Chip :=
  if !(c.inst n).pageOn then c
  else
    let on := bitAt val 31
    let c := c.updInst n (fun x =>
      let x' := { x with cmdLog2 := newLog2 x.cmdLog2 x.cmdEn val, cmdEn := on }
      if on = x.cmdEn then x'
      else if on then
        { x' with
          cmdProd := 0, cmdCons := 0, cmdNext := 0, cmdHalted := false, cmds := x.cmds.map (fun m => { m with old := true }) }
      else { x' with cmdDead := x.cmdDead + x.cmdReads, cmdReads := 0 })
    c.tellOrphans n

/-- CRING0_SIZE_WRITE (R50, R51, R78). Enabling the ring again leaves its Huddle count and timer as they stand. DESIGN CHOICE, log
entry 65. -/
def Chip.cringSize (c : Chip) (n : Nat) (val : Word) : Chip :=
  if !(c.inst n).pageOn then c
  else
    let on := bitAt val 31
    let x := c.inst n
    let r := x.cring 0
    let c := c.updInst n (fun x => x.updCring 0 (fun r =>
      let r' := { r with log2 := newLog2 r.log2 r.live val, live := on }
      if on && !r.live then { r' with base := x.cring0Base, prod := 0, cons := 0, phase := true, halted := false } else r'))
    if on && !r.live then (c.ringRoom n 0).tellOrphans n else c

/-- The COMPAT bit of INST_CTL changes only while nothing uses the rings (R84). -/
def Inst.compatFree (x : Inst) : Bool :=
  !x.cmdEn && !(x.cring 0).live && x.rings.all (fun r => !r.2.live) && x.crings.all (fun r => r.1 == 0 || !r.2.live)

/-! ### Huddle, the read after a decision, MSI-X -/

/-- HUDDLE_TIMER_EXPIRY (R82 step 2). In a scrum the decision is due until the entry ends, and the completion writer refuses for it; once
the completion writer has stopped its timers are held (R376). DEDUCED, log entry 83. -/
def Chip.huddleTimer (c : Chip) (n k : Nat) : Chip :=
  if !((c.inst n).cring k).timer then c
  else
    let wait := c.updInst n (fun x => x.updCring k (fun r => { r with due := true }))
    match c.pwr.st with
    | .run | .doze => c.onInst n (fun w => w.decision n k)
    | .phase1 => wait
    | .phase2 done => if done < 5 then wait else c
    | _ => c

/-- The Huddle decisions that fell due in an entry are made (R82, R376). -/
def Chip.huddleDue (c : Chip) : Chip :=
  c.insts.foldl (fun c x => x.2.crings.foldl (fun c r => if r.2.due then c.onInst x.1 (fun w => w.decision x.1 r.1) else c) c) c

/-- HUDDLE_CTL_WRITE (R81, R82, R88). -/
def Chip.huddleCtl (c : Chip) (n k : Nat) (val : Word) : Chip :=
  let x := c.inst n
  if !x.pageOn || (x.compat && decide (8 ≤ k)) then c
  else
    let h := x.hud k
    let h' : Huddle := {
      count := if fld val 7 0 = 0 then h.count else BitVec.ofNat 8 (fld val 7 0)
      time := if fld val 23 8 = 0 then h.time else BitVec.ofNat 16 (fld val 23 8)
      urgent := bitAt val 24, idleCancel := bitAt val 25 }
    let c := c.updInst n (fun x => { x with huddle := Tbl.set {} x.huddle k h' })
    let r := (c.inst n).cring k
    if 0 < r.count ∧ h'.count.toNat ≤ r.count then c.onInst n (fun w => w.decision n k) else c

/-- CRING_READBACK_DONE (R78, R446). -/
def Chip.readback (c : Chip) (n k : Nat) (r : ReadEnd) : Chip :=
  match ((c.inst n).cring k).reads with
  | [] => c
  | a :: t =>
    let c := c.updInst n (fun x => x.updCring k (fun q => { q with reads := t }))
    if r = .ok then c
    else
      let c := c.updInst n (fun x => { x.updCring k (fun q => { q with halted := true }) with errAddr := a })
      if k = 0 then c.emit (.aer n) else c.event n evError noSubject (toWord (0x02 + 2 ^ 8 * k)) 0

/-- Pending messages whose masks are clear are sent (R83), but for an instance in reset (R250). -/
def IW.sendPending (w : IW) (n : Nat) : IW :=
  (List.range 64).foldl (fun w e =>
    if bitAt w.x.pend e && !w.x.deaf && !w.x.fmask && !(Tbl.get {} w.x.msix e).mask then
      { w with x := { w.x with pend := w.x.pend &&& ~~~(BitVec.ofNat 64 (2 ^ e)) } }.emit (.msix n e)
    else w) w

/-- MSIX_UNMASK: of one entry, or of the function. -/
def Chip.unmask (c : Chip) (n : Nat) (entry : Option Nat) : Chip :=
  c.onInst n (fun w =>
    match entry with
    | some e => IW.sendPending { w with x := { w.x with msix := Tbl.upd {} w.x.msix e (fun m => { m with mask := false }) } } n
    | none => IW.sendPending { w with x := { w.x with fmask := false } } n)

end Sys2Proof.Machine
end

