-- ==== Sys2Proof/Machine/Commands.lean ====
section
/-! DEFINITION. The instance commands (R89, R90, R98, R99, R101 to R114): their parameters, the order in which they begin,
and what each does on this node. -/

namespace Sys2Proof.Machine

/-! ### Parameters -/

/-- Bits [lo, lo + w) of the parameter bytes 8 to 31; byte b begins at bit 8 × (b − 8). -/
def par (p : BitVec 192) (lo w : Nat) : Nat := p.toNat / 2 ^ lo % 2 ^ w

/-- No bit outside the named fields is set (R7, R99 step 1). -/
def onlyBits (p : BitVec 192) (fs : List (Nat × Nat)) : Bool :=
  p &&& ~~~(BitVec.ofNat 192 (fs.foldl (fun n f => n + 2 ^ f.1 * (2 ^ f.2 - 1)) 0)) == 0

/-- The fields of each command (R101 to R114). -/
def cmdFields (k : CmdKind) (p : BitVec 192) : List (Nat × Nat) :=
  match k with
  | .enableSlot => [(0, 12), (16, 4), (32, 20)]
  | .addressDevice => [(0, 12), (16, 11), (32, 2), (40, 3), (48, 12), (64, 8)]
  | .configureEp => [(0, 12), (16, 8), (24, 3), (32, 11), (48, 4), (56, 6), (64, 4), (96, 10), (112, 10), (128, 2), (144, 10)]
  | .resetEp => [(0, 12), (16, 8)]
  | .stopEp => [(0, 12), (16, 8), (24, 1)]
  | .setDequeue => [(0, 15), (16, 16)]
  | .disableSlot => [(0, 12)]
  | .createRing => if p.getLsbD 5 then [(0, 64), (64, 6), (72, 6)] else [(0, 64), (64, 26)]
  | .destroyRing => [(0, 16)]
  | .portReset => [(0, 12), (16, 1)]
  | .portSuspend => [(0, 12), (16, 1), (24, 4)]
  | .portResume => [(0, 12)]
  | .portPower => [(0, 12), (16, 1)]
  | .getScorebook => [(0, 64), (64, 24)]
  | .noop => []

/-- The bit of EP_MASK that an EP byte names (R89), where it is a legal one. -/
def epBit (v : Nat) : Option Nat :=
  if v / 16 % 8 ≠ 0 ∨ v = 0x80 then none else some (v % 16 + (if 128 ≤ v then 16 else 0))

/-- Packet sizes of a default control endpoint (R102). -/
def mps0Ok (m : Nat) : Bool := m == 8 || m == 16 || m == 32 || m == 64 || m == 512

/-- Encodings that R7 reserves in a command's fields. -/
def cmdValid (k : CmdKind) (p : BitVec 192) : Bool :=
  onlyBits p (cmdFields k p) &&
    match k with
    | .addressDevice => mps0Ok (par p 16 11) && par p 32 2 != 3
    | .configureEp => (epBit (par p 16 8)).isSome && decide (par p 64 4 ≤ 8)
    | .resetEp => (epBit (par p 16 8)).isSome
    | .stopEp => (epBit (par p 16 8)).isSome && (par p 24 1 == 0 || par p 16 8 == 0)
    | .createRing => decide (4 ≤ par p 0 5) && decide (par p 0 5 ≤ 16)
    | .destroyRing => par p 15 1 == 0 || par p 6 9 == 0
    | .getScorebook => par p 0 6 == 0
    | _ => true

/-! ### What a command names (R89, R98) -/

/-- The slot key that a command names, directly or by its ring. -/
def Chip.cmdSlot (c : Chip) (n : Nat) (m : Cmd) : Option Nat :=
  match m.kind with
  | .addressDevice | .configureEp | .resetEp | .stopEp | .disableSlot => some (c.slotKey (par m.par 0 12))
  | .setDequeue => if (c.ring n (par m.par 0 15)).live then some (c.ring n (par m.par 0 15)).slot else none
  | .createRing => if m.par.getLsbD 5 then none else some (c.slotKey (par m.par 64 12))
  | .destroyRing =>
    if m.par.getLsbD 15 || !(c.ring n (par m.par 0 15)).live then none else some (c.ring n (par m.par 0 15)).slot
  | _ => none

/-- The SUBJECT of the port that a command names. -/
def cmdPort (m : Cmd) : Option Nat :=
  match m.kind with
  | .enableSlot | .portReset | .portSuspend | .portResume | .portPower => some (par m.par 0 12)
  | _ => none

/-- The root port of a slot that is there. -/
def Chip.rootOf (c : Chip) (s : Option Nat) : Option Nat :=
  s.bind (fun sk => if (c.slot sk).st = .disabled then none else some (c.slot sk).root.toNat)

def meets (a b : Option Nat) : Bool := a.isSome && a == b

/-- A later command waits for an earlier one that has not finished (R98); PORT_RESET overtakes a suspend or resume
(R217). ENABLE_SLOT names a port, a port command waits behind the commands of slots there, and a slot's command behind a reset of
its port (R111). -/
def Chip.blocks (c : Chip) (n : Nat) (a b : Cmd) : Bool :=
  let beats := b.kind == .portReset && (a.kind == .portSuspend || a.kind == .portResume)
  !beats && (meets (c.cmdSlot n a) (c.cmdSlot n b) || meets (cmdPort a) (cmdPort b)
    || meets (c.rootOf (c.cmdSlot n a)) (cmdPort b)
    || (a.kind == .portReset && meets (cmdPort a) (c.rootOf (c.cmdSlot n b))))

/-- The next command to begin, in ring order, where it may (R98). -/
def Chip.nextCmd (c : Chip) (n : Nat) : List Cmd → List Cmd → Option Cmd
  | _, [] => none
  | past, m :: t =>
    if m.phase = .waiting then (if past.any (fun a => !a.phase.ended && c.blocks n a m) then none else some m)
    else if m.phase = .fetched then none
    else c.nextCmd n (m :: past) t

/-! ### Slots -/

/-- Naming a slot adopts it (R251). -/
def Chip.adopt (c : Chip) (sk : Nat) : Chip := if (c.slot sk).orphan then c.updSlot sk (fun s => { s with orphan := false }) else c

/-- A ROUTE without a gap: no zero tier below another (R91). -/
def routeOk (r : Nat) : Bool := (List.range 5).all (fun k => r / 16 ^ k % 16 != 0 || r / 16 ^ k == 0)

/-- A device is connected to the bus. -/
def Chip.connectedOn (c : Chip) (b : Nat) : Bool := if b < 24 then (c.port b).connected else (c.ssp (b - 24)).connected

/-- SPEED agrees with the port, and with its device where it sits on the port itself (R101). -/
def Chip.speedOk (c : Chip) (b sp route : Nat) : Bool :=
  (if b < 24 then decide (1 ≤ sp) && decide (sp ≤ 3) else decide (4 ≤ sp) && decide (sp ≤ 7))
    && (route != 0 || sp == (c.busSpeed b).toNat)

/-- The slot fields that ENABLE_SLOT stores, for an instance of this node or another. -/
def Chip.freshSlot (c : Chip) (n b sp route : Nat) : Slot :=
  { st := .enabled, root := c.subject b, route := BitVec.ofNat 20 route, speed := BitVec.ofNat 4 sp,
    owner := if 128 ≤ n then nobody else BitVec.ofNat 7 n, far := if 128 ≤ n then some (farOf n) else none }

/-- The orphaned slot of an instance at a ROOT and ROUTE (R251). -/
def Chip.orphanAt (c : Chip) (n b route : Nat) : Option Nat :=
  (c.busSlots b).find? (fun sk => (c.slot sk).orphan && c.owns n sk && (c.slot sk).route.toNat == route)

/-- ENABLE_SLOT (R101, R251). -/
def Chip.cmdEnableSlot (c : Chip) (n : Nat) (m : Cmd) : Chip :=
  let sp := par m.par 16 4
  let route := par m.par 32 20
  match c.ownedBus n (BitVec.ofNat 16 (par m.par 0 12)) with
  | none => c.finish n m.id ccParam 0
  | some b =>
    if !c.connectedOn b || c.enumOn b || !c.speedOk b sp route || !routeOk route then c.finish n m.id ccParam 0
    else
      match c.orphanAt n b route with
      | some sk => ((c.clearSlot sk true).updSlot sk (fun _ => c.freshSlot n b sp route)).finish n m.id ccSuccess (c.slotName sk)
      | none =>
        if n < 128 ∧ c.room n Quota.slots 1 = false then c.finish n m.id ccQuota 0
        else if c.room n Quota.slots 1 = false then c.finish n m.id ccNoSlot 0
        else
          match c.newSlot with
          | none => c.finish n m.id ccNoSlot 0
          | some sk => (c.updSlot sk (fun _ => c.freshSlot n b sp route)).finish n m.id ccSuccess (c.slotName sk)

/-- The translator fields of ADDRESS_DEVICE are right (R102): zero, or, for a low- or full-speed device behind a high-speed
hub, that hub's slot and port. -/
def Chip.ttOk (c : Chip) (n sk : Nat) (p : BitVec 192) : Bool :=
  let s := c.slot sk
  let hub := c.slotKey (par p 48 12)
  let above (k : Nat) : Bool := (c.slot k).speed == 3 && (c.slot k).root == s.root && routeBehind (c.slot k).route.toNat s.route.toNat
  let need := (s.speed == 1 || s.speed == 2) && s.route != 0
    && (c.slots.any (fun x => x.2.st != .disabled && decide (x.1 < 256) && above x.1))
  if need then c.owns n hub && above hub && par p 64 8 != 0
  else par p 40 3 == 0 && par p 48 12 == 0 && par p 64 8 == 0

/-- The translator fields of a slot (R91). -/
def Slot.withTt (s : Slot) (p : BitVec 192) : Slot :=
  { s with
    mtt := p.getLsbD 40, ttThink := BitVec.ofNat 2 (par p 41 2), ttSlot := BitVec.ofNat 12 (par p 48 12)
    ttPort := BitVec.ofNat 8 (par p 64 8) }

/-- Another device of the bus holds an address. -/
def Chip.addrFree (c : Chip) (b a : Nat) : Bool := a != 0 && !(c.addrsOn b).contains a

/-- The address that MODE selects (R102), and whether KEEP sends the previous one. -/
def Chip.pickAddr (c : Chip) (sk mode : Nat) : Option (Nat × Bool) :=
  let b := c.slotBus sk
  let prev := (c.slot sk).prev.toNat
  if mode = 2 ∧ c.addrFree b prev = true then some (prev, true) else (c.freeAddr b).map (fun a => (a, false))

/-- ADDRESS_DEVICE (R102). -/
def Chip.cmdAddressDevice (c : Chip) (n : Nat) (m : Cmd) : Chip :=
  let sk := c.slotKey (par m.par 0 12)
  let mode := par m.par 32 2
  let mps := par m.par 16 11
  let old := c.slot sk
  let key := epKey sk 0
  let absent := (c.ep key).st == .disabled
  if !c.owns n sk then c.finish n m.id ccParam 0
  else
    let c := c.adopt sk
    let old := { old with orphan := false }
    if !(old.st == .enabled || (old.st == .default && mode != 1)) || !c.ttOk n sk m.par then c.finish n m.id ccParam 0
    else if absent && !c.room n Quota.eps 1 then c.finish n m.id (if n < 128 then ccQuota else ccNoSlot) 0
    else if absent && (c.newCtx.isNone || (c.takePlace sk).isNone) then c.finish n m.id ccNoSlot 0
    else if mode = 1 then
      ((c.makeEp0 sk mps).updSlot sk (fun s => { s.withTt m.par with st := .default })).finish n m.id ccSuccess 0
    else
      match c.pickAddr sk mode with
      | none => c.finish n m.id ccNoSlot 0
      | some (a, kept) =>
        let new := { old.withTt m.par with mps0 := BitVec.ofNat 11 mps }
        let c := if absent then c.makeEp0 sk mps else c
        let c := c.updEp key (fun e => { e with
          setAddr := some { inst := n, cmd := m.id, addr := BitVec.ofNat 7 a, kept := kept, old := old, new := new }, saStage := .setup })
        let c := if c.saTurn key then (c.updSlot sk (fun s => s.readdress new)).updEp key (fun e => { e with maxPacket := mps }) else c
        (c.emit (.setAddress sk (BitVec.ofNat 7 a))).stir key

/-! ### Endpoints -/

def epTyOf (k : Nat) : EpTy := if k = 0 then .control else if k = 1 then .isoch else if k = 2 then .bulk else .interrupt

/-- The values of an add (R103). -/
def epArgs (p : BitVec 192) : EpArgs :=
  { ty := epTyOf (par p 24 2), mps := par p 32 11, burst := par p 56 4, mult := par p 60 2, interval := par p 48 4,
    streams := par p 64 4, ovr := p.getLsbD 128, linear := p.getLsbD 129, start := par p 96 10, top := par p 112 10,
    inc := par p 144 10 }

/-- Everything but SLOT, EP and MAX_PACKET is zero (R103). -/
def onlyMps (p : BitVec 192) : Bool := onlyBits p [(0, 12), (16, 8), (32, 11)]
/-- Everything but SLOT, EP and DROP is zero. -/
def onlyDrop (p : BitVec 192) : Bool := onlyBits p [(0, 12), (16, 8), (26, 1)]

/-- CONFIGURE_EP of a shared slot (R274): it matches the endpoint that is there, or is refused. -/
def Ep.matches (e : Ep) (a : EpArgs) : Bool :=
  e.st != .disabled && e.ty == a.ty && e.maxPacket == a.mps && e.maxBurst == a.burst && e.mult == a.mult
    && e.interval == a.interval && e.maxStreams == a.streams

/-- The endpoint is dropped (R94, R103). -/
def Chip.dropEp (c : Chip) (sk bit : Nat) : Chip :=
  let c := (c.clearEp (epKey sk bit) true).updSlot sk (fun s => { s with epMask := s.epMask &&& ~~~(BitVec.ofNat 32 (2 ^ bit)) })
  if (c.slot sk).far.isSome then c.freePlaces (c.slotBus sk) else c

/-- A settled endpoint is dropped; the command is finished once the endpoint's entries have gone and its EPOCH is bumped (R97, R126). -/
def Chip.dropDone (c : Chip) (n id key : Nat) : Chip :=
  let ps := (c.ep key).pep.toList
  (c.dropEp (keySlot key) (keyBit key)).wait { keys := [key], posted := false, peps := ps, cont := .finish n id ccSuccess 0 }

/-- CONFIGURE_EP (R103, R126). -/
def Chip.cmdConfigureEp (c : Chip) (n : Nat) (m : Cmd) : Chip :=
  let sk := c.slotKey (par m.par 0 12)
  let bit := (epBit (par m.par 16 8)).getD 0
  let key := epKey sk bit
  let e := c.ep key
  let a := epArgs m.par
  let bad (c : Chip) : Chip := c.finish n m.id ccParam 0
  if !c.owns n sk then bad c
  else
    let c := c.adopt sk
    if c.sharedBy sk then
      if !m.par.getLsbD 26 && e.matches a then c.finish n m.id ccSuccess e.reserve.toNat else bad c
    else if m.par.getLsbD 26 then
      if !onlyDrop m.par || !(e.st == .stopped || e.st == .halted) || !e.rings.isEmpty then bad c
      else
        ((c.stop key .quit).tend key).wait { keys := [key], was := c.epStates [key], cont := .dropEp n m.id key }
    else if bit = 0 then
      if !onlyMps m.par || e.st != .stopped || !mps0Ok a.mps then bad c
      else (c.makeEp0 sk a.mps).finish n m.id ccSuccess 0
    else if e.st != .disabled || (a.ty == .control && decide (16 ≤ bit)) || !a.valid (c.slotPath sk) then bad c
    else
      match c.addEp n key a with
      | .error (code, r) => c.finish n m.id code r
      | .ok (c, r, []) => c.finish n m.id ccSuccess r
      | .ok (c, r, ps) => c.wait { peps := ps, cont := .finish n m.id ccSuccess (BitVec.ofNat 24 r) }

/-- What RESET_EP does to a Halted endpoint (R94, R104). -/
def Ep.reset (e : Ep) (now : Nat) : Ep :=
  { e.bump now with st := .stopped, seq := 0, strikes := 0, pingDue := false, nrdy := false, erdy := false, split := false }

/-- The settled endpoint of RESET_EP. -/
def Chip.resetEpDone (c : Chip) (n id key : Nat) : Chip := (c.updEp key (fun e => e.reset c.us)).finishBumped n id key

/-- RESET_EP (R104, R274). A TD that was under way beside the one that halted the endpoint (R285) is settled first. -/
def Chip.cmdResetEp (c : Chip) (n : Nat) (m : Cmd) : Chip :=
  let sk := c.slotKey (par m.par 0 12)
  let key := epKey sk ((epBit (par m.par 16 8)).getD 0)
  if !c.owns n sk then c.finish n m.id ccParam 0
  else
    let c := c.adopt sk
    if c.sharedBy sk then
      if (c.ep key).st = .disabled ∨ ((c.ep key).view n).st = .running then c.finish n m.id ccParam 0
      else
        (c.updView key n (fun v => if v.st = .halted then { v with st := .stopped, epoch := v.epoch + 1 } else v)).finish
          n m.id ccSuccess 0
    else if (c.ep key).st = .halted then
      ((c.stop key .quit).tend key).wait { keys := [key], posted := false, was := c.epStates [key], cont := .resetEp n m.id key }
    else if (c.ep key).st = .stopped then c.finish n m.id ccSuccess 0
    else c.finish n m.id ccParam 0

/-- The CONS at which an endpoint, or a member's view, resumes. -/
def Chip.consOf (c : Chip) (n key : Nat) : Nat :=
  if c.sharedBy (keySlot key) then (c.ring n ((c.ep key).view n).ring).cons
  else (c.ring (c.ringHome (keySlot key)) (c.ep key).headRing).cons

/-- STOP_EP has come to its end for one endpoint (R105). -/
def Chip.stopDone (c : Chip) (n id key : Nat) : Chip :=
  c.finish n id ccSuccess (c.consOf n key + flagAt ((c.ep key).settled && (c.ep key).st == .stopped) 16)

/-- STOP_EP on a member's views (R274). -/
def Chip.stopViews (c : Chip) (n id sk : Nat) (keys : List Nat) (all : Bool) : Chip :=
  let run := keys.filter (fun k => ((c.ep k).view n).st == .running)
  let x := run.foldl (fun (a : Chip × Bool) k => let y := a.1.viewStop k n; (y.1, a.2 || y.2)) (c, false)
  let r := if all then run.length else x.1.consOf n (keys.headD (epKey sk 0))
  x.1.wait { views := run.map (fun k => (k, n)), cont := .finish n id ccSuccess (BitVec.ofNat 24 (r + flagAt x.2 16)) }

/-- STOP_EP (R105). -/
def Chip.cmdStopEp (c : Chip) (n : Nat) (m : Cmd) : Chip :=
  let sk := c.slotKey (par m.par 0 12)
  let key := epKey sk ((epBit (par m.par 16 8)).getD 0)
  if !c.owns n sk then c.finish n m.id ccParam 0
  else
    let c := c.adopt sk
    if m.par.getLsbD 24 then
      if c.sharedBy sk then c.stopViews n m.id sk (c.slotEps sk) true
      else
        let ks := (c.slotEps sk).filter (fun k => (c.ep k).st == .running)
        (ks.foldl (fun c k => (c.stop k .settle).tend k) c).wait { keys := ks, was := c.epStates ks, cont := .stopAll n m.id ks }
    else if (c.ep key).st = .disabled then c.finish n m.id ccParam 0
    else if c.sharedBy sk then
      (if ((c.ep key).view n).st = .running then c.stopViews n m.id sk [key] false else c.finish n m.id ccSuccess (c.consOf n key))
    else if (c.ep key).st = .running then
      ((c.stop key .settle).tend key).wait { keys := [key], was := c.epStates [key], cont := .stopEp n m.id key }
    else c.finish n m.id ccSuccess (c.consOf n key)

/-- A ring begins anew at an entry (R107). -/
def Ring.restart (r : Ring) (idx : Nat) : Ring :=
  { r with prod := idx, cons := idx, halted := false, elems := [], dead := r.dead + r.reads, reads := 0, td := {}, sent := 0, ids := [] }

/-- The ring of SET_DEQUEUE begins anew; a bump follows where settling its endpoint made none. -/
def Chip.setDequeueDone (c : Chip) (n id k idx : Nat) (bump : Bool) : Chip :=
  let key := (c.ring n k).key
  let c := c.updRing n k (fun r => r.restart idx)
  (if bump then c.updEp key (fun e => e.bump c.us) else c).finishBumped n id key

/-- SET_DEQUEUE (R107): the bump follows the settlement of what the endpoint has under way, be it another stream's TD (R96). -/
def Chip.cmdSetDequeue (c : Chip) (n : Nat) (m : Cmd) : Chip :=
  let k := par m.par 0 15
  let idx := par m.par 16 16
  let r := c.ring n k
  let st := if c.ringView n k then ((c.ep r.key).view n).st else (c.ep r.key).st
  if !r.live then c.finish n m.id ccParam 0
  else
    let c := c.adopt r.slot
    if r.size ≤ idx ∨ ¬(st = .stopped ∨ r.halted = true) then c.finish n m.id ccParam 0
    else
      if c.ringView n k then
        ((c.updRing n k (fun r => r.restart idx)).updView r.key n (fun v => { v with epoch := v.epoch + 1 })).finish n m.id ccSuccess 0
      else
        let run := (c.ep r.key).st == .running
        let c := if (c.ep r.key).stop.isSome then c else (c.stop r.key (if run then .reroute else .quit)).tend r.key
        c.wait { keys := [r.key], posted := false, cont := .setDequeue n m.id k idx (!run) }

/-- DISABLE_SLOT (R108, R274). -/
def Chip.cmdDisableSlot (c : Chip) (n : Nat) (m : Cmd) : Chip :=
  let sk := c.slotKey (par m.par 0 12)
  if !c.owns n sk then c.finish n m.id ccParam 0
  else if c.sharedBy sk then
    let c := c.dropView sk n
    let c := c.updSlot sk (fun s => { s with noView := n :: s.noView })
    c.wait { views := (c.slotEps sk).map (fun k => (k, n)), cont := .finish n m.id ccSuccess 0 }
  else
    let ks := c.slotEps sk
    (ks.foldl (fun c k => (c.stop k .quit).tend k) (c.adopt sk)).wait { keys := ks, was := c.epStates ks, cont := .disableSlot n m.id sk }

/-- The endpoints of DISABLE_SLOT are settled: the rings go, and the reservations at the buses' next boundaries (R108, R126). -/
def Chip.disableRings (c : Chip) (n id sk : Nat) : Chip :=
  let ks := c.slotEps sk
  let ps := ks.filterMap (fun k => (c.ep k).pep)
  let c := ks.foldl (fun c k => c.dropRings k) c
  (ps.foldl (fun c k => c.dropPep k) c).wait { peps := ps, cont := .clearSlot n id sk }

/-- The slot is Disabled (R108); the service parks the device of a managed one (R268). -/
def Chip.disableDone (c : Chip) (n id sk : Nat) : Chip :=
  let s := c.slot sk
  let b := c.slotBus sk
  let c := c.clearSlot sk true
  let c := if s.managed && decide (sk < 256) then c.parkDisabled b s.route.toNat s.speed else c
  (c.finish n id ccSuccess 0).retryParked

/-! ### Rings -/

/-- The lowest free transfer ring index (R109). -/
def Chip.newRing (c : Chip) (n : Nat) : Option Nat := leastFree (fun k => !(c.ring n k).live) 1 0x7FFF

/-- A transfer ring is bound to an endpoint, or to one of its streams (R109). -/
def Chip.bindRing (c : Chip) (n k sk bit stream : Nat) (p : BitVec 192) : Chip :=
  let key := epKey sk bit
  let c := c.updRing n k (fun r => {
    live := true, base := BitVec.ofNat 64 (par p 6 58 * 64), log2 := par p 0 5, slot := sk, ep := bit, stream := stream, dead := r.dead })
  if c.sharedBy sk then c.updView key n (fun v => { v with ring := k })
  else if stream = 0 then c.updEp key (fun e => { e with ring := k })
  else c.updEp key (fun e => { e with streams := Tbl.set 0 e.streams stream k })

/-- The endpoint, or the stream, has no ring yet (R109, R274). -/
def Chip.ringFits (c : Chip) (n sk bit stream : Nat) : Bool :=
  let e := c.ep (epKey sk bit)
  e.st != .disabled
    && (if c.sharedBy sk then stream == 0 && e.service && (e.view n).ring == 0
        else if e.maxStreams = 0 then stream == 0 && e.ring == 0
        else decide (1 ≤ stream) && decide (stream ≤ 2 ^ e.maxStreams) && Tbl.get 0 e.streams stream == 0)

/-- CREATE_RING of a transfer ring. -/
def Chip.createTransfer (c : Chip) (n : Nat) (m : Cmd) : Chip :=
  let sk := c.slotKey (par m.par 64 12)
  let bit := par m.par 76 4 + 16 * par m.par 80 1
  let stream := par m.par 81 9
  if !c.owns n sk then c.finish n m.id ccParam 0
  else
    let c := c.adopt sk
    if !c.ringFits n sk bit stream then c.finish n m.id ccParam 0
    else
      match c.newRing n with
      | none => c.finish n m.id ccParam 0
      | some k => (c.bindRing n k sk bit stream m.par).finish n m.id ccSuccess k

/-- CREATE_RING of a completion ring (R88, R109). -/
def Chip.createCring (c : Chip) (n : Nat) (m : Cmd) : Chip :=
  let k := par m.par 64 6
  let v := par m.par 72 6
  let x := c.inst n
  if k = 0 ∨ (x.cring k).live = true ∨ (x.compat = true ∧ 8 ≤ k) ∨ (c.unbound n = false ∧ x.quota.vectors ≤ v) then
    c.finish n m.id ccParam 0
  else if !c.room n Quota.crings 1 then c.finish n m.id ccQuota 0
  else
    let r : CRing := { live := true, base := BitVec.ofNat 64 (par m.par 6 58 * 64), log2 := par m.par 0 5, vector := v }
    (c.updInst n (fun x => { x with crings := Tbl.set {} x.crings k r })).finish n m.id ccSuccess k

/-- CREATE_RING (R109). -/
def Chip.cmdCreateRing (c : Chip) (n : Nat) (m : Cmd) : Chip :=
  if m.par.getLsbD 5 then c.createCring n m else c.createTransfer n m

/-- A transfer ring is destroyed once its endpoint has stopped (R110). -/
def Chip.destroyDone (c : Chip) (n id k : Nat) : Chip := (c.dropRing n k).finish n id ccSuccess 0

/-- Completion ring k is destroyed: what is due to it goes to ring 0 (R78, R110). -/
def Chip.destroyCringDone (c : Chip) (n id k : Nat) : Chip :=
  let held := ((c.inst n).cring k).held
  let c := c.updInst n (fun x => { x with crings := Tbl.set {} x.crings k {} })
  let c := held.foldl (fun c h => c.post n 0 h) c
  (c.finish n id ccSuccess 0).stirInst n

/-- DESTROY_RING (R78, R110, R274). -/
def Chip.cmdDestroyRing (c : Chip) (n : Nat) (m : Cmd) : Chip :=
  let k := par m.par 0 15
  if m.par.getLsbD 15 then
    let q := par m.par 0 6
    let r := (c.inst n).cring q
    if q = 0 ∨ r.live = false then c.finish n m.id ccParam 0
    else
      let ks := if r.halted then dedup (r.held.filterMap (fun h => h.key)) else []
      let run := ks.filter (fun key => (c.ep key).st == .running && !(c.sharedBy (keySlot key)))
      (run.foldl (fun c key => (c.stop key .quit).tend key) c).wait
          { keys := run, was := c.epStates run, posted := false, cont := .destroyCring n m.id q }
  else
    let r := c.ring n k
    if !r.live then c.finish n m.id ccParam 0
    else
      let c := c.adopt r.slot
      if c.ringView n k then
        let c := (c.viewStop r.key n).1
        c.wait { views := [(r.key, n)], cont := .destroyRing n m.id k }
      else ((c.stop r.key .quit).tend r.key).wait { keys := [r.key], was := c.epStates [r.key], cont := .destroyRing n m.id k }

/-! ### Ports -/

/-- A command of a port that the instance owns. -/
def Chip.onPort (c : Chip) (n : Nat) (m : Cmd) (act : Chip → Nat → Chip) : Chip :=
  match c.ownedBus n (BitVec.ofNat 16 (par m.par 0 12)) with
  | none => c.finish n m.id ccParam 0
  | some b => act c b

/-- The states from which PORT_RESET resets a bus (R207, R211): only a warm reset leaves INACTIVE. -/
def Chip.resetOk (c : Chip) (b : Nat) (warm : Bool) : Bool :=
  if b < 24 then !warm && (c.port b).connected && (c.port b).powered
  else
    let q := c.ssp (b - 24)
    q.connected && (q.enabled || q.st == sResetting || (warm && q.st == sInactive))

/-- PORT_RESET (R111). -/
def Chip.cmdPortReset (c : Chip) (n : Nat) (m : Cmd) : Chip :=
  c.onPort n m (fun c b =>
    let warm := m.par.getLsbD 16
    if !c.resetOk b warm then c.finish n m.id ccParam 0
    else
      let c := (c.enumStop b).beginReset b warm
      if b < 24 then c.updPort b (fun p => { p with resetCmd := some (n, m.id) })
      else c.updSsp (b - 24) (fun p => { p with resetCmd := some (n, m.id) }))

/-- No Running endpoint lies behind the bus (R112). -/
def Chip.idleBus (c : Chip) (b : Nat) : Bool :=
  (c.busSlots b).all (fun sk => (c.slotEps sk).all (fun k => (c.ep k).st != .running))

/-- PORT_SUSPEND (R112, R214). -/
def Chip.cmdPortSuspend (c : Chip) (n : Nat) (m : Cmd) : Chip :=
  c.onPort n m (fun c b =>
    let l1 := m.par.getLsbD 16
    if b < 24 then
      let p := c.port b
      if p.st ≠ pEnabled ∨ c.idleBus b = false ∨ (l1 = true ∧ p.speed ≠ 3) then c.finish n m.id ccParam 0
      else if l1 then
        let besl := BitVec.ofNat 4 (par m.par 24 4)
        let c := (c.updPort b (fun p => { p with askBesl := besl, suspendCmd := some (n, m.id) })).updBus b
            (fun x => { x with lpm := some besl })
        c.kick b
      else c.updPort b (fun p => { p with st := pSuspending, suspendCmd := some (n, m.id) })
    else
      let p := c.ssp (b - 24)
      if l1 = true ∨ ¬(p.st = sU0 ∨ p.st = sU1 ∨ p.st = sU2) ∨ c.idleBus b = false then c.finish n m.id ccParam 0
      else
        let c := (c.updSsp (b - 24) (fun p => { p with st := sU3 })).emit (.ltssm (b - 24) sU3)
        (c.portChange b chSuspend 0).finish n m.id ccSuccess 0)

/-- PORT_RESUME (R112, R215). -/
def Chip.cmdPortResume (c : Chip) (n : Nat) (m : Cmd) : Chip :=
  c.onPort n m (fun c b =>
    let mine := some (n, m.id)
    if b < 24 then
      let p := c.port b
      if p.st = pSuspended ∨ p.st = pL1 then (c.beginResume b causeHost).updPort b (fun p => { p with resumeCmd := mine })
      else if p.st = pResuming then
        c.updPort b (fun p => { p with resumeCmd := mine, nowCause := if p.nowCause = causeHost then causeHost else causeBoth })
      else if p.st = pRecovery ∧ p.afterResume = true ∧ p.nowCause = causeDevice then
        c.updPort b (fun p => { p with resumeCmd := mine, already := true })
      else if p.st = pEnabled ∧ p.devResumed = true then c.finish n m.id ccSuccess 1
      else c.finish n m.id ccParam 0
    else
      let p := c.ssp (b - 24)
      if p.st = sU3 then (c.beginU3Exit (b - 24) causeHost).updSsp (b - 24) (fun p => { p with resumeCmd := mine })
      else if p.st = sRecovery ∧ p.exiting = true then
        c.updSsp (b - 24) (fun p => { p with resumeCmd := mine, nowCause := if p.nowCause = causeHost then causeHost else causeBoth })
      else c.finish n m.id ccParam 0)

/-- PORT_POWER (R113): of a connector, by either of its buses. -/
def Chip.cmdPortPower (c : Chip) (n : Nat) (m : Cmd) : Chip :=
  c.onPort n m (fun c b =>
    let p := busPort b
    if m.par.getLsbD 16 then
      let c := c.ownerOn p
      c.finish n m.id ccSuccess (c.port p).powerResult
    else
      let ks := (c.connSlots p).flatMap c.slotEps
      (c.ownerOffs p).wait { keys := ks, cont := .powerOff n m.id b })

/-! ### The Scorebook, and the rest -/

/-- The dump is written and the command finished (R114, R194). -/
def Chip.dumpDone (c : Chip) (n : Nat) (m : Cmd) : Chip :=
  let bs := c.sbDump n m.parts
  (c.emit (.dump n (BitVec.ofNat 64 (par m.par 0 64)) (dumpCut (par m.par 64 24) bs))).finish n m.id ccSuccess bs.length

/-- The next home node is asked for its entries, or the dump is written (R194). -/
def Chip.dumpStep (c : Chip) (n : Nat) (m : Cmd) : Chip :=
  match m.ask with
  | [] => c.dumpDone n m
  | node :: _ =>
    let tag := m.id % 65536
    { c with fab := { c.fab with proxies := Tbl.set (0, 0) c.fab.proxies (tag + 65536 * node) (n, m.id) } }.sendFrame node 0x04 tag

/-- GET_SCOREBOOK (R114, R194): for a far instance, the entries of this node. -/
def Chip.cmdGetScorebook (c : Chip) (n : Nat) (m : Cmd) : Chip :=
  if 128 ≤ n then c.finish n m.id ccSuccess (c.localEntries n).length
  else
    let ask := c.farNodes n
    let c := c.updInst n (fun x => { x with cmds := updFirst (fun a => a.id == m.id) (fun a => { a with ask := ask }) x.cmds })
    c.dumpStep n { m with ask := ask }

/-- NOOP (R114). -/
def Chip.cmdNoop (c : Chip) (n : Nat) (m : Cmd) : Chip := c.finish n m.id ccSuccess 0

/-- A command on objects of this node, or on this node's part of a far object. -/
def Chip.localCmd (c : Chip) (n : Nat) (m : Cmd) : Chip :=
  match m.kind with
  | .enableSlot => c.cmdEnableSlot n m
  | .addressDevice => c.cmdAddressDevice n m
  | .configureEp => c.cmdConfigureEp n m
  | .resetEp => c.cmdResetEp n m
  | .stopEp => c.cmdStopEp n m
  | .setDequeue => c.cmdSetDequeue n m
  | .disableSlot => c.cmdDisableSlot n m
  | .createRing => c.cmdCreateRing n m
  | .destroyRing => c.cmdDestroyRing n m
  | .portReset => c.cmdPortReset n m
  | .portSuspend => c.cmdPortSuspend n m
  | .portResume => c.cmdPortResume n m
  | .portPower => c.cmdPortPower n m
  | .getScorebook => c.cmdGetScorebook n m
  | .noop => c.cmdNoop n m

end Sys2Proof.Machine
end

