-- ==== Sys2Proof/Machine/Proxy.lean ====
section
/-! DEFINITION. Commands that name a far object: the host node's part (R90, R239, R357), and the order in which commands
begin (R98). -/

namespace Sys2Proof.Machine

/-- The home node of the object that a command of an instance of this node names, where it is another node (R89). -/
def Chip.cmdNode (c : Chip) (n : Nat) (m : Cmd) : Option Nat :=
  if 128 ≤ n then none
  else
    match c.cmdSlot n m with
    | some sk => if farKey sk then some (sk / 256 - 1) else none
    | none =>
      match cmdPort m with
      | some s => if s / 256 = c.nodeNo then none else some (s / 256)
      | none => none

/-- The host node's copy of a far port's view says that the instance owns it (R206). -/
def Chip.ownsFarPort (c : Chip) (n s : Nat) : Bool := bitAt (Tbl.get 0 (c.inst n).portViews s) 12

/-- Ownership of a far object, by R90. -/
def Chip.ownsFar (c : Chip) (n : Nat) (m : Cmd) : Bool :=
  match c.cmdSlot n m with
  | some sk => c.owns n sk
  | none => match cmdPort m with
    | some s => c.ownsFarPort n s
    | none => false

/-- Quotas of the host node that a far command draws on (R239). -/
def Chip.farQuota (c : Chip) (n : Nat) (m : Cmd) : Bool :=
  match m.kind with
  | .enableSlot => c.room n Quota.slots 1
  | .addressDevice => (c.ep (epKey (c.slotKey (par m.par 0 12)) 0)).st != .disabled || c.room n Quota.eps 1
  | .configureEp =>
    let a := epArgs m.par
    let new := (c.ep (epKey (c.slotKey (par m.par 0 12)) ((epBit (par m.par 16 8)).getD 0))).st == .disabled && !m.par.getLsbD 26
    !new || (c.room n Quota.eps 1 && (!a.per || c.room n Quota.peps 1)
      && (a.streams == 0 || c.room n Quota.streams (2 ^ a.streams)))
  | _ => true

/-- Endpoints that a forwarded stop concerns: their results are LATE from here on (R359). -/
def Chip.markAsked (c : Chip) (n : Nat) (m : Cmd) : Chip :=
  match m.kind, c.cmdSlot n m with
  | .stopEp, some sk =>
    (c.slotEps sk).foldl (fun c k =>
      if m.par.getLsbD 24 || keyBit k == (epBit (par m.par 16 8)).getD 0 then
          c.updEp k (fun e => { e with asked := true, settled := false }) else c) c
  | .disableSlot, some sk => (c.slotEps sk).foldl (fun c k => c.updEp k (fun e => { e with asked := true, settled := false })) c
  | .destroyRing, some _ => c.updEp (c.ring n (par m.par 0 15)).key (fun e => { e with asked := true, settled := false })
  | _, _ => c

/-- A COMMAND frame to a home node, whose REPLY finishes `ref`. -/
def Chip.ask (c : Chip) (node tag : Nat) (ref : CmdRef) : Chip :=
  ({ c with fab := { c.fab with proxies := Tbl.set (0, 0) c.fab.proxies (tag + 65536 * node) ref } } : Chip).sendFrame node 0x04 tag

/-- The home node is sent the settings of an instance with its first proxied work (R177). -/
def Chip.tellSettings (c : Chip) (n node : Nat) : Chip :=
  if (c.inst n).told.contains node then c
  else (c.updInst n (fun x => { x with told := node :: x.told })).sendFrame node 0x04 (n + 2 ^ 9)

/-- The state that a far command asks for, as far as the host node's copies tell it (R99 step 3, R206): a refusal for a quota comes
after it. -/
def Chip.farState (c : Chip) (n : Nat) (m : Cmd) : Bool :=
  let sk := c.slotKey (par m.par 0 12)
  match m.kind with
  | .enableSlot =>
    let v := Tbl.get 0 (c.inst n).portViews (par m.par 0 12)
    bitAt v 8 && routeOk (par m.par 32 20) && (par m.par 32 20 != 0 || par m.par 16 4 == fld v 3 0)
  | .addressDevice => (c.slot sk).st == .enabled || ((c.slot sk).st == .default && par m.par 32 2 != 1)
  | .configureEp => (c.ep (epKey sk ((epBit (par m.par 16 8)).getD 0))).st == .disabled
  | _ => true

/-- The instance's orphaned slot on another node at the ROOT and ROUTE of an ENABLE_SLOT: it is given back, whatever the quota says
(R251). -/
def Chip.farOrphan (c : Chip) (n : Nat) (m : Cmd) : Bool :=
  m.kind == .enableSlot && c.slots.any (fun x => farKey x.1 && x.2.orphan && x.2.owner.toNat == n
    && x.2.root.toNat == par m.par 0 12 && x.2.route.toNat == par m.par 32 20)

/-- A far command is checked for ownership, state and quotas, and forwarded (R90, R99, R357). -/
def Chip.forwardCmd (c : Chip) (n : Nat) (m : Cmd) (node : Nat) : Chip :=
  if !c.ownsFar n m || c.portTo node = 0 then c.finish n m.id ccParam 0
  else
    let c := match c.cmdSlot n m with
      | some sk => c.adopt sk
      | none => c
    if !c.farQuota n m && !c.farOrphan n m then c.finish n m.id (if c.farState n m then ccQuota else ccParam) 0
    else ((c.markAsked n m).tellSettings n node).ask node (m.id % 65536) (n, m.id)

/-- A command executes, in the hands of a Fielder of its role (R45). -/
def Chip.takeUp (c : Chip) (n : Nat) (m : Cmd) : Chip :=
  let d := c.dispatch (cmdKinds.idxOf m.kind)
  d.2.updInst n (fun x => { x with cmds := updFirst (fun a => a.id == m.id) (fun a => { a with phase := .running, holder := d.1 }) x.cmds })

/-- A command begins (R98, R99). -/
def Chip.beginCmd (c : Chip) (n : Nat) (m : Cmd) : Chip :=
  let c := c.takeUp n m
  if !cmdValid m.kind m.par then c.finish n m.id ccParam 0
  else if c.boot.fwRunning && c.roleDown (cmdKinds.idxOf m.kind) then c.finish n m.id ccAborted 0
  else
    match c.cmdNode n m with
    | some node => c.forwardCmd n m node
    | none => c.localCmd n m

/-- Commands up to and including the first that satisfies a test are to begin; they begin in ring order (R98). -/
def markWaiting (p : Cmd → Bool) : List Cmd → List Cmd
  | [] => []
  | m :: t =>
    let m' := if m.phase = .fetched then { m with phase := .waiting } else m
    if p m && m.phase == .fetched then m' :: t else m' :: markWaiting p t

/-- A command row: the instance's oldest fetched command with this TAG and these parameters begins, behind those before
it; one that the ring hands over is fetched with it (R56, R98). -/
def Chip.cmdRow (c : Chip) (n : Nat) (k : CmdKind) (tag : BitVec 16) (p : BitVec 192) : Chip :=
  let x := c.inst n
  let p := if x.compat then BitVec.ofNat 192 (p.toNat % 2 ^ 96) else p
  let tag := if x.compat then 0 else tag
  let is (m : Cmd) : Bool := m.kind == k && m.tag == tag && m.par == p && m.phase == .fetched
  let c :=
    if x.cmds.any is then c
    else if x.cmdOpen && decide (x.cmds.length < 4) && (x.cmdNext != x.cmdProd) then
      (c.updInst n (fun x => { x with cmdReads := x.cmdReads - 1 })).pushCmd n tag k p .fetched
    else c
  if (c.inst n).cmds.any is then c.updInst n (fun x => { x with cmds := markWaiting is x.cmds }) else c

end Sys2Proof.Machine
end

