-- ==== Sys2Proof/Machine/Reset.lean ====
section
/-! DEFINITION. The resets of the whole chip (R22) and the latching of the straps (R23, R24). -/

namespace Sys2Proof.Machine

/-- The straps as GSTS holds them (R23, R24): a reserved manager select acts as 0b01. -/
def latch (p : StrapPins) : Straps :=
  { mgrSel := if p.mgr = 0 then 0 else 1, bifur := p.bifur, smb := p.smb, refclk := p.refclk, passOff := p.passOff,
    compat := p.compat, err := decide (2 ≤ p.mgr.toNat) }

/-- The PFs as a reset leaves them (R84, R232). -/
def pfTable (s : Straps) : Tbl Inst := (0, pfReset 0 s.compat) :: (if s.bifur then [(64, pfReset 8 s.compat)] else [])

/-- What the Sideline keeps of the power state over RESET# and CHIP_RESET (R22); the levels of the GPIO balls are inputs. -/
def Pwr.sideline (p : Pwr) : Pwr :=
  { refuse1 := p.refuse1, refuse2 := p.refuse2, refBlock := p.refBlock, refPhase := p.refPhase, refTarget := p.refTarget,
    refStep := p.refStep, wkBlock := p.wkBlock, wkFrom := p.wkFrom, wkDetail := p.wkDetail, wkAp := p.wkAp,
    wakeTime := p.wakeTime, slTimer := p.slTimer, slTime := p.slTime, tripped := p.tripped, gpio := p.gpio }

/-- What the Sideline and OTP keep of the reliability state: the fault log, FLOG_STS, the repair map and what it records
(R22, R403). -/
def Rel.sideline (r : Rel) : Rel :=
  { flog := r.flog, oldest := r.oldest, unread := r.unread, lost := r.lost, next := r.next, seq := r.seq,
    repairs := r.repairs.filter (fun x => !x.injected), retired := r.retired, otpLeft := r.otpLeft,
    otpRows := r.otpRows, otpFielders := r.otpFielders }

/-- What OTP keeps over power-on: its repairs are applied at the next SRAM initialisation, its retirements at the next boot (R22,
R26 step 4, R403). -/
def Rel.otp (r : Rel) : Rel :=
  { repairs := r.otpRows, retired := r.otpFielders, otpLeft := r.otpLeft, otpRows := r.otpRows, otpFielders := r.otpFielders }

/-- The POC# balls keep their levels; every deglitch count starts again (R26). -/
def Chip.pocLevels (c : Chip) : Tbl Port := Tbl.mapv {} c.ports (fun _ p => { pocLow := p.pocLow })

/-- RESET# low, and CHIP_RESET (R22). The numbering of commands and of free values, and the outputs, are the model's. -/
def Chip.coreReset (c : Chip) (s : Straps) : Chip :=
  { straps := s, jtag := { c.jtag with held := [] }, hold := c.hold, fuse := c.fuse, otpKey := c.otpKey, insts := pfTable s
    link0 := { perstN := c.link0.perstN }, link1 := { perstN := c.link1.perstN }
    cap := { compatDefault := s.compat }, ports := c.pocLevels, pass := { vbus := c.pass.vbus }
    pwr := c.pwr.sideline, rel := c.rel.sideline, ids := c.ids, free := c.free, out := c.out }

/-- Power-on (R22): everything but OTP, the fuses and the levels on the balls. -/
def Chip.powerOnReset (c : Chip) (s : Straps) : Chip :=
  { c.coreReset s with pwr := { gpio := c.pwr.gpio }, rel := c.rel.otp }

end Sys2Proof.Machine
end

