-- ==== Sys2Proof/Machine/Instances.lean ====
section
/-! DEFINITION. Instances as they are reset (R250, R251), enabled, disabled and destroyed (R236, R248); a slot or a
connector as it changes its owner (R226, R248, R252, R253); links and the lost-host policy (R22, R27, R257, R258). -/

namespace Sys2Proof.Machine

/-! ### The manager's completion -/

/-- An event on PF0's MSI-X entry 0, where the manager is PF0 (R115, R257). -/
def Chip.mgrMsix (c : Chip) : Chip :=
  if c.straps.mgrSel = 1 ∨ (c.inst 0).deaf = true then c else c.onInst 0 (fun w => w.msix 0 0)

/-- A manager command completes, where MGR_STS still tracks it (R116). -/
def Chip.mgrDone (c : Chip) (ticket : Nat) (code : Byte) (result : Nat) : Chip :=
  if c.mgr.busy && c.mgr.ticket == ticket then
    let c := { c with mgr := { c.mgr with busy := false, done := true, code := code, result := BitVec.ofNat 16 result } }
    if c.mgr.ie then c.mgrMsix else c
  else c

/-- The mark of a ticket that a COMMAND of another node carries: its node and tag. -/
def farTicket (node tag : Nat) : Nat := 2 ^ 64 + 2 ^ 16 * node + tag

/-- Work that a manager asked for is done: in MGR_STS, or by a REPLY. -/
def Chip.ticketDone (c : Chip) (t : Option Nat) (code : Byte) (result : Nat) : Chip :=
  match t with
  | none => c
  | some t =>
    if t < 2 ^ 64 then c.mgrDone t code result
    else c.sendFrame (t / 2 ^ 16 % 16) 0x05 (t % 2 ^ 16 + 2 ^ 16 * code.toNat + 2 ^ 24 * result)

/-! ### A slot changes hands -/

/-- Slots whose endpoints are a driver's: not a service hub's, a shared device's or one under enumeration's (R262). -/
def Slot.driven (s : Slot) : Bool := !s.hub && !s.busy && s.shared.isNone

/-- OWNER of a slot, an instance of this node or another (R239, R253). -/
def Chip.setOwner (c : Chip) (sk owner : Nat) : Chip :=
  let b := c.slotBus sk
  let was := (c.slot sk).far.isSome
  let c := c.updSlot sk (fun s => { s with
    owner := if owner < 128 then BitVec.ofNat 7 owner else nobody
    far := if owner < 128 then none else some (farOf owner)
    moved := c.ownerOf (busPort b) != some owner })
  let c := (c.takePlace sk).getD c
  if was then c.freePlaces b else c

/-- Steps 3 to 5 of R253 for one slot; a slot of the services only changes its owner. -/
def Chip.moveSlotNow (c : Chip) (sk owner : Nat) : Chip :=
  if !(c.slot sk).driven then c.setOwner sk owner
  else
    let c := ((c.slotEps sk).foldl (fun c k => c.dropRings k) c).detachAll sk 1
    let c := c.setOwner sk owner
    if owner < 128 ∧ (c.inst owner).compat = true then c.updSlot sk (fun s => { s with orphan := true })
    else (c.updSlot sk (fun s => { s with orphan := false })).attachAll sk

/-- A slot is settled, reported with DETACH REASON 1 and Disabled (R226, R252). The stops have bumped the endpoints of a driver's. -/
def Chip.endSlot (c : Chip) (sk : Nat) : Chip :=
  let c := if (c.slot sk).shared.isSome then (c.viewers sk).foldl (fun c n => c.dropView sk n) c else c
  (c.detachAll sk 1).clearSlot sk (!(c.slot sk).driven)

/-- The stops of R105 for endpoints that change hands: each is left Stopped and bumped, Halted and Stopped ones too (R253 step 2). -/
def Chip.stopForMove (c : Chip) (sks : List Nat) : Chip :=
  ((sks.filter (fun sk => (c.slot sk).driven)).flatMap c.slotEps).foldl (fun c k => (c.stop k .reset).tend k) c

/-- Commands that have begun and name one of the slots (R253 step 1). -/
def Chip.cmdsOn (c : Chip) (sks : List Nat) : List (Nat × Nat) :=
  c.insts.flatMap (fun x => (x.2.cmds.filter (fun m => m.phase == .running
    && (match c.cmdSlot x.1 m with | some sk => sks.contains sk | none => false))).map (fun m => (x.1, m.id)))

/-- An assignment begins: stops, and the wait for what R253 puts before the move. -/
def Chip.beginMove (c : Chip) (sks : List Nat) (k : Cont) : Chip :=
  let keys := (sks.filter (fun sk => (c.slot sk).driven)).flatMap c.slotEps
  (c.stopForMove sks).wait { keys := keys, cmds := c.cmdsOn sks, was := c.epStates keys, cont := k }

/-- Slots that are still there. -/
def Chip.present (c : Chip) (sks : List Nat) : List Nat :=
  sks.filter (fun sk => (c.slot sk).st != .disabled && !(c.slot sk).leaving)

/-- The move of a slot (R253), or its end where the device has gone (R256). -/
def Chip.moveSlotDone (c : Chip) (t : Option Nat) (sk owner : Nat) : Chip :=
  if (c.present [sk]).isEmpty then c.ticketDone t ccDevGone 0
  else (c.moveSlotNow sk owner).ticketDone t ccSuccess 0

/-- Devices of a connector whose power stays are reported to its new owner: by managed enumeration, or by PORT_CHANGE. -/
def Chip.tellConnected (c : Chip) (p : Nat) : Chip :=
  ((if p < 8 then [p, 24 + p] else [p]).filter c.connectedOn).foldl (fun c b =>
    if c.enumOn b then c.enumLate b
    else
      match c.ownerOf p with
      | none => c
      | some n => c.event n evPortChange (c.subject b) (toWord chConnect) (toWord (c.portStatus b 0))) c

/-- The enumerations and parked devices of a connector are forgotten. -/
def Chip.forgetPort (c : Chip) (p : Nat) : Chip :=
  let c := (c.jobs.filter (fun j => busPort (jobBus j.1) == p)).foldl (fun c j => c.dropJob j.1) c
  c.updPort p (fun q => { q with parked := [] })

/-- A connector's owner. The last owner's PORT_POWER with ON = 0 still keeps AUTO_ON from powering it (R279). -/
def Port.ownedBy (q : Port) (owner : Nat) : Port :=
  { q with
    owner := if owner < 128 then BitVec.ofNat 7 owner else nobody
    farOwner := if owner < 128 then none else some (farOf owner) }

/-- A far instance that loses or gains the ports of a connector is told, so that its host node's copy of their views follows
(R206, R252). -/
def Chip.tellFar (c : Chip) (p : Nat) (was : Option (Nat × Nat)) : Chip :=
  let bs := if p < 8 then [p, 24 + p] else [p]
  let now := (c.port p).farOwner
  if was = now then c
  else
    let c := match was with
      | some f => bs.foldl (fun c b => c.sendFrame f.1 0x06 (2 ^ 8 * (c.subject b).toNat)) c
      | none => c
    match now with
    | some f => bs.foldl (fun c b => c.event (farInst f.1 f.2) evPortChange (c.subject b) 0 (toWord (c.portStatus b 0))) c
    | none => c

/-- The move of a connector (R226, R252); `owner` 127: nobody. -/
def Chip.movePortDone (c : Chip) (t : Option Nat) (p owner : Nat) (pass keep : Bool) : Chip :=
  let keep := if pass then c.keepToHub keep else keep
  let hub := (c.port p).pass
  let stays := keep && !pass && owner != 127 && !hub
  let sks := c.present (c.connSlots p)
  let was := (c.port p).farOwner
  let c :=
    if stays then sks.foldl (fun c sk => c.moveSlotNow sk owner) c
    else (sks.foldl (fun c sk => c.endSlot sk) c).forgetPort p
  let c := if hub then c.leaveHub p else c
  let c := if !keep && ((c.port p).powered || (c.port p).cycle.isSome) then
      (c.ppeLow p 1).updPort p (fun q => { q with cycle := none }) else c
  let c := if pass then c.giveHub p else c.updPort p (fun q => q.ownedBy owner)
  let c := c.tellFar p was
  let compat := decide (owner < 128) && (c.inst owner).compat
  let c := if pass || owner == 127 then c
    else if hub || compat then (if keep then c.tellConnected p else c)
    else if keep then (let c := c.enumLate p; if p < 8 then c.enumLate (24 + p) else c)
    else c
  let c := if (!pass && !keep) || (!pass && owner == 127) then c.autoPower p else c
  ((c.applyCharge p).retryParked).ticketDone t ccSuccess 0

/-! ### Reset of an instance -/

/-- Slots of the instance whose endpoints its reset stops. -/
def Chip.resetSlots (c : Chip) (n : Nat) : List Nat := (c.ownSlots n).filter (fun sk => (c.slot sk).driven)

/-- Shared slots of which the instance has a view. -/
def Chip.sharedWith (c : Chip) (n : Nat) : List Nat :=
  (c.slots.filter (fun s => s.2.shared.isSome && c.owns n s.1)).map (fun s => s.1)

/-- The end of a command of the instance. -/
def Cont.ofInst (n : Nat) (k : Cont) : Bool := k.cmdRef.any (fun r => r.1 == n)

/-- Commands in execution end, and their records are dropped (R250 step 4). -/
def Chip.endCmds (c : Chip) (n : Nat) : Chip :=
  let c := (c.ownSlots n).foldl (fun c sk =>
    if (c.ep (epKey sk 0)).setAddr.isSome then c.setAddrEnd (epKey sk 0) ccStopped else c) c
  { c.updInst n (fun x => { x with cmds := [], cmdDead := x.cmdDead + x.cmdReads, cmdReads := 0 }) with
    waits := c.waits.filter (fun w => !w.cont.ofInst n) }

/-- Every endpoint of the instance is stopped, its results dropped; its Carry channels are reset (R309); its views of
shared devices are withdrawn. -/
def Chip.dropAll (c : Chip) (n : Nat) : Chip :=
  let c := c.updInst n Inst.resetChans
  let c := (c.sharedWith n).foldl (fun c sk =>
    (c.slotEps sk).foldl (fun c k => c.updEp k (fun e => { e with done := e.done.filter (fun d => d.inst != n) })) (c.dropView sk n)) c
  let c := ((c.resetSlots n).flatMap c.slotEps).foldl (fun c k => c.stop k .drop) c
  ((c.farNodes n).foldl (fun c node => c.sendFrame node 0x04 n) c).kickAll

/-- Steps 3 to 5 go on, by a Fielder or by hardware. -/
def Chip.resetWork (c : Chip) (n : Nat) : Chip :=
  c.wait { keys := (c.resetSlots n).flatMap c.slotEps, posted := false, gens := [n], cont := .instReset n }

/-- Steps 1 and 2 of R250, and the stops; a Fielder acknowledges where firmware runs. -/
def Chip.startReset (c : Chip) (n : Nat) (back : InstSt) : Chip :=
  let c := c.updInst n (fun x => { x with st := .resetting, back := back, escalated := false }) |>.bumpGen n
  let c := (c.endCmds n).dropAll n
  if c.boot.fwRunning && !c.roleDown 80 then c.resetWork n else c

/-- INST_RESET_ESCALATION (R250, R412). -/
def Chip.escalate (c : Chip) (n : Nat) : Chip :=
  if (c.inst n).st = .resetting then
    let c := (c.updInst n (fun x => { x with escalated := true })).log 0x15 0x09 n (c.inst n).gen.toNat 0 0
    if c.waits.any (fun w => w.cont == .instReset n) then c else c.resetWork n
  else c

/-- The instance as step 5 leaves it. -/
def Inst.afterReset (x : Inst) (compat : Bool) : Inst :=
  { st := x.back, escalated := x.escalated, gen := x.gen, compat := compat, vfOn := x.vfOn, quota := x.quota
    genDue := x.genDue, drops := x.drops, told := x.told, farSet := x.farSet
    cmdDead := x.cmdDead + x.cmdReads, rings := x.rings, fmask := x.fmask, portViews := x.portViews
    chans := Tbl.mapv {} x.chans (fun _ h => h.reset), enumFails := x.enumFails
    orphans := true, joinDestroy := x.joinDestroy, inMgr := x.inMgr }

/-- The instance as VF_ENABLE finds it in CREATED: its page at reset values, and the events held for ring 0 kept (R236, R254). -/
def Inst.enabled (x : Inst) : Inst :=
  let held := (x.cring 0).held
  { x.afterReset x.compat with
    st := .active, vfOn := true, orphans := x.orphans, evtOvf := x.evtOvf, ovfDue := x.ovfDue
    crings := if held.isEmpty then [] else [(0, { held := held })] }

/-- A group loses a member that is no longer VALID (R272, R273, R277); `f` is what makes it so. -/
def Chip.memberGone (c : Chip) (n : Nat) (f : Chip → Chip) : Chip :=
  let gs := (List.range 8).filter (fun g => (c.members g).contains n)
  let c := gs.foldl (fun c g => if c.members g == [n] then c.dissolve g else c) c
  let lost := gs.filter (fun g => c.focusInst g == some n)
  lost.foldl (fun c g =>
    match c.nextMember g (c.share g).focus with
    | some m => c.switchFocus g m false
    | none => c) (f c)

/-- A connector of a destroyed instance (R248 step 1). -/
def Chip.orphanPort (c : Chip) (n p : Nat) : Chip :=
  let c := (c.present (c.connSlots p)).foldl (fun c sk =>
    let s := c.slot sk
    if c.ringHome sk == n then
      (if s.shared.isSome then c.leaveGroup sk else c).clearSlot sk true
    else ((c.updSlot sk (fun s => { s with leaving := true })).stopAllEps sk .reset).wait { keys := c.slotEps sk, cont := .detach sk 5 }) c
  let c := (c.forgetPort p).updPort p (fun q => q.ownedBy 127)
  (c.autoPower p).applyCharge p

/-- Nodes on which an instance holds a port or a slot. -/
def Chip.heldNodes (c : Chip) (n : Nat) : List Nat :=
  dedup (c.farNodes n ++ ((c.inst n).portViews.filter (fun v => bitAt v.2 12)).map (fun v => v.1 / 256))

/-- R248, after step 4 of the reset. -/
def Chip.destroyInst (c : Chip) (n : Nat) : Chip :=
  let c := (c.heldNodes n).foldl (fun c node => c.sendFrame node 0x04 (n + 2 ^ 8)) c
  let c := ((List.range 24).filter (fun p => !(c.port p).pass && c.ownerOf p == some n)).foldl (fun c p => c.orphanPort n p) c
  let c := (c.present (c.ownSlots n)).foldl (fun c sk =>
    if farKey sk then c.clearSlot sk true
    else
      match c.ownerOf (busPort (c.slotBus sk)) with
      | some m => c.moveSlotNow sk m
      | none => c.clearSlot sk true) c
  (c.memberGone n (fun c => c.updInst n (fun x =>
    { gen := x.gen, genDue := x.genDue, vfOn := x.vfOn, rings := x.rings, cmdDead := x.cmdDead, fmask := x.fmask
      chans := Tbl.mapv {} x.chans (fun _ h => { h.reset with phys := none }) }))).retryParked

/-- Slots of this node that an instance, here or far, holds. -/
def Chip.heldBy (c : Chip) (n : Nat) : List Nat :=
  (c.slots.filter (fun s => decide (s.1 < 256) && s.2.st != .disabled && c.ringHome s.1 == n)).map (fun s => s.1)

/-- The reset of an instance of another node has stopped what it holds here; with its destruction its slots and connectors
go (R248, R250, R357). Its far places' records are cleared and their buckets filled (R183, R196). -/
def Chip.farResetFinish (c : Chip) (n : Nat) : Chip :=
  let sks := (c.heldBy n).filter (fun sk => (c.slot sk).driven)
  let c := ((c.inst n).rings.filter (fun r => r.2.live)).foldl (fun c r => c.dropRing n r.1) c
  let c := (sks.flatMap c.slotEps).foldl (fun c k => c.updEp k (fun e => { e with st := .stopped, rally := e.rally.ease c.us })) c
  let c := (sks.foldl (fun c sk => c.updSlot sk (fun s => { s with orphan := true })) c).clearQueues n
  if !(c.inst n).joinDestroy then c
  else
    let c := ((List.range 24).filter (fun p => (c.port p).farOwner == some (farOf n))).foldl (fun c p => c.orphanPort n p) c
    let c := (c.present (c.heldBy n)).foldl (fun c sk =>
      match c.ownerOf (busPort (c.slotBus sk)) with
      | some m => c.moveSlotNow sk m
      | none => c.clearSlot sk true) c
    { c with insts := c.insts.filter (fun x => x.1 != n) }.retryParked

/-- Steps 4 to 6 of R250 have come about, with what joined the reset (R248, R250). -/
def Chip.resetFinish (c : Chip) (n : Nat) : Chip :=
  if 128 ≤ n then c.farResetFinish n
  else
  let sks := c.resetSlots n
  let c := ((c.inst n).rings.filter (fun r => r.2.live)).foldl (fun c r => c.dropRing n r.1) c
  let c := (sks.flatMap c.slotEps).foldl (fun c k => c.updEp k (fun e => { e with st := .stopped, rally := e.rally.ease c.us })) c
  let c := sks.foldl (fun c sk => c.updSlot sk (fun s => { s with orphan := true })) c
  let c := (c.updInst n (fun x => x.afterReset (if c.isPf n then c.cap.compatDefault else x.compat))).clearQueues n
  let x := c.inst n
  let c := c.updInst n (fun x => { x with joinDestroy := false, inMgr := false })
  let c := if x.joinDestroy then c.destroyInst n else c
  if x.inMgr then c.mgrDone c.mgr.ticket ccSuccess x.gen.toNat else c

/-- A trigger that resets one instance as INST_RESET does (R22, R236, R249): the state it returns to. -/
def Chip.triggerReset (c : Chip) (n : Nat) (back : InstSt → InstSt) : Chip :=
  let x := c.inst n
  match x.st with
  | .active | .frozen => c.startReset n (back x.st)
  | .resetting => c.updInst n (fun x => { x with back := back x.back })
  | .created | .linkLost => c.bumpGen n
  | .absent => c

/-- FLR (R22, R250): the function's own configuration is cleared. -/
def Chip.flr (c : Chip) (n : Nat) : Chip :=
    (c.triggerReset n id).updInst n (fun x => if x.st = .absent then x else { x with fmask := false })

/-- VF_ENABLE (R236). -/
def Chip.vfEnable (c : Chip) (n : Nat) : Chip :=
  if c.isPf n then c
  else
    c.updInst n (fun x =>
      if x.st = .created then x.enabled
      else { x with vfOn := true })

/-- VF_DISABLE (R236, R249, R250). -/
def Chip.vfDisable (c : Chip) (n : Nat) : Chip :=
  if c.isPf n || !(c.inst n).vfOn then c
  else
    let c := c.updInst n (fun x => { x with vfOn := false })
    match (c.inst n).st with
    | .active => c.startReset n .created
    | .resetting => c.updInst n (fun x => { x with back := .created })
    | .frozen => (c.updInst n (fun x => x.resetChans)).bumpGen n
    | _ => c

/-! ### Links -/

/-- Instances of a link that are there. -/
def Chip.linkInsts (c : Chip) (l : Nat) : List Nat :=
  (c.insts.filter (fun x => decide (x.1 < 128) && c.instLink x.1 == l)).map (fun x => x.1)

/-- LINK_STS.DOWN of a link, and CHG where it changes (R257). -/
def Chip.linkDown (c : Chip) (l : Nat) (down : Bool) : Chip :=
  if (c.link l).down = down then c
  else
    let c := c.updLink l (fun k => { k with down := down, chg := true })
    if c.cap.linkIe then c.mgrMsix else c

/-- The nodes that hold something of a link's instances learn whether it is in L0 or L1 (R278). -/
def Chip.tellLink (c : Chip) (l : Nat) (up : Bool) : Chip :=
  (c.linkInsts l).foldl (fun c n => (c.heldNodes n).foldl (fun c node => c.sendFrame node 0x04 (n + 2 ^ (if up then 17 else 18))) c) c

/-- The power state of a link changes. -/
def Chip.setPm (c : Chip) (l : Nat) (pm : LinkPm) : Chip :=
  let was := linkRunning (c.link l).pm
  let c := c.updLink l (fun k => { k with pm := pm })
  if was = linkRunning pm then c else c.tellLink l (linkRunning pm)

/-- Each instance of a link is reset, and its functions' configuration is cleared, VF Enable with it (R22). -/
def Chip.resetLink (c : Chip) (l : Nat) : Chip :=
  (c.linkInsts l).foldl (fun c n =>
    (c.triggerReset n id).updInst n (fun x => { x with fmask := false, vfOn := x.vfOn && c.isPf n })) c

/-- PERST_ASSERT (R22, R257). -/
def Chip.perstLow (c : Chip) (l : Nat) : Chip :=
  if !(c.link l).perstN then c
  else
    let was := linkRunning (c.link l).pm
    let c := (c.setPm l .down).updLink l (fun k => { k with perstN := false, lost := false, delay := false })
    ((if was then c.linkDown l true else c).resetLink l).chargeAll

/-- PERST_RELEASE (R27). -/
def Chip.perstHigh (c : Chip) (l : Nat) : Chip := c.updLink l (fun k => { k with perstN := true })

/-- HOT_RESET (R22): the link trains again. -/
def Chip.hotReset (c : Chip) (l : Nat) : Chip :=
  if !(c.link l).perstN || (c.link l).pm == .down then c
  else ((c.setPm l .training).resetLink l).chargeAll

/-- LINK_TRAIN_START (R27). -/
def Chip.trainStart (c : Chip) (l : Nat) : Chip :=
  if c.boot.ready && (c.link l).perstN && (l == 0 || c.straps.bifur) && (c.link l).pm == .down then
    c.updLink l (fun k => { k with pm := .training })
  else c

/-- PF0 owns every port (R32). -/
def Chip.sandlotPorts (c : Chip) : Chip := forUpTo 24 (fun p c => c.updPort p (fun q => { q with owner := 0 })) c

/-- A lost link returns: each of its instances is reset as at a hot reset, then ACTIVE, and its functions' configuration is cleared, VF
Enable with it (R22, R236, R258). A reset that the loss had joined ends in the same way. DEDUCED, log entry 66. -/
def Chip.linkBack (c : Chip) (l : Nat) : Chip :=
  (c.linkInsts l).foldl (fun c n =>
    let c := match (c.inst n).st with
      | .linkLost => c.startReset n .active
      | .resetting => c.updInst n (fun x => { x with back := if x.back = InstSt.linkLost then InstSt.active else x.back })
      | _ => c
    c.updInst n (fun x => { x with fmask := false, vfOn := x.vfOn && c.isPf n })) c

/-- LINK_REACHES_L0 (R29, R236, R258, R278). -/
def Chip.linkL0 (c : Chip) (l : Nat) : Chip :=
  if !c.boot.ready || !(c.link l).perstN || (l == 1 && !c.straps.bifur) then c
  else
    let lost := (c.link l).lost
    let c := ((c.setPm l .l0).updLink l (fun k => { k with lost := false, delay := false })).linkDown l false
    let c := if c.boot.mode = .waiting ∧ c.boot.chosen = false then
        { c with boot := { c.boot with mode := .sandlotHc, chosen := true } }.sandlotPorts
      else c
    (if lost then c.linkBack l else c).chargeAll

/-- PASS_FALLBACK_TIMEOUT (R29, R30): every connector becomes the hub's. -/
def Chip.passFallback (c : Chip) : Chip :=
  if c.boot.mode = .waiting ∧ c.boot.chosen = false ∧ c.straps.passOff = false then
    let c := { c with boot := { c.boot with mode := .sandlotPass, chosen := true }, pass := { c.pass with hubEn := true } }
    (forUpTo 24 (fun p c => c.updPort p (fun q => { q with pass := true, owner := nobody })) c).chargeAll
  else c

/-- LINK_PM_STATE_CHANGE (R278, R384). -/
def Chip.linkPm (c : Chip) (l : Nat) (pm : LinkPm) : Chip :=
  let c := if linkRunning (c.link l).pm && !linkRunning pm && pm != .l2 && pm != .l3 then c.linkDown l true else c
  (c.setPm l pm).chargeAll

/-- LINK_LOST (R258). -/
def Chip.lostLink (c : Chip) (l : Nat) : Chip :=
  if !(c.link l).perstN then c
  else
    let c := ((c.setPm l .down).updLink l (fun k => { k with lost := true, delay := true })).linkDown l true
    let c := (c.linkInsts l).foldl (fun c n =>
      match (c.inst n).st with
      | .active | .frozen =>
        let c := c.updInst n (fun x => { x with st := .linkLost, cmdDead := x.cmdDead + x.cmdReads, cmdReads := 0 }) |>.bumpGen n
        c.dropAll n
      | .resetting => c.updInst n (fun x => { x with back := .linkLost })
      | .created => c.bumpGen n
      | _ => c) c
    c.chargeAll

/-! ### Checks of an assignment -/

/-- The target has the quota for slots it does not hold yet (R254). -/
def Chip.fitsTarget (c : Chip) (owner : Nat) (sks : List Nat) : Bool :=
  let new := sks.filter (fun sk => !((c.slot sk).far.isNone && (c.slot sk).owner.toNat == owner))
  (Quota.short ((c.use owner).add (c.slotUse new)) (c.inst owner).quota).isNone

/-- Why ASSIGN_PORT of a local connector to an instance of this node is refused (R255). -/
def Chip.portRefused (c : Chip) (p owner : Nat) (pass keep : Bool) : Option Nat :=
  if pass || owner == 127 then none
  else if (c.inst owner).st = .absent then some 2
  else if keep && !c.fitsTarget owner (c.present (c.connSlots p)) then some 6
  else none

/-- Why ASSIGN_DEVICE of a local slot is refused (R253 to R255, R273). -/
def Chip.slotRefused (c : Chip) (sk owner : Nat) : Option Nat :=
  let s := c.slot sk
  if s.st = .disabled ∨ s.managed = false ∨ s.driven = false then some 4
  else if owner < 128 ∧ (c.inst owner).st = .absent then some 2
  else if owner < 128 ∧ (c.inst owner).compat = true then some 5
  else if owner < 128 ∧ c.fitsTarget owner [sk] = false then some 6
  else none

/-- A connector that already is where the assignment puts it (R252). -/
def Chip.assigned (c : Chip) (p owner : Nat) (pass : Bool) : Bool :=
  if pass then (c.port p).pass else !(c.port p).pass && (c.ownerOf p).getD 127 == owner

/-- A connector moves (R252). -/
def Chip.assignPort (c : Chip) (t : Option Nat) (p owner : Nat) (pass keep : Bool) : Chip :=
  if c.assigned p owner pass then c.ticketDone t ccSuccess 0
  else c.beginMove (c.connSlots p) (.movePort t p owner pass keep (c.connSlots p))

/-- A slot moves (R253). -/
def Chip.assignSlot (c : Chip) (t : Option Nat) (sk owner : Nat) : Chip :=
  if c.ringHome sk = owner then c.ticketDone t ccSuccess 0
  else if (c.slot sk).leaving then c.ticketDone t ccDevGone 0
  else c.beginMove [sk] (.moveSlot t sk owner)

/-! ### The lost-host policy -/

/-- POWER_OFF of one connector: its slots are settled as a detach (R258). -/
def Chip.policyOff (c : Chip) (p : Nat) : Chip :=
  let c := c.updPort p (fun q => { q with noAuto := true, cycle := none })
  if (c.port p).powered then c.ppeLow p 4 else c

/-- HOST_LINK_DELAY_EXPIRY (R257, R258): the policy acts on the connectors and devices of the link's instances; for those of other
nodes, by COMMAND frames to their home nodes. -/
def Chip.delayEnd (c : Chip) (l : Nat) : Chip :=
  let k := c.link l
  if !k.lost || !k.delay then c
  else
    let ns := c.linkInsts l
    let ports := (List.range 24).filter (fun p => !(c.port p).pass && (c.ownerOf p).any ns.contains)
    let far := ns.flatMap (fun n => ((c.inst n).portViews.filter (fun v => bitAt v.2 12)).map (fun v => (n, v.1)))
    let t := k.target.toNat
    let policy := if !c.boot.fwRunning then 0 else k.policy.toNat
    let c := c.updLink l (fun k => { k with delay := false, acted := true })
    let c := if c.cap.linkIe then c.mgrMsix else c
    if policy = 1 then far.foldl (fun c x => c.sendFrame (x.2 / 256) 0x04 (x.1 + 2 ^ 12 + 2 ^ 16 * x.2))
        (ports.foldl (fun c p => c.policyOff p) c)
    else if policy = 2 ∧ c.straps.bifur = true ∧ c.instLink t ≠ l ∧ (c.inst t).st ≠ .absent then
      let all := (ns.flatMap c.ownSlots)
      let farSks := all.filter (fun sk => farKey sk && !far.any (fun x => x.2 == (c.slot sk).root.toNat))
      let sks := all.filter (fun sk => !farKey sk && !ports.contains (busPort (c.slotBus sk)))
      let c := ports.foldl (fun c p => if t = 127 ∨ (c.portRefused p t false true).isSome then c else c.assignPort none p t false true) c
      let c := sks.foldl (fun c sk => if (c.slotRefused sk t).isSome then c else c.assignSlot none sk t) c
      if (c.inst t).compat || t == 127 then c
      else
        let c := far.foldl (fun c x => c.sendFrame (x.2 / 256) 0x04 (t + 2 ^ 13 + 2 ^ 16 * x.2)) c
        farSks.foldl (fun c sk => c.sendFrame (sk / 256 - 1) 0x04 (t + 2 ^ 14 + 2 ^ 16 * c.slotName sk)) c
    else c

end Sys2Proof.Machine
end

