-- ==== Sys2Proof/Machine/Manager.lean ====
section
/-! DEFINITION. The manager's commands (R115 to R119, R177, R183, R242, R246 to R256) and the escapes (R245). -/

namespace Sys2Proof.Machine

/-- The writer is the manager, or a Fielder, which writes with the manager's rights (R242, R312). -/
def Chip.isMgr (c : Chip) (w : Writer) : Bool :=
  match w with
  | .fn n => n.val == 0 && c.straps.mgrSel != 1
  | .smbus => c.straps.mgrSel == 1
  | .fielder _ => true

/-- What only the manager may write (R242): another writer's write is discarded. -/
def Chip.byMgr (c : Chip) (w : Writer) (act : Chip → Chip) : Chip := if c.isMgr w then act c else c

/-! ### Beginning and ending -/

/-- The load of firmware that the manager's command still runs is undone (R116). An image that was staged before is staged again, unless
the bytes that have been fetched replaced it (log entry 74). -/
def Chip.mgrLoadStop (c : Chip) : Chip :=
  if c.fw.inMgr then
    let fw := { c.fw with inMgr := false, phase := .idle, busy := false, staged := false, cells := 0, before := none }
    { c with fw :=
      match c.fw.before with
      | some (err, staged, halted, cells, img) => { fw with err := err, staged := staged, halted := halted, cells := cells, image := img }
      | none => fw }
  else c

def Cont.ofTicket (t : Nat) : Cont → Bool
  | .movePort (some k) _ _ _ _ _ => k == t
  | .moveSlot (some k) _ _ => k == t
  | _ => false

/-- An assignment that has not come to its point is given up (R256). -/
def Chip.dropTicket (c : Chip) (t : Nat) : Chip :=
  let c := (c.waits.filter (fun w => w.cont.ofTicket t)).foldl (fun c w => c.unstop w true) c
  { c with waits := c.waits.filter (fun w => !w.cont.ofTicket t) }

/-- The command in progress completes ABORTED, its effects undone (R116, R256), an assignment by another node included. -/
def Chip.mgrAbort (c : Chip) : Chip :=
  if !c.mgr.busy then c
  else
    let t := c.mgr.ticket
    let far := c.fab.proxies.filter (fun x => x.2 == (128, t))
    let c := far.foldl (fun c x => c.sendFrame (x.1 / 65536) 0x04 (x.1 % 65536 + 2 ^ 16)) (c.dropTicket t)
    let c := { c with
      insts := Tbl.mapv {} c.insts (fun _ x => { x with inMgr := false })
      fab := { c.fab with proxies := c.fab.proxies.filter (fun x => x.2 != (128, t)) } }
    c.mgrLoadStop.mgrDone t ccAborted 0

/-- A command begins: BUSY, DONE cleared, and a number of its own (R116). -/
def Chip.mgrBegin (c : Chip) : Chip :=
  { c with mgr := { c.mgr with busy := true, done := false, ticket := c.ids }, ids := c.ids + 1 }

/-- A write of MGR_CMD (R116). `act` runs the command under its ticket. A FREEZE or CHIP_RESET overtakes the command in progress also
where it then completes PARAM_ERR itself. DESIGN CHOICE, log entry 67. -/
def Chip.mgrCmd (c : Chip) (w : Writer) (overtakes : Bool) (act : Chip → Nat → Chip) : Chip :=
  c.byMgr w (fun c =>
    if c.mgr.busy && !overtakes then { c with mgr := { c.mgr with overrun := true } }
    else
      let c := c.mgrAbort.mgrBegin
      act c c.mgr.ticket)

/-- PARAM_ERR with its reason (R255). -/
def Chip.mgrBad (c : Chip) (t reason : Nat) : Chip := c.mgrDone t ccParam reason

/-- No reserved bit of the arguments is set (R7, R118). -/
def Mgr.argsOk (m : Mgr) (a0 a1 a2 a3 : Word) : Bool :=
  m.arg0 &&& ~~~a0 == 0 && m.arg1 &&& ~~~a1 == 0 && m.arg2 &&& ~~~a2 == 0 && m.arg3 &&& ~~~a3 == 0

/-- A firmware-executed command (R117, R255, R406): its arguments are checked first (R7). -/
def Chip.fwCmd (c : Chip) (w : Writer) (op : Nat) (a0 a1 a2 a3 : Word) (act : Chip → Nat → Chip) : Chip :=
  c.mgrCmd w false (fun c t =>
    if !c.boot.fwRunning then c.mgrBad t 9
    else if !c.mgr.argsOk a0 a1 a2 a3 then c.mgrBad t 0
    else if c.roleDown (32 + op) then c.mgrDone t ccAborted 0
    else
      let d := c.dispatch (32 + op)
      act { d.2 with mgr := { d.2.mgr with op := op, holder := d.1 } } t)

/-- INST of MGR_ARG0. -/
def Mgr.inst (m : Mgr) : Nat := fld m.arg0 6 0

/-! ### INST_CREATE, INST_RESIZE, INST_DESTROY, INST_RESET -/

/-- The sizes of MGR_ARG1 to MGR_ARG3 (R118). -/
def Mgr.sizes (m : Mgr) : Quota :=
  { slots := fld m.arg1 8 0, peps := fld m.arg1 25 16, eps := fld m.arg2 11 0, streams := fld m.arg2 28 16,
    crings := fld m.arg3 6 0, vectors := fld m.arg3 14 8, chans := fld m.arg3 24 16 }

/-- The ranges of R118. -/
def Quota.inRange (q : Quota) : Bool :=
  decide (q.slots ≤ 256) && decide (q.peps ≤ 512) && decide (q.eps ≤ 2048) && decide (q.streams ≤ 4096)
    && decide (1 ≤ q.crings) && decide (q.crings ≤ 64) && decide (1 ≤ q.vectors) && decide (q.vectors ≤ 64)
    && decide (q.chans ≤ 256)

/-- The Referee settings of a new instance (R177, R183); the queues' tags are kept. -/
def Queue.fresh (q : Queue) : Queue :=
  { q.clear with
    weight := 64, cir := unlimited, pir := unlimited, cbs := 65535, pbs := 65535, ctok := 65535, ptok := 65535
    inSet := false, next := none }

def Chip.freshQueues (c : Chip) (n : Nat) : Chip :=
  c.mapQueues (fun k q => if k % 256 = n then q.fresh else q)

/-- INST_CREATE (R246). -/
def Chip.mgrCreate (c : Chip) (w : Writer) : Chip :=
  c.fwCmd w 1 0x7F 0x03FF01FF 0x1FFF0FFF 0x01FF7F7F (fun c t =>
    let n := c.mgr.inst
    let x := c.inst n
    let q := c.mgr.sizes
    if c.isPf n then c.mgrBad t 1
    else if x.st ≠ .absent then c.mgrBad t 2
    else if !q.inRange then c.mgrBad t 3
    else
      match q.short c.unreserved with
      | some k => c.mgrDone t ccQuota k
      | none =>
        let c := (c.updInst n (fun x =>
          { x with st := if x.vfOn then .active else .created, compat := c.cap.compatDefault, quota := q, told := [] })).freshQueues n
        ((c.bindChans n q.chans).bumpGen n).wait { gens := [n], cont := .genDone t n })

/-- A vector quota that every completion ring's VECTOR fits (R247). -/
def Inst.vectorsFit (x : Inst) (q : Quota) : Bool := x.vectorsNamed.all (fun v => decide (v < q.vectors))

/-- INST_RESIZE (R238, R247). -/
def Chip.mgrResize (c : Chip) (w : Writer) : Chip :=
  c.fwCmd w 2 0x7F 0x03FF01FF 0x1FFF0FFF 0x01FF7F7F (fun c t =>
    let n := c.mgr.inst
    let x := c.inst n
    let q := c.mgr.sizes
    if x.st = .absent then c.mgrBad t 2
    else if !q.inRange || ((c.use n).short q).isSome || !x.vectorsFit q then c.mgrBad t 3
    else
      match (q.sub x.quota).short c.unreserved with
      | some k => c.mgrDone t ccQuota k
      | none =>
        let grown := x.quota.slots < q.slots
        let c := (c.updInst n (fun x => { x with quota := q })).bindChans n q.chans
        (if grown then c.retryParked else c).mgrDone t ccSuccess x.gen.toNat)

/-- INST_DESTROY (R248, R250). -/
def Chip.mgrDestroy (c : Chip) (w : Writer) : Chip :=
  c.fwCmd w 3 0x7F 0 0 0 (fun c t =>
    let n := c.mgr.inst
    if c.isPf n then c.mgrBad t 1
    else if (c.inst n).st = .absent then c.mgrBad t 2
    else
      let c := if (c.inst n).st = .resetting then c else c.startReset n .absent
      c.updInst n (fun x => { x with joinDestroy := true, inMgr := true }))

/-- INST_RESET (R236, R250). -/
def Chip.mgrReset (c : Chip) (w : Writer) : Chip :=
  c.fwCmd w 4 0x7F 0 0 0 (fun c t =>
    let n := c.mgr.inst
    match (c.inst n).st with
    | .absent => c.mgrBad t 2
    | .active | .frozen | .resetting => (c.triggerReset n id).updInst n (fun x => { x with inMgr := true })
    | _ =>
      (c.triggerReset n id).wait { gens := [n], cont := .genDone t n })

/-! ### Assignment -/

/-- A COMMAND about a far object, whose REPLY completes the manager's command (R252, R357). -/
def Chip.mgrAsk (c : Chip) (t node : Nat) : Chip :=
  if c.portTo node = 0 then c.mgrBad t 4 else c.ask node (t % 65536) (128, t)

/-- The slots behind a far port, as this node's copies have them (R239). -/
def Chip.farBehind (c : Chip) (s : Nat) : List Nat :=
  (c.slots.filter (fun x => farKey x.1 && x.2.st != .disabled && x.2.root.toNat == s)).map (fun x => x.1)

/-- ASSIGN_PORT (R252, R254, R255). -/
def Chip.mgrAssignPort (c : Chip) (w : Writer) : Chip :=
  c.fwCmd w 5 0xFFFF007F 0x7 0 0 (fun c t =>
    let n := c.mgr.inst
    let s := fld c.mgr.arg0 31 16
    let pass := bitAt c.mgr.arg1 0
    let un := bitAt c.mgr.arg1 1
    let keep := bitAt c.mgr.arg1 2
    let toInst := !pass && !un
    if pass && un then c.mgrBad t 0
    else if toInst && n == 127 then c.mgrBad t 7
    else if toInst && (c.inst n).st == .absent then c.mgrBad t 2
    else if 4096 ≤ s then c.mgrBad t 4
    else if s / 256 ≠ c.nodeNo then
      (if toInst && (c.inst n).compat then c.mgrBad t 5
       else if toInst && keep && !c.fitsTarget n (c.farBehind s) then c.mgrBad t 6 else c.mgrAsk t (s / 256))
    else
      match codeBus (s % 256) with
      | none => c.mgrBad t 4
      | some b =>
        let owner := if un then 127 else n
        match if c.assigned (busPort b) owner pass then none else c.portRefused (busPort b) owner pass keep with
        | some r => c.mgrBad t r
        | none => c.assignPort (some t) (busPort b) owner pass keep)

/-- ASSIGN_DEVICE (R253 to R255). -/
def Chip.mgrAssignDevice (c : Chip) (w : Writer) : Chip :=
  c.fwCmd w 6 0x7F 0xFFF 0 0 (fun c t =>
    let n := c.mgr.inst
    let s := fld c.mgr.arg1 11 0
    if (c.inst n).st = .absent then c.mgrBad t 2
    else if s / 256 ≠ c.nodeNo then (if (c.inst n).compat then c.mgrBad t 5
      else if !c.fitsTarget n (c.present [c.slotKey s]) then c.mgrBad t 6 else c.mgrAsk t (s / 256))
    else
      match c.slotRefused (s % 256) n with
      | some r => c.mgrBad t r
      | none => c.assignSlot (some t) (s % 256) n)

/-! ### Referee settings -/

/-- The buses that a BUS field names: one, or every bus (R118). -/
def busesNamed (v : Nat) : Option (List Nat) := if v = 0xFF then some (List.range 32) else (codeBus v).map (fun b => [b])

/-- A change of the settings goes to the home nodes that have been sent them (R177). -/
def Chip.sendSettings (c : Chip) (n : Nat) : Chip := (c.inst n).told.foldl (fun c node => c.sendFrame node 0x04 (n + 2 ^ 9)) c

/-- SET_WEIGHT (R177). -/
def Chip.mgrWeight (c : Chip) (w : Writer) : Chip :=
  c.fwCmd w 8 0xFF7F 0xFFFFFFFF 0 0 (fun c t =>
    let n := c.mgr.inst
    let v := c.mgr.arg1.toNat
    if (c.inst n).st = .absent then c.mgrBad t 2
    else
      match busesNamed (fld c.mgr.arg0 15 8) with
      | none => c.mgrBad t 4
      | some bs =>
        if v = 0 ∨ 1023 < v then c.mgrBad t 3
        else
          ((bs.foldl (fun c b => c.updQueue (qKey b n) (fun q => { q with weight := BitVec.ofNat 10 v })) c).sendSettings n).mgrDone
            t ccSuccess 0)

/-- The rates that a queue will have at its bus's next decision. -/
def Queue.rates (q : Queue) : Rates :=
  q.next.getD { weight := q.weight, cir := q.cir, pir := q.pir, cbs := q.cbs, pbs := q.pbs }

/-- New committed or peak settings, which apply from the bus's next decision (R178, R183). -/
def Queue.setCommitted (q : Queue) (rate depth : BitVec 24) : Queue := { q with next := some { q.rates with cir := rate, cbs := depth } }
def Queue.setPeak (q : Queue) (rate depth : BitVec 24) : Queue := { q with next := some { q.rates with pir := rate, pbs := depth } }

/-- SET_RATES (R177, R183). -/
def Chip.mgrRates (c : Chip) (w : Writer) : Chip :=
  c.fwCmd w 7 0x1FF7F 0xFFFFFF 0xFFFFFF 0 (fun c t =>
    let n := c.mgr.inst
    let rate := BitVec.ofNat 24 c.mgr.arg1.toNat
    let depth := BitVec.ofNat 24 c.mgr.arg2.toNat
    if (c.inst n).st = .absent then c.mgrBad t 2
    else
      match busesNamed (fld c.mgr.arg0 15 8) with
      | none => c.mgrBad t 4
      | some bs =>
        let f (q : Queue) : Queue := if bitAt c.mgr.arg0 16 then q.setPeak rate depth else q.setCommitted rate depth
        (((bs.foldl (fun c b => c.updQueue (qKey b n) f) c).sendSettings n).kickAll).mgrDone t ccSuccess 0)

/-! ### FREEZE, CHIP_RESET -/

/-- The home nodes of an instance's far devices are told: its far places are not served while it is frozen (R119, R176). -/
def Chip.farFreeze (c : Chip) (n : Nat) (on : Bool) : Chip :=
  (c.farNodes n).foldl (fun c node => c.sendFrame node 0x04 (n + 2 ^ (if on then 10 else 11))) c

/-- FREEZE or THAW of one instance (R119, R236). -/
def Chip.freezeInst (c : Chip) (n : Nat) (thaw : Bool) : Chip :=
  let x := c.inst n
  if thaw then
    if x.st = .frozen then ((((c.updInst n (fun x => { x with st := .active })).fetchCmds n).stirInst n).thawChans n).farFreeze n false
    else c
  else if x.st = .active then (((c.updInst n (fun x => { x with st := .frozen })).pauseChans n).kickAll).farFreeze n true
  else c

/-- FREEZE or THAW of a target: an instance, or 0xFF for the chip, where it halts a live swap (R46, R119). -/
def Chip.freezeTarget (c : Chip) (target : Nat) (thaw : Bool) : Chip :=
  if target = 0xFF then
    let c := (c.insts.filter (fun x => decide (x.1 < 128))).foldl (fun c x => c.freezeInst x.1 thaw) c
    if !thaw && c.swapping then { c with fw := { c.fw with haltReq := true } } else c
  else c.freezeInst target thaw

/-- Why a FREEZE is refused (R255). -/
def Chip.freezeRefused (c : Chip) (target : Nat) : Option Nat :=
  if target = 0xFF then none
  else if 127 < target then some 1
  else if (c.inst target).st = .absent then some 2
  else none

/-- FREEZE through MGR_CMD; `flag` is THAW as the argument holds it. -/
def Chip.mgrFreeze (c : Chip) (w : Writer) : Chip :=
  c.mgrCmd w true (fun c t =>
    let target := fld c.mgr.arg0 7 0
    if !c.mgr.argsOk 0x1FF 0 0 0 then c.mgrBad t 0
    else
      match c.freezeRefused target with
      | some r => c.mgrBad t r
      | none => (c.freezeTarget target (bitAt c.mgr.arg0 8)).mgrDone t ccSuccess 0)

/-- CHIP_RESET through MGR_CMD (R22, R118): as RESET#, with the straps latched before. -/
def Chip.mgrChipReset (c : Chip) (w : Writer) : Chip :=
  c.mgrCmd w true (fun c t =>
    if c.mgr.arg0 = Config.escKey ∧ c.mgr.argsOk 0xFFFFFFFF 0 0 0 = true then c.coreReset c.straps else c.mgrBad t 0)

/-- A reserved opcode (R116, R260). -/
def Chip.mgrReserved (c : Chip) (w : Writer) : Chip := c.mgrCmd w false (fun c t => c.mgrBad t 0)

/-! ### Escapes (R245) -/

def Chip.escEnd (c : Chip) (done : Bool) : Chip :=
  { c with smb := { c.smb with escDone := done, escRefused := !done, escKeyed := false } }

/-- An escape with its key right: FREEZE, THAW and CHIP_RESET; THAW or a non-zero reserved flag with CHIP_RESET, and anything
else, is refused with nothing done (R245). One that is executed is recorded (R412), and sets source 412 (R341). -/
def Chip.escape (c : Chip) (op target : Nat) (thaw clean vsec : Bool) : Chip :=
  let log (c : Chip) : Chip := c.log 0x15 0x0A (op + 2 ^ 8 * target) (if vsec then 2 else 1) 0 0
  if op = 0x0B ∧ (target = 0xFF ∨ target ≤ 127) then
    (((log c).mgrAbort).freezeTarget target thaw).escEnd true
  else if op = 0x0C ∧ clean = true ∧ thaw = false then (log c).coreReset c.straps
  else c.escEnd false

/-- A write of ESC_CMD in PF0's extended capability: the key must have been written just before. -/
def Chip.escCmd (c : Chip) (val : Word) : Chip :=
  if c.straps.mgrSel = 1 then c
  else if !c.smb.escKeyed then c.escEnd false
  else c.escape (fld val 7 0) (fld val 15 8) (bitAt val 16) (fld val 31 17 = 0) true

end Sys2Proof.Machine
end

