-- ==== Sys2Proof/Machine/Ops.lean ====
section
/-! DEFINITION. The staging memory behind FW_WINDOW (R37): 80 pages of 16,384 bytes. A byte that nothing has written reads
as zero (log entry 4). -/

namespace Sys2Proof.Machine

/-- Bytes of the staging memory. -/
def stageSize : Nat := 80 * 16384

/-- The byte at a staging address. -/
def Memory.byte (m : Memory) (a : Nat) : Byte := Tbl.get 0 m a

/-- `k` bytes from a staging address on. -/
def Memory.bytes (m : Memory) (a k : Nat) : List Byte := (List.range k).map (fun i => m.byte (a + i))

/-- `k` bytes as a little-endian number (R3). -/
def Memory.num (m : Memory) (a k : Nat) : Nat := leNat (m.bytes a k)

/-- Writes one byte. -/
def Memory.put (m : Memory) (a : Nat) (b : Byte) : Memory := Tbl.set 0 m a b

/-- Writes bytes from an address on. -/
def Memory.store (m : Memory) (a : Nat) : List Byte → Memory
  | [] => m
  | b :: t => Memory.store (m.put a b) (a + 1) t

/-- A memory that holds a list of bytes from an address on and nothing else. -/
def Memory.ofBytes : Nat → List Byte → Memory
  | _, [] => []
  | a, b :: t => if b = 0 then Memory.ofBytes (a + 1) t else (a, b) :: Memory.ofBytes (a + 1) t

/-- The bytes of a memory from an address on are replaced by what `new` holds there. -/
def Memory.replace (m : Memory) (a k : Nat) (new : Memory) : Memory :=
  m.filter (fun x => decide (x.1 < a)) ++ new.filter (fun x => decide (a ≤ x.1) && decide (x.1 < a + k))
    ++ m.filter (fun x => decide (a + k ≤ x.1))

/-- `k` bytes of a memory, moved from one address to another. -/
def Memory.shift (m : Memory) (a k b : Nat) : Memory :=
  (m.filter (fun x => decide (a ≤ x.1) && decide (x.1 < a + k))).map (fun x => (x.1 - a + b, x.2))

/-- Copies `k` bytes of one memory into another. -/
def Memory.copy (m : Memory) (b : Nat) (src : Memory) (a k : Nat) : Memory := m.replace b k (src.shift a k b)

/-- Where the Fielder RAM lies in `Chip.ram` (R20, R311): the instruction RAM of a Fielder and its data RAM, 64 KiB each, and the
shared RAM of 512 KiB. -/
def iramBase (f : Nat) : Nat := f * 131072
def dramBase (f : Nat) : Nat := f * 131072 + 65536
def sharedBase : Nat := 12 * 131072
def ramSize : Nat := sharedBase + 524288

/-- The canonical form: addresses strictly rising and below the size of the memory, no byte that is zero. -/
def Memory.wf (m : Memory) : Bool := Tbl.wf 0 m && m.all (fun x => decide (x.1 < stageSize))

/-- The chip changes to `c`; the staging memory lies in the SRAM, which is initialised after every reset of the chip (R22,
R26 step 4). -/
def State.put (s : State) (c : Chip) : State := { s with chip := c, stage := if c.boot.pll then s.stage else [] }

end Sys2Proof.Machine
end

