-- ==== Sys2Proof/Machine/Loader.lean ====
section
/-! DEFINITION. The firmware loader (R34 to R47, R317, R318, R337, R338) and the takeover of a Fielder's role (R404 to
R406). -/

namespace Sys2Proof.Machine

/-! ### The image (R34, R35, R38) -/

/-- A segment descriptor: TARGET, DEST_OFFSET, LENGTH. -/
def Memory.seg (m : Memory) (i : Nat) : Nat × Nat × Nat :=
  (m.num (0x60 + 8 * i) 1, m.num (0x61 + 8 * i) 3, m.num (0x64 + 8 * i) 4)

/-- Where the segments of an image begin in it: behind the header, in table order (R34). -/
def Memory.segStart (m : Memory) (i : Nat) : Nat := (List.range i).foldl (fun n j => n + (m.seg j).2.2) 256

/-- The segments of a TARGET are laid into a RAM of `size` bytes at `base`; what no segment covers is zero (R35). -/
def Memory.layOut (ram m : Memory) (target base size : Nat) : Memory :=
  (List.range (m.num 0x1A 1)).foldl (fun r i =>
    let s := m.seg i
    if s.1 = target then r.copy (base + s.2.1) m (m.segStart i) s.2.2 else r) (ram.replace base size [])

/-- A descriptor keeps R35. -/
def segOk (s : Nat × Nat × Nat) : Bool :=
  let fielder := decide (s.1 < 8) || (decide (0x10 ≤ s.1) && decide (s.1 < 0x18))
  (fielder || s.1 == 0x20) && s.2.1 % 4 == 0 && decide (0 < s.2.2) && s.2.2 % 64 == 0
    && decide (s.2.1 + s.2.2 ≤ (if fielder then 65536 else 524288))

/-- ROLE_MAP: every entry a role below ROLE_COUNT or 0xFF, and exactly one 0xFF. -/
def roleMapOk (map : List Byte) (count : Nat) : Bool :=
  map.all (fun b => decide (b.toNat < count) || b == 0xFF) && (map.filter (fun b => b == 0xFF)).length == 1

/-- Every reserved byte of the header is zero, and so are the descriptors beyond SEG_COUNT. -/
def Memory.headerZero (m : Memory) : Bool :=
  (m.bytes 0x1C 4 ++ m.bytes 0xEC 20 ++ m.bytes (0x60 + 8 * m.num 0x1A 1) (8 * (16 - m.num 0x1A 1))).all (fun b => b == 0)

/-- The first check of R38 that a staged image fails; 0: none. `keyOk` and `sigOk` are the results of the hash and signature
checks. -/
def imageErr (m : Memory) (len : Nat) (keyOk sigOk : Bool) (fuse : Nat) (otpKey : Bool) : Nat :=
  let segs := (List.range (m.num 0x1A 1)).map m.seg
  let map := m.bytes 0xE0 12
  if m.num 8 4 ≠ len then 1
  else if m.num 0 4 ≠ 0x46564F57 ∨ m.num 4 2 ≠ 1 ∨ m.num 6 2 ≠ 0x100 ∨ m.num 0x1A 1 = 0 ∨ 16 < m.num 0x1A 1
      ∨ m.num 0x1B 1 = 0 ∨ 8 < m.num 0x1B 1 ∨ roleMapOk map (m.num 0x1B 1) = false ∨ m.headerZero = false then 2
  else if m.num 0x14 4 ≠ Config.chipId.toNat ∨ Config.stepping.toNat < m.num 0x18 1 then 3
  else if segs.all segOk = false
      ∨ (map.filter (fun b => b != 0xFF)).all (fun b => segs.any (fun s => s.1 == b.toNat)) = false
      ∨ len ≠ 256 + (segs.foldl (fun n s => n + s.2.2) 0) + 64 then 4
  else if otpKey = false then 0xD
  else if keyOk = false then 5
  else if sigOk = false then 6
  else if m.num 0x19 1 < fuse then 7
  else 0

/-- The facts of an image that the loader keeps. -/
def imageOf (m : Memory) : Image :=
  { fwVersion := toWord (m.num 0x0C 4), prevMin := toWord (m.num 0x10 4), svn := m.num 0x19 1, roleMap := m.bytes 0xE0 12 }

/-! ### Events and failures -/

/-- FIRMWARE to the manager, and to PF0 in Sandlot play (R72). -/
def Chip.fwEvent (c : Chip) (kind : Nat) (ver : Word) : Chip :=
  let d1 := toWord (c.fw.err.toNat + 2 ^ 4 * kind)
  let sandlot := c.boot.mode == .sandlotHc || c.boot.mode == .sandlotPass
  let c' := c.mgrEvent evFirmware noSubject d1 ver
  if sandlot && c.straps.mgrSel == 1 then c'.event 0 evFirmware noSubject d1 ver else c'

/-- A value that the manual leaves open (log entry 2). -/
def Chip.fresh (c : Chip) : Word × Chip := (Config.freeWord c.free, { c with free := c.free + 1 })

/-- The loader fails with an ERR code (R38): the image it was checking is discarded, and the command, where it still runs,
completes. `ver` is the image's version, open where no header has been read. -/
def Chip.fwFail (c : Chip) (code : Nat) (ver : Option Word) : Chip :=
  let v := match ver with
    | some x => (x, c)
    | none => c.fresh
  let inMgr := c.fw.inMgr
  let c := v.2
  let c := { c with fw := { c.fw with
    err := BitVec.ofNat 4 code, staged := false, busy := false, phase := .idle, cells := 0
    inMgr := false, halted := false, before := none } }
  let c := c.fwEvent 3 v.1
  if inMgr then c.mgrDone c.mgr.ticket (if code = 8 then ccHostMem else ccParam) code else c

/-- The command of the loader completes with SUCCESS (R47). -/
def Chip.fwBegun (c : Chip) : Chip :=
  if c.fw.inMgr then ({ c with fw := { c.fw with inMgr := false, before := none } } : Chip).mgrDone c.mgr.ticket ccSuccess 0 else c

/-! ### Anti-rollback fuses (R39) -/

/-- The image has entered service on every Fielder: fuses are blown to its SVN where SVN_COMMIT was set. -/
def Chip.commitSvn (c : Chip) : Chip :=
  let goal := min c.fw.image.svn 64
  if c.fw.commit && decide (c.fuse < goal) then { c with fw := { c.fw with fuseTo := goal, commit := false } }
  else { c with fw := { c.fw with commit := false } }

/-- FUSE_BLOWN. -/
def Chip.fuseBlown (c : Chip) : Chip :=
  if c.fuse < c.fw.fuseTo then
    let c := { c with fuse := c.fuse + 1 }
    if c.fuse = c.fw.fuseTo then ({ c with fw := { c.fw with fuseTo := 0 } } : Chip).fwEvent 4 c.fw.running else c
  else c

/-! ### First installation (R40, R41, R318) -/

def Chip.fieldersIn (c : Chip) (st : FSt) : List Nat := (List.range 12).filter (fun f => (c.fielder f).st == st)

/-- Roles by FID, and the bench, with retired Fielders provided for (R318); `none`: two are RETIRED. -/
def Chip.placement (c : Chip) (map : List Byte) : Option (List (Nat × Nat) × Option Nat) :=
  let role (f : Nat) : Nat := (map.getD f 0).toNat
  let bench := (List.range 12).find? (fun f => role f == 0xFF)
  let roles := ((List.range 12).filter (fun f => role f != 0xFF)).map (fun f => (f, role f))
  match c.fieldersIn .retired with
  | [] => some (roles, bench)
  | [r] =>
    if some r = bench then some (roles, none)
    else some ((roles.filter (fun x => x.1 != r)) ++ [(bench.getD 0, role r)], none)
  | _ => none

/-- A Fielder receives the instruction and data RAM of a role (R40, R43 step a, R44). -/
def Chip.loadRole (c : Chip) (m : Memory) (f role : Nat) : Chip :=
  { c with ram := (c.ram.layOut m role (iramBase f) 65536).layOut m (0x10 + role) (dramBase f) 65536 }

/-- A Fielder's RAM is cleared (R43 step e, R317). -/
def Chip.clearRam (c : Chip) (f : Nat) : Chip := { c with ram := c.ram.replace (iramBase f) 131072 [] }

/-- A Fielder that is free to be started. -/
def Fielder.idle (x : Fielder) : Bool := x.st == .waiting || x.st == .bench

/-- The verified image goes to all twelve Fielders. One that is not waiting yet, because its boot self-test still runs or because it is
under check, is not started later either: the load then ends in START_TIMEOUT. DESIGN CHOICE, log entry 68: the manual does not say
whether the loader waits. -/
def Chip.install (c : Chip) (m : Memory) : Chip :=
  match c.placement c.fw.image.roleMap with
  | none => c.fwFail 0xC (some c.fw.image.fwVersion)
  | some (roles, bench) =>
    let c := { c with ram := c.ram.layOut m 0x20 sharedBase 524288 }
    let c := roles.foldl (fun (c : Chip) (x : Nat × Nat) =>
      if (c.fielder x.1).idle then (c.loadRole m x.1 x.2).startFielder x.1 (BitVec.ofNat 3 x.2) false false else c) c
    let c := match bench with
      | some b => if (c.fielder b).idle then (c.clearRam b).updFielder b (fun x => { x with st := .bench, wfi := false }) else c
      | none => c
    { c with fw := { c.fw with
      phase := .installing, visit := roles.map (fun (x : Nat × Nat) => x.1), bench := bench
      newBank := false, swapStep := 0, mixed := false } }.fwBegun

/-- PF0 and PF1 take their quotas on entry to SERVICE (R240). -/
def Chip.pfQuotas (c : Chip) : Chip :=
  [0, 64].foldl (fun (c : Chip) n =>
    if c.isPf n then
      let q := (c.use n).max pfQuota
      c.updInst n (fun x => { x with quota := q })
    else c) c

/-- Every Fielder with a role has reported ready: SERVICE (R40, R41). -/
def Chip.enterService (c : Chip) : Chip :=
  let c := c.pfQuotas
  let c := { c with
    boot := { c.boot with mode := .service, fwRunning := true, chosen := true }
    fw := { c.fw with phase := .idle, busy := false, staged := false, cells := 0, running := c.fw.image.fwVersion, visit := [] } }
  ((c.fwEvent 0 c.fw.running).chargeStart).commitSvn

/-- A Fielder goes back to WFI in the boot ROM (R40). -/
def Chip.toWaiting (c : Chip) (f : Nat) : Chip :=
  match (c.fielder f).st with
  | .active | .bench =>
    let c := c.leaveActive f .waiting
    c.updFielder f (fun _ => { st := .waiting, wfi := true })
  | _ => c

/-- A Fielder did not report ready in time: logged, and checked (R400, R412). -/
def Chip.startLate (c : Chip) (f action : Nat) : Chip :=
  let c := c.log (0x21 + f) 0x04 f 2 0 (4 * action)
  c.queueCheck (.fielder f c.lastLog) c.lastLog

/-- An installation in which a Fielder misses the limit (R40). -/
def Chip.installFails (c : Chip) (f : Nat) : Chip :=
  let c := forUpTo 12 (fun g c => c.toWaiting g) c
  let c := { c with fw := { c.fw with bench := none, visit := [] } }
  (c.fwFail 0xC (some c.fw.image.fwVersion)).startLate f 0

/-! ### Takeover of a role (R404 to R406) -/

/-- The bench Fielder, where it is in BENCH and takes over no role. -/
def Chip.freeBench (c : Chip) : Option Nat :=
  match c.fw.bench with
  | some b => if (c.fielder b).st = .bench ∧ (c.fielder b).takes = none then some b else none
  | none => none

/-- Mailbox requests that a Fielder owns complete ABORTED (R405, R283). -/
def Chip.abortMail (c : Chip) (f : Nat) : Chip :=
  (c.insts.filter (fun x => x.2.mbox.busy && x.2.mbox.holder == some f)).foldl (fun c x =>
    ({ c with fab := { c.fab with proxies := c.fab.proxies.filter (fun y => !(y.2.1 == x.1 && decide (2 ^ 64 ≤ y.2.2))) } } : Chip).mboxDone
      x.1 ccAborted none) c

/-- A pending PORT_RESET whose signalling has not begun, a suspend, or a resume of the chip's own is undone: the port is in the state
before the command (R45; log entry 73). Reset signalling that is on the wire runs to its end. -/
def Port.undo (p : Port) (r : CmdRef) : Port :=
  let p := if p.resetCmd = some r then
      { p with resetCmd := none, st := if p.st = pResetting ∧ p.se0 = false ∧ p.before ≠ pResetting then p.before else p.st }
    else p
  let p := if p.suspendCmd = some r then { p with suspendCmd := none, st := if p.st = pSuspending then pEnabled else p.st } else p
  if p.resumeCmd = some r then
    if p.nowCause = causeHost ∧ (p.st = pResuming ∨ (p.st = pRecovery ∧ p.afterResume = true)) then
      { p with resumeCmd := none, st := if p.fromL1 then pL1 else pSuspended, fromL1 := false, afterResume := false }
    else { p with resumeCmd := none, nowCause := if p.nowCause = causeBoth then causeDevice else p.nowCause, already := false }
  else p
def Ssp.undo (p : Ssp) (r : CmdRef) : Ssp :=
  let p := if p.resetCmd = some r then
      { p with resetCmd := none, st := if p.st = sResetting ∧ p.se0 = false ∧ p.before ≠ sResetting then p.before else p.st }
    else p
  if p.resumeCmd = some r then
    if p.nowCause = causeHost ∧ p.st = sRecovery ∧ p.exiting = true then
        { p with resumeCmd := none, st := sU3, exiting := false, tries := 0 }
    else { p with resumeCmd := none, nowCause := if p.nowCause = causeBoth then causeDevice else p.nowCause }
  else p

/-- What a command of an instance still waits for; a command whose result only waits for a Lineup boundary or for a settlement after
PPE went low is complete in all but its record. -/
def Chip.waitOf (c : Chip) (r : CmdRef) (w : Wait) : Bool :=
  match w.cont with
  | .finish _ _ _ _ | .clearSlot _ _ _ | .powerOff _ _ _ => false
  | .portReset b _ => if b < 24 then (c.port b).resetCmd == some r else (c.ssp (b - 24)).resetCmd == some r
  | x => x.cmdRef == some r

/-- A command in progress is cancelled: its stops and its port's changes are taken back, and it completes ABORTED (R45). -/
def Chip.cancelCmd (c : Chip) (n : Nat) (m : Cmd) : Chip :=
  let r := (n, m.id)
  let mine := c.waits.filter (c.waitOf r)
  let waits := c.waits.filter (fun w => !c.waitOf r w)
  let c := mine.foldl (fun c w => c.unstop w false) c
  let lpm := (List.range 24).filter (fun p => (c.port p).suspendCmd == some r && (c.port p).st == pEnabled)
  let c := lpm.foldl (fun c p => c.updBus p (fun x => { x with lpm := none })) c
  let c := { c with
    waits := waits
    ports := Tbl.mapv {} c.ports (fun _ p => p.undo r)
    ssps := Tbl.mapv {} c.ssps (fun _ p => p.undo r)
    fab := { c.fab with proxies := c.fab.proxies.filter (fun x => x.2 != r) } }
  let sa := c.eps.filter (fun e => match e.2.setAddr with
    | some a => a.inst == n && a.cmd == m.id
    | none => false)
  if sa.isEmpty then c.finish n m.id ccAborted 0 else sa.foldl (fun c e => c.setAddrEnd e.1 ccAborted) c

/-- A command that is complete in all but its record. -/
def Chip.finishing (c : Chip) (n : Nat) (m : Cmd) : Bool :=
  c.waits.any (fun w => match w.cont with
    | .finish i k _ _ | .clearSlot i k _ | .powerOff i k _ => i == n && k == m.id
    | _ => false)

/-- Commands, requests and enumerations that a Fielder owns are cancelled; an enumeration begins anew (R45, R283). -/
def Chip.cancelHeld (c : Chip) (f : Nat) : Chip :=
  let held := c.insts.flatMap (fun x => (x.2.cmds.filter (fun m => m.phase == .running && m.holder == some f
    && !c.finishing x.1 m)).map (fun m => (x.1, m)))
  let c := (held.foldl (fun c x => c.cancelCmd x.1 x.2) c).abortMail f
  let c := if c.mgr.busy && c.mgr.holder == some f then c.mgrAbort else c
  (c.jobs.filter (fun j => j.2.holder == some f)).foldl (fun c j => (c.freeJobSlot j.1).startEnum (jobBus j.1) (jobRoute j.1) j.2.speed) c

/-- What a Fielder owns passes to the one that takes over its role (R405). -/
def Chip.passHeld (c : Chip) (f g : Nat) : Chip :=
  let moved (h : Option Nat) : Option Nat := if h = some f then some g else h
  { c with
    insts := Tbl.mapv {} c.insts (fun _ x => { x with
      cmds := x.cmds.map (fun m => { m with holder := moved m.holder }), mbox := { x.mbox with holder := moved x.mbox.holder } })
    mgr := { c.mgr with holder := moved c.mgr.holder }
    jobs := Tbl.mapv {} c.jobs (fun _ j => { j with holder := moved j.holder }) }

/-- The kind of service work that an endpoint's Fielder does: managed enumeration and hubs, or sharing (log entry 6). -/
def Chip.serviceKind (c : Chip) (key : Nat) : Nat := if (c.slot (keySlot key)).shared.isSome then 82 else 81

/-- The service of a role moves to another Fielder: its service endpoints' EPOCH is bumped (R96), and the Whistle's sources follow
(R338). -/
def Chip.moveService (c : Chip) (f g : Nat) : Chip :=
  let role := (c.fielder g).role.toNat
  let ks := (c.eps.filter (fun e => e.2.service && (Config.roleOf (c.serviceKind e.1)).val == role)).map (fun e => e.1)
  (ks.foldl (fun c k => c.updEp k (fun e => e.bumpWhenQuiet c.us)) c).moveTargets f g

/-- A role is suspended (R406). -/
def Chip.suspendRole (c : Chip) (f : Nat) : Chip :=
  let r := (c.fielder f).role
  let c := (c.cancelHeld f).updFielder f (fun x => { x with suspRole := some r, owed := false })
  { c with rel := { c.rel with suspended := c.rel.suspended ||| BitVec.ofNat 8 (2 ^ r.toNat) } }

/-- A good copy of the role's instruction RAM exists (R404 step 3, R406). -/
def Chip.roleCopy (c : Chip) (f : Nat) : Bool :=
  !(c.fielder f).badIram
    || (c.fieldersIn .active).any (fun g => (c.fielder g).role == (c.fielder f).role && !(c.fielder g).badIram)

/-- The bench begins to take over the role of a faulted Fielder; with no bench or no copy, the role is suspended. -/
def Chip.takeOver (c : Chip) (f : Nat) : Chip :=
  match c.freeBench with
  | some b =>
    if c.roleCopy f then (c.updFielder b (fun x => { x with takes := some f })).updFielder f (fun x => { x with owed := false })
    else c.suspendRole f
  | none => c.suspendRole f

/-- TAKEOVER_COPY_DONE: the bench Fielder `b` is started into the role, with a copy of its instruction RAM and an empty data RAM
(R404 step 3); in a halted swap it stands where the faulted Fielder stood (R46). -/
def Chip.copyDone (c : Chip) (b : Nat) : Chip :=
  match (c.fielder b).takes with
  | some f =>
    if (c.fielder b).st = .bench then
      let x := c.fielder f
      let src := ((c.fieldersIn .active).find? (fun g => (c.fielder g).role == x.role && !(c.fielder g).badIram)).getD f
      let c := { c with ram := (c.ram.copy (iramBase b) c.ram (iramBase src) 65536).replace (dramBase b) 65536 [] }
      let c := c.dozeExit.startFielder b x.role x.vbank x.newImage
      { c.updFielder b (fun y => { y with takes := some f }) with
        fw := { c.fw with bench := none, visit := c.fw.visit.map (fun g => if g = f then b else g) } }
    else c
  | none => c

/-! ### The live swap (R43 to R46) -/

/-- A halted swap hands owed roles to the bench of the boundary (R406). -/
def Chip.takeOwed (c : Chip) : Chip :=
  forUpTo 12 (fun f c => if (c.fielder f).owed then c.takeOver f else c) c

/-- The swap halts at a step boundary (R46). -/
def Chip.haltSwap (c : Chip) : Chip :=
  let c := { c with fw := { c.fw with
    phase := .idle, busy := false, halted := true, haltReq := false, mixed := c.fw.mixed || decide (1 < c.fw.swapStep.toNat) } }
  ((c.fwEvent 2 c.fw.image.fwVersion).takeOwed).chargeAll

/-- The swap ends (R43): the new image runs everywhere, and SVC_PORT writes of the meantime are applied (R283). -/
def Chip.swapDone (c : Chip) : Chip :=
  let old := (c.fieldersIn .active).any (fun f => !(c.fielder f).newImage)
  let c := forUpTo 12 (fun f (c : Chip) => c.updFielder f (fun x => { x with newImage := false })) c
  let c := { c with fw := { c.fw with
    phase := .idle, busy := false, mixed := old, staged := false, cells := 0, running := c.fw.image.fwVersion, haltReq := false
    halted := false, visit := [], roles := [] } }
  (((c.fwEvent 1 c.fw.running).takeOwed).chargeAll).commitSvn

/-- The next step of the swap, its end, or its halt. A Fielder whose role a fault has moved has its place in the list taken by the one
that took the role over; one whose role is suspended is passed over. -/
def Chip.nextStep (c : Chip) : Nat → Chip
  | 0 => c.swapDone
  | fuel + 1 =>
    match c.fw.visit with
    | [] => c.swapDone
    | f :: t =>
      if c.fw.haltReq then c.haltSwap
      else
        match c.freeBench with
        | none => c.haltSwap
        | some b =>
          if (c.fielder f).st = .active then { c with fw := { c.fw with phase := .swapCopy, incoming := b, outgoing := f } }
          else Chip.nextStep { c with fw := { c.fw with visit := t, roles := c.fw.roles.drop 1, swapStep := c.fw.swapStep + 1 } } fuel

/-- A swap of the staged image begins (R43, R44, R337). `kept`: the Fielder that runs the new image already (R406). -/
def Chip.beginSwap (c : Chip) (kept : Option Nat) : Chip :=
  let c := forUpTo 12 (fun f (c : Chip) => c.updFielder f (fun x => { x with newImage := kept == some f })) c
  { c with fw := { c.fw with
    busy := true, halted := false, haltReq := false, swapStep := 1, newBank := !c.fw.newBank
    roles := (c.fw.image.roleMap.filter (fun b => b != 0xFF)).map BitVec.toNat, visit := c.fieldersIn .active } }.nextStep 12

/-- The suspended role of the lowest number. -/
def Chip.lostRole (c : Chip) : Option Nat := (List.range 8).find? (fun r => bitAt c.rel.suspended r)

/-- A swap is asked for: the checks 0xA and 0xB of R38, and the restoring of a suspended role by FW_LOAD (R406). -/
def Chip.askSwap (c : Chip) (m : Memory) (load : Bool) : Chip :=
  let ver := some c.fw.image.fwVersion
  match (if load then c.lostRole else none), c.freeBench with
  | _, none => c.fwFail 0xA ver
  | some r, some b =>
    if c.fw.running < c.fw.image.prevMin then c.fwFail 0xB ver
    else
      let bank := !c.fw.newBank
      let c := (c.loadRole m b r).dozeExit.startFielder b (BitVec.ofNat 3 r) bank true
      { c with fw := { c.fw with
        busy := true, phase := .restoreStart, incoming := b, bench := (c.fieldersIn .bench).head?, halted := false } }.fwBegun
  | none, some _ => if c.fw.running < c.fw.image.prevMin then c.fwFail 0xB ver else c.fwBegun.beginSwap none

/-- The suspended role runs again; the load goes on as a swap where another bench remains (R406). -/
def Chip.restored (c : Chip) : Chip :=
  let r := (c.fielder c.fw.incoming).role
  let c := { c with rel := { c.rel with suspended := c.rel.suspended &&& ~~~(BitVec.ofNat 8 (2 ^ r.toNat)) } }
  let gone := (List.range 12).filter (fun f => (c.fielder f).suspRole == some r)
  let c := gone.foldl (fun c f => (c.moveService f c.fw.incoming).updFielder f (fun x => { x with suspRole := none })) c
  match c.freeBench with
  | some _ => c.beginSwap (some c.fw.incoming)
  | none =>
    let c := { c with fw := { c.fw with
      phase := .idle, busy := false, staged := false, cells := 0, mixed := c.fw.running != c.fw.image.fwVersion } }
    c.fwEvent 0 c.fw.image.fwVersion

/-- SWAP_COPY_DONE (step a): the incoming Fielder has the image of its role, and is started. -/
def Chip.swapCopied (c : Chip) (m : Memory) : Chip :=
  if c.fw.phase = .swapCopy then
    let role := c.fw.roles.headD 0
    let c := (c.loadRole m c.fw.incoming role).dozeExit.startFielder c.fw.incoming (BitVec.ofNat 3 role) c.fw.newBank true
    { c with fw := { c.fw with phase := .swapStart } }
  else c

/-- Steps c and d: the incoming Fielder has reported ready (R338). -/
def Chip.swapMove (c : Chip) : Chip :=
  { c.moveService c.fw.outgoing c.fw.incoming with fw := { c.fw with phase := .swapDrain } }

/-- SWAP_DRAIN_DONE (step e): the outgoing Fielder becomes the bench, with its RAM cleared. -/
def Chip.drained2 (c : Chip) : Chip :=
  if c.fw.phase = .swapDrain then
    let f := c.fw.outgoing
    let ok := (c.fielder f).st == .active
    let c := if ok then ((c.leaveActive f .bench).clearRam f).updFielder f (fun x =>
        { st := .bench, role := x.role, cycles := x.cycles, retired := x.retired })
      else c
    let c := { c with fw := { c.fw with
      phase := .swapCopy, bench := if ok then some f else none, visit := c.fw.visit.drop 1, roles := c.fw.roles.drop 1
      swapStep := if c.fw.visit.length ≤ 1 then c.fw.swapStep else c.fw.swapStep + 1 } }
    (c.nextStep 12).shareResume
  else c

/-- DRAIN_TIMEOUT (R45): what the outgoing Fielder still owns is cancelled. -/
def Chip.drainLate (c : Chip) : Chip := if c.fw.phase = .swapDrain then c.cancelHeld c.fw.outgoing else c

/-! ### The commands of the loader -/

/-- FW_LOAD (R36, R38, R47). -/
def Chip.fwLoad (c : Chip) (w : Writer) : Chip :=
  c.mgrCmd w false (fun c t =>
    let len := c.fw.len.toNat
    if c.fw.busy then c.mgrDone t ccParam 9
    else if !c.mgr.argsOk 3 0 0 0 then c.mgrDone t ccParam 0
    else
      let c := { c with fw := { c.fw with
        before := some (c.fw.err, c.fw.staged, c.fw.halted, c.fw.cells, c.fw.image)
        err := 0, staged := false, halted := false, inMgr := true, apply := bitAt c.mgr.arg0 1, commit := c.fw.svnCommit } }
      if len < 384 ∨ 1310720 < len then c.fwFail 1 none
      else
        let c := { c with fw := { c.fw with busy := true, cells := cdiv len 512 } }
        if bitAt c.mgr.arg0 0 then { c with fw := { c.fw with phase := .verifying } }
        else if c.link0.pm ≠ .l0 then c.fwFail 8 none
        else ({ c with fw := { c.fw with phase := .fetching } } : Chip).emit (.hostRead 0 c.fw.addr len))

/-- FW_SWAP (R43, R46, R47). -/
def Chip.fwSwap (c : Chip) (m : Memory) (w : Writer) : Chip :=
  c.mgrCmd w false (fun c t =>
    if c.fw.busy then c.mgrDone t ccParam 9
    else if !c.mgr.argsOk 0 0 0 0 then c.mgrDone t ccParam 0
    else if !c.fw.staged then ({ c with fw := { c.fw with inMgr := true } } : Chip).fwFail 0xE none
    else if !c.boot.fwRunning then c.mgrDone t ccParam 0
    else
      let c := { c with fw := { c.fw with err := 0, inMgr := true } }
      if c.fw.halted then
        if c.freeBench.isNone then c.fwFail 0xA (some c.fw.image.fwVersion)
        else ({ c with fw := { c.fw with busy := true, halted := false, haltReq := false } } : Chip).fwBegun.nextStep 12
      else c.askSwap m false)

/-- FW_FETCH_DONE (R38). -/
def Chip.fetched (c : Chip) (r : ReadEnd) : Chip :=
  if c.fw.phase ≠ .fetching then c
  else if r ≠ .ok then c.fwFail 8 none
  else { c with fw := { c.fw with
    phase := .verifying, before := c.fw.before.map (fun x => (x.1, false, false, 0, x.2.2.2.2)) } }

/-- The bytes of a fetched image, as the staging memory holds them (R37). -/
def Chip.fetchedStage (c : Chip) (m : Memory) (r : ReadEnd) (image : List Byte) : Memory :=
  if c.fw.phase = .fetching ∧ r = .ok then Memory.ofBytes 0 (image.take (min c.fw.len.toNat stageSize)) else m

/-- FW_VERIFY_DONE (R38, R40, R43, R47). -/
def Chip.verified (c : Chip) (m : Memory) (keyOk sigOk : Bool) : Chip :=
  if c.fw.phase ≠ .verifying then c
  else
    let img := imageOf m
    let err := imageErr m c.fw.len.toNat keyOk sigOk c.fuse c.otpKey
    if err ≠ 0 then c.fwFail err (some img.fwVersion)
    else
      let c := { c with fw := { c.fw with image := img, staged := true, phase := .idle } }
      if !c.fw.apply then ({ c with fw := { c.fw with busy := false } } : Chip).fwBegun
      else if c.boot.fwRunning then c.askSwap m true
      else c.install m

/-- FW_START_TIMEOUT (R40, R46). -/
def Chip.startTimeout (c : Chip) (f : Nat) : Chip :=
  if c.fw.phase = .installing ∧ c.fw.visit.contains f = true ∧ (c.fielder f).ready = false then c.installFails f
  else if (c.fw.phase = .swapStart ∨ c.fw.phase = .restoreStart) ∧ c.fw.incoming = f ∧ (c.fielder f).ready = false then
    let restore := c.fw.phase == .restoreStart
    let c := (c.leaveActive f .bench).updFielder f (fun x => { x with st := .bench })
    let c := { c with fw := { c.fw with err := 0xC, bench := some f } }
    (if restore then c.fwFail 0xC (some c.fw.image.fwVersion) else c.haltSwap).startLate f 0
  else c

/-- FREADY_WRITE (R318, R320): installation, a swap step, a restored role or a takeover goes on. -/
def Chip.fready (c : Chip) (f : Nat) (val : Word) : Chip :=
  if !bitAt val 0 || (c.fielder f).st != .active then c
  else
    let was := (c.fielder f).ready
    let c := c.updFielder f (fun x => { x with ready := true })
    if was then c
    else if c.fw.phase = .installing then
      if c.fw.visit.all (fun g => (c.fielder g).st == .active && (c.fielder g).ready) then c.enterService else c
    else if c.fw.phase = .swapStart ∧ c.fw.incoming = f then c.swapMove
    else if c.fw.phase = .restoreStart ∧ c.fw.incoming = f then c.restored
    else
      match (c.fielder f).takes with
      | none => c
      | some g =>
        let c := c.updFielder f (fun x => { x with takes := none, suspRole := none })
        if g = f then
          { c with rel := { c.rel with suspended := c.rel.suspended &&& ~~~(BitVec.ofNat 8 (2 ^ (c.fielder f).role.toNat)) } }
        else (c.passHeld g f).moveService g f

/-- FW_DISCARD (R37, R42): ignored while a swap runs. A load that is fetching or verifying loses the image it works on, and ends there;
its command, where it still runs, completes ABORTED. DESIGN CHOICE, log entry 75. -/
def Chip.fwDiscard (c : Chip) : Chip :=
  let drop (c : Chip) : Chip := { c with fw := { c.fw with staged := false, cells := 0, halted := false, before := none } }
  match c.fw.phase with
  | .swapCopy | .swapStart | .swapDrain | .restoreStart => c
  | .fetching | .verifying =>
    let inMgr := c.fw.inMgr
    let c := drop { c with fw := { c.fw with phase := .idle, busy := false, inMgr := false } }
    if inMgr then c.mgrDone c.mgr.ticket ccAborted 0 else c
  | .idle | .installing => drop c

/-! ### Fielder faults (R319, R339, R404) -/

/-- The codes of R412, and whether the word lay in the instruction RAM. -/
def faultCode (k : FaultKind) : Nat :=
  match k with
  | .uncorrectable _ => 1
  | .watchdog => 2
  | .fetchLoop => 3
  | .correctedReg => 0
def faultInIram (k : FaultKind) : Bool :=
  match k with
  | .uncorrectable b => b
  | _ => false

/-- The role of a faulted Fielder goes to the bench, at once or at the boundary where a swap halts (R404, R406, R46). -/
def Chip.moveRole (c : Chip) (f : Nat) : Chip :=
  let fw := c.fw
  let owe (c : Chip) : Chip :=
    { c.updFielder f (fun x => { x with owed := true }) with fw := { c.fw with haltReq := true } }
  match fw.phase with
  | .swapCopy => (c.updFielder f (fun x => { x with owed := true })).haltSwap
  | .swapStart =>
    if f = fw.incoming then ({ c with fw := { c.fw with bench := none } } : Chip).haltSwap
    else if f = fw.outgoing then { c with fw := { c.fw with haltReq := true } }
    else owe c
  | .swapDrain => if f = fw.outgoing then { c with fw := { c.fw with haltReq := true } } else owe c
  | .installing => c
  | _ => if c.boot.fwRunning then c.takeOver f else c

/-- FIELDER_FAULT (R404): the Fielder leaves ACTIVE, the fault is logged, and its role moves. -/
def Chip.fault (c : Chip) (f : Nat) (k : FaultKind) : Chip :=
  let x := c.fielder f
  let loc := f + 2 ^ 8 * x.role.toNat
  if x.st = .active then
    let c := (c.leaveActive f (if faultCode k = 0 then .test else .halted)).updFielder f
        (fun x => { x with badIram := x.badIram || faultInIram k })
    let helped := c.freeBench.isSome && c.roleCopy f
    let c := c.log (0x21 + f) 0x03 loc x.mepc.toNat (faultCode k) (if helped then 8 else 24 + 128)
    let slot := c.lastLog
    let c := if helped then c else c.log 0x20 0x0B 0x20 0 0 0
    (((c.pend 452).abortMail f).moveRole f).queueCheck (.fielder f slot) slot
  else if x.st = .bench ∧ k = .correctedReg then
    let c := c.log (0x21 + f) 0x03 loc x.mepc.toNat 0 0
    c.queueCheck (.fielder f c.lastLog) c.lastLog
  else c

/-- An exception of a Fielder's program (R315): a fetch that misses again at mtvec.BASE, in the handler of such a miss, is a Fielder fault
(R319). A Fielder that executes nothing raises none (R318). EBREAK with TESTMODE high and a debugger attached halts the Fielder
(R314). -/
def Chip.trap (c : Chip) (f : Nat) (cause : BitVec 5) (pc tval : Word) : Chip :=
  let x := c.fielder f
  let base := x.mtvec &&& ~~~(3 : Word)
  if x.st = .bench ∨ x.st = .halted ∨ x.st = .retired then c
  else if cause = 3 ∧ c.jtag.testMode = true ∧ c.jtag.attached = true then
    ({ c with jtag := { c.jtag with held := f :: c.jtag.held.filter (fun g => g != f) } } : Chip).updFielder f (fun x => { x with pc := pc })
  else if x.st = .active ∧ cause = 1 ∧ x.mcause = 1 ∧ x.mepc = base ∧ pc = base then c.fault f .fetchLoop
  else c.exception f cause pc tval

/-- FWDOG_EXPIRY (R321): the first sets source 44 + FID; a second with no write in between is a fault. -/
def Chip.fwdogEnd (c : Chip) (f : Nat) : Chip :=
  let x := c.fielder f
  if x.st ≠ .active ∨ x.fwdog = 0 ∨ x.wfi = true then c
  else if x.barked then c.fault f .watchdog
  else (c.updFielder f (fun x => { x with barked := true })).pend (44 + f)

/-- ROLE_SUSPEND (R406): the role of a faulted Fielder, for which there is no bench or whose bench is not ready in time. -/
def Chip.roleSuspend (c : Chip) (f : Nat) : Chip :=
  match (List.range 12).find? (fun b => (c.fielder b).takes == some f && b != f) with
  | some b =>
    let c := c.log (0x21 + b) 0x04 b 2 0 24
    let slot := c.lastLog
    let c := if (c.fielder b).st = .active then c.leaveActive b .bench else c
    let c := { c.updFielder b (fun x => { x with takes := none, st := .bench }) with fw := { c.fw with bench := some b } }
    (c.suspendRole f).queueCheck (.fielder b slot) slot
  | none => if ((c.fielder f).st = .halted ∨ (c.fielder f).st = .test) ∧ (c.fielder f).owed = true then c.suspendRole f else c

end Sys2Proof.Machine
end

