-- ==== Sys2Proof/Machine/Power.lean ====
section
/-! DEFINITION. Bring-up (R22, R26, R434 to R436), the power states and their scrum (R370 to R389), DVFS and heat (R390 to
R395). -/

namespace Sys2Proof.Machine

/-! ### Reset pins -/

/-- Nothing holds the chip: RESET# and PWRGD_IN are high, power-on reset is over, and no trip is in force. -/
def Chip.up (c : Chip) : Bool := c.hold.resetN && !c.hold.por && !c.hold.trip && !c.hold.pwrgdHold

/-- POWER_ON (R434): power-on reset ends, and the straps are latched; RESET# is still low. -/
def Chip.powerUp (c : Chip) (p : StrapPins) : Chip :=
  { c.powerOnReset (latch p) with hold := { resetN := false } }

/-- VDD_SL_FALL (R434): the Sideline holds the chip in power-on reset. -/
def Chip.vddFall (c : Chip) : Chip :=
  { c.powerOnReset {} with hold := { resetN := c.hold.resetN, pwrgd := c.hold.pwrgd, vddSl := false, por := true } }

/-- RESET_ASSERT (R22). WAKE_OUT rises, but for a trip in force (R395). -/
def Chip.resetLow (c : Chip) : Chip :=
  if c.hold.por then { c with hold := { c.hold with resetN := false } }
  else
    let rises := !c.hold.wakeOut && !c.hold.trip
    { c.coreReset c.straps with hold := { c.hold with
      resetN := false, wakeOut := c.hold.wakeOut || rises, pwrgdSeen := if rises then c.hold.pwrgd else c.hold.pwrgdSeen } }

/-- RESET_RELEASE (R26, R395, R435): the straps are latched and the bring-up begins. -/
def Chip.resetHigh (c : Chip) (p : StrapPins) : Chip :=
  let h := { c.hold with resetN := true }
  if c.hold.resetN || c.hold.por || c.hold.pwrgdHold || (c.hold.trip && decide (125 ≤ c.pwr.temp)) then { c with hold := h }
  else { c.coreReset (latch p) with hold := if c.hold.trip then { h with trip := false, wakeOut := true, pwrgdSeen := c.hold.pwrgd }
      else h }

/-- PWRGD_IN_LOW (R435). -/
def Chip.pwrgdLow (c : Chip) : Chip :=
  let h := { c.hold with pwrgd := false }
  if c.hold.wakeOut && c.hold.pwrgdSeen && !c.hold.por && !c.hold.trip then
    { c.coreReset c.straps with hold := { h with pwrgdHold := true } }
  else { c with hold := h }

/-- PWRGD_IN_RISE (R434, R435): power-on reset ends; a hold ends, and the straps are latched again; or exit step 1 from
DORMANT may end. -/
def Chip.pwrgdHigh (c : Chip) (p : StrapPins) : Chip :=
  let h := { c.hold with pwrgd := true, pwrgdSeen := c.hold.pwrgdSeen || c.hold.wakeOut }
  if c.hold.por then (if c.hold.vddSl then { c.powerOnReset (latch p) with hold := { resetN := c.hold.resetN } } else { c with hold := h })
  else if c.hold.pwrgdHold then
    { c.coreReset (if c.hold.resetN then latch p else c.straps) with hold := { h with pwrgdHold := false } }
  else
    let c := { c with hold := h }
    if c.pwr.st = .exiting 1 ∧ c.pwr.vrdySeen = true then { c with pwr := { c.pwr with st := .exiting 2 } } else c

/-! ### Bring-up and the exit steps -/

/-- CRYSTAL_STABLE (R26): CLK_AUX runs, and the deglitch counts start. -/
def Chip.crystalOk (c : Chip) : Chip :=
  if c.up && !c.boot.crystal && (c.pwr.st == .run || (c.pwr.st == .exiting 2 && c.pwr.goal == 3)) then
    { c with boot := { c.boot with crystal := true }, ports := Tbl.mapv {} c.ports (fun _ p => { p with deglitch := p.pocLow }) }
  else c

/-- PLL_LOCK (R26, R386). -/
def Chip.pllOk (c : Chip) : Chip :=
  if !c.up || !c.boot.crystal then c
  else if c.pwr.st = .run then { c with boot := { c.boot with pll := true } }
  else if c.pwr.st = .exiting 2 then { c with boot := { c.boot with pll := true }, pwr := { c.pwr with st := .exiting 3 } }
  else c

/-- SRAM_RDY (R26, R386). -/
def Chip.sramOk (c : Chip) : Chip :=
  if !c.up || !c.boot.pll then c
  else if c.pwr.st = .run then { c with boot := { c.boot with sram := true } }
  else if c.pwr.st = .exiting 3 then { c with boot := { c.boot with sram := true }, pwr := { c.pwr with st := .exiting 4 } }
  else c

/-- READY and WAITING (R26 step 5); Fielders that the Sideline records as retired stay so (R403). -/
def Chip.bootReady (c : Chip) : Chip :=
  let c := { c with boot := { c.boot with ready := true, mode := .waiting } }
  c.rel.retired.foldl (fun c f => c.updFielder f (fun x => { x with st := .retired })) c

/-- What the end of an exit does in both cases: the trips and the escape of the meantime, and the wake record (R221, R382,
R384). -/
def Chip.exitEnd (c : Chip) (left : BitVec 2) : Chip :=
  let due := c.rel.evDue
  let c := { c with
    pwr := { c.pwr with st := .run, target := 0, lastExit := left, wakeDue := false, vrdySeen := false }
    rel := { c.rel with evDue := [] } }
  let c := due.foldl (fun (c : Chip) b => match b with
    | .event ev s d1 d2 => c.mgrEvent ev s d1 d2
    | _ => c) c
  let c := c.tripsDue
  let c := if c.pwr.slDue then ({ c with pwr := { c.pwr with slDue := false } } : Chip).pend 469 else c
  let c := if c.pwr.wakeSrc then ({ c with pwr := { c.pwr with wakeSrc := false } } : Chip).pend 464 else c
  match c.smb.deferred with
  | some (t, thaw) => (({ c with smb := { c.smb with deferred := none } } : Chip).mgrAbort).freezeTarget t.toNat thaw
  | none => c

/-- The ports of the fabric leave ASLEEP, with TAP sent first (R343, R368, R369). -/
def Chip.fabWake (c : Chip) (tap : Bool) : Chip :=
  let on := c.fab.ports.any (fun p => p.2.st == 5) || (tap && c.fab.valid && decide (2 ≤ c.fab.count))
  let c := if tap && on then (c.emit (.tap 0)).emit (.tap 1) else c
  { c with fab := { c.fab with
    sleepGrant := false, asked := [], asking := false
    ports := Tbl.mapv {} c.fab.ports (fun _ p => if p.st = 5 then { p with st := 1, lanes := 0 } else p) } }

/-- LOGIC_RDY at the end of an exit from RETAIN (R386): the groups' hold-offs read 0 (R336). -/
def Chip.retainExit (c : Chip) : Chip :=
  let c := c.exitEnd 2
  let c := if c.pwr.autoRetain then { c with pwr := { c.pwr with held := false, ppeHeld := 0, dcpHeld := 0 } } else c
  let c := { c with grps := Tbl.mapv {} c.grps (fun _ g => { g with remain := 0 }) }
  ((((c.wakeAll 4).wakeCharging).fabWake c.fab.tapTx).mgrEvent evPower noSubject 2 0).sampleLines

/-- LOGIC_RDY at the end of an exit from DORMANT (R381, R386): as after RESET#, with the pads still held. -/
def Chip.dormantExit (c : Chip) : Chip :=
  let c := { c with
    link0 := { perstN := c.link0.perstN }, link1 := { perstN := c.link1.perstN }
    pwr := { c.pwr with wakeEn := 0x7F, wakeGpio := 0, autoRetain := true }
    ports := Tbl.mapv {} c.ports (fun _ q => { q with seen := none })
    ssps := Tbl.mapv {} c.ssps (fun _ q => { q with seen := none }) }
  c.bootReady.exitEnd 3

/-- LOGIC_RDY (R26, R386). -/
def Chip.logicOk (c : Chip) : Chip :=
  if !c.up || !c.boot.sram then c
  else if c.pwr.st = .run then (if c.boot.ready then c else c.bootReady)
  else if c.pwr.st = .exiting 4 then (if c.pwr.goal = 3 then c.dormantExit else c.retainExit)
  else c

/-- A Fielder is retired: the Sideline records it, and OTP where OTP_COMMIT is set (R403). -/
def Chip.retire (c : Chip) (f slot : Nat) : Chip :=
  let c := c.updFielder f (fun _ => { st := .retired })
  let c := { c with rel := { c.rel with retired := f :: c.rel.retired.filter (fun g => g != f) } }
  let c := if c.fw.bench = some f then { c with fw := { c.fw with bench := none } } else c
  if c.rel.otpCommit then { c with rel := { c.rel with otpDue := c.rel.otpDue ++ [(slot, OtpItem.fielder f)] } } else c

/-- BOOT_SELF_TEST_DONE (R26, R317). -/
def Chip.selfTest (c : Chip) (f : Nat) (pass : Bool) : Chip :=
  if !c.boot.ready || (c.fielder f).st != .boot then c
  else if pass then c.updFielder f (fun x => { x with st := .waiting, wfi := true })
  else
    let c := c.log (0x21 + f) 0x04 f 1 0 12
    c.retire f c.lastLog

/-! ### PWR_MODE and DOZE (R372, R375) -/

/-- Every ACTIVE Fielder waits in WFI, under firmware (R371, R372). -/
def Chip.allWfi (c : Chip) : Bool :=
  c.boot.fwRunning && (c.fieldersIn .active).all (fun f => (c.fielder f).wfi)

/-- TARGET and, by the manager, LIMIT. -/
def Chip.pwrMode (c : Chip) (w : Writer) (val : Word) : Chip :=
  let target := BitVec.ofNat 2 (fld val 1 0)
  let limit := match w with
    | .fielder _ => c.pwr.limit
    | _ => BitVec.ofNat 2 (fld val 5 4)
  let due := target == 0 && c.pwr.dozeDue
  let c := { c with pwr := { c.pwr with target := target, limit := limit, dozeTold := false, dozeDue := c.pwr.dozeDue && !due } }
  if due then c.mgrEvent evPower noSubject 0 0 else c

/-- DOZE_ENTRY (R375). -/
def Chip.doze (c : Chip) : Chip :=
  if c.pwr.st = .run ∧ c.pwr.target = 1 ∧ c.pwr.limit ≠ 0 ∧ c.allWfi = true then
    let told := c.pwr.dozeTold
    let c := { c with pwr := { c.pwr with st := .doze, dozeTold := true, dozeDue := true } }
    if told then c else c.mgrEvent evPower noSubject 1 0
  else c

/-! ### The scrum (R376) -/

/-- Some perturbation is armed (R420). -/
def Spin.active (s : Spin) : Bool :=
  fld s.dma 15 0 != 0 || fld s.credit 11 0 != 0 || fld s.nak 15 8 != 0 || fld s.fab 15 8 != 0 || fld s.sof 13 8 != 0
    || bitAt s.ecc 29 || fld s.refuse 15 8 != 0

/-- The forced refusal of SPIN_REFUSE in a phase (R420, R421). -/
def Spin.forced (s : Spin) (phase : Nat) : Option Nat :=
  if fld s.refuse 15 8 ≠ 0 ∧ fld s.refuse 7 6 = phase then some (fld s.refuse 5 0) else none

/-- SPIN refuses phase 1 while a perturbation is armed, but for a forced refusal that is meant for phase 2. -/
def Spin.refuses (s : Spin) : Bool :=
  if (s.forced 2).isSome then ({ s with refuse := 0 } : Spin).active else s.active

/-- The position of a block in the stop order; 0: asked in phase 1 only, or not at all. -/
def stopStep (block : Nat) : Nat :=
  if block = 0x15 ∨ block = 0x14 then 1
  else if block = 0x09 ∨ block = 0x0A then 2
  else if 0x0C ≤ block ∧ block ≤ 0x10 then 3
  else if block = 0x12 then 4
  else if block = 0x13 then 5
  else if block = 0x0B then 6
  else if block = 0x11 then 7
  else if block = 0x1B then 8
  else if block = 0x1C then 9
  else if block = 0x08 then 10
  else if 0x18 ≤ block ∧ block ≤ 0x1A then 11
  else if block = 0x06 ∨ block = 0x07 then 12
  else if block = 0x16 then 13
  else 0

/-- A port that keeps USB2_PORTS, or an SSP that keeps SS_PORTS, from stopping. -/
def Port.busy (p : Port) : Bool :=
  p.st == pPowering || p.st == pDebounce || p.st == pResetting || p.st == pEnabled || p.st == pL1 || p.st == pSuspending
    || p.st == pResuming || p.st == pRecovery
def Ssp.busy (p : Ssp) : Bool :=
  p.st == sPolling || p.st == sU0 || p.st == sU1 || p.st == sU2 || p.st == sRecovery || p.st == sResetting

/-- PASS_STS.SUSPENDED: the upstream USB 2.0 or SuperSpeed link is suspended (R224). -/
def Pass.suspended (x : Pass) : Bool := x.attached && (x.usb2.suspended || x.usb3.suspended)

/-- A trained link that is neither deep enough (R376). -/
def linkAwake (goal : BitVec 2) (pm : LinkPm) : Bool :=
  match pm with
  | .l0 | .l1 | .l11 => true
  | .l12 => goal == 3
  | _ => false

/-- A record not yet written, or a Huddle decision due with its message not yet sent (R376). -/
def Chip.unwritten (c : Chip) : Bool :=
  c.insts.any (fun x => x.2.ovfDue || x.2.crings.any (fun r => !r.2.held.isEmpty || r.2.due)) || c.eps.any (fun e => !e.2.done.isEmpty)

/-- Blocks whose refusal condition holds, by ascending ID. -/
def Chip.refusing (c : Chip) (goal : BitVec 2) : List Nat :=
  let some? (b : Bool) (id : Nat) : List Nat := if b then [id] else []
  some? (linkAwake goal c.link0.pm) 0x06 ++ some? (linkAwake goal c.link1.pm) 0x07
    ++ some? (c.pass.attached && (goal == 3 || !c.pass.suspended)) 0x08
    ++ some? (c.insts.any (fun x => x.2.mbox.busy)) 0x09
    ++ some? (c.insts.any (fun x => x.2.cmds.any (fun m => m.phase == .running))) 0x0A
    ++ some? (c.buses.any (fun b => b.2.on.isSome || b.2.paused.isSome)) 0x0C
    ++ some? (c.peps.any (fun p => p.2.used && (!p.2.live || p.2.dropping))) 0x0D
    ++ some? (c.insts.any (fun x => x.2.chans.any (fun h => h.2.st != .idle)) || c.internals.any (fun h => h.2.st != .idle)) 0x12
    ++ some? c.unwritten 0x13
    ++ some? c.fw.busy 0x14
    ++ some? (c.mgr.busy || decide (c.pwr.limit < goal)) 0x15
    ++ some? (c.pwr.dvfs != .idle) 0x17
    ++ some? (c.fab.valid && decide (2 ≤ c.fab.count) && !c.fab.sleepGrant) 0x18
    ++ some? (c.ports.any (fun p => p.2.busy)) 0x1B
    ++ some? (c.ssps.any (fun p => p.2.busy)) 0x1C
    ++ some? c.spin.refuses 0x2D
    ++ some? (c.jtag.testMode || !c.jtag.held.isEmpty) 0x2E

/-- The block that refuses phase 1: the lowest ID, a forced one among them. -/
def Chip.refusal1 (c : Chip) : Option Nat :=
  let all := (c.spin.forced 1).toList ++ c.refusing c.pwr.goal
  all.foldl (fun m b => some (match m with
    | some k => min k b
    | none => b)) none

/-- The block that refuses stop step `k`: LIMIT and the blocks asked in phase 1 alone are not asked again. -/
def Chip.refusal2 (c : Chip) (k : Nat) : Option Nat :=
  let c' := { c with pwr := { c.pwr with limit := 3 } }
  let all := (c.spin.forced 2).toList ++ c'.refusing c.pwr.goal
  (all.filter (fun b => stopStep b == k)).foldl (fun m b => some (match m with
    | some j => min j b
    | none => b)) none

/-- The forced refusals still to come count down (R420). -/
def Spin.spend (s : Spin) (phase : Nat) : Spin :=
  if (s.forced phase).isSome then { s with refuse := s.refuse - 0x100 } else s

/-- An entry ends where it stands: TARGET 0, RUN, every Fielder leaves WFI with UNWIND, and the Huddle decisions that fell due are
made (R376). -/
def Chip.entryOver (c : Chip) : Chip :=
  ((({ c with pwr := { c.pwr with st := .run, target := 0, wakeDue := false } } : Chip).wakeAll 8).wakeCharging).huddleDue

/-- A node of a fabric whose entry is abandoned sends TAP on both ports (R369). DEDUCED, log entry 50. -/
def Chip.abandonTap (c : Chip) : Chip :=
  if c.fab.valid && decide (2 ≤ c.fab.count) then (c.emit (.tap 0)).emit (.tap 1) else c

/-- A scrum is refused (R376). -/
def Chip.refuse (c : Chip) (block phase step : Nat) : Chip :=
  let c := { c with
    spin := c.spin.spend phase
    pwr := { c.pwr with
      refuse1 := if phase = 1 then c.pwr.refuse1 + 1 else c.pwr.refuse1
      refuse2 := if phase = 2 then c.pwr.refuse2 + 1 else c.pwr.refuse2
      refBlock := BitVec.ofNat 6 block, refPhase := BitVec.ofNat 2 phase, refTarget := c.pwr.goal, refStep := BitVec.ofNat 4 step } }
  c.entryOver.abandonTap.pend 417

/-- SCRUM_START (R376, R279). -/
def Chip.scrum (c : Chip) : Chip :=
  if (c.pwr.st = .run ∨ c.pwr.st = .doze) ∧ 2 ≤ c.pwr.target ∧ c.allWfi = true then
    ({ c with pwr := { c.pwr with st := .phase1, goal := c.pwr.target, lastAp := 0, unwound := false, wakeDue := false } } : Chip).sleepCharging
  else c

/-! ### Wakes and unwinding (R378, R379, R384) -/

/-- A wake unwinds the entry (R378). -/
def Chip.unwind (c : Chip) : Chip :=
  let ap4 := c.pwr.lastAp == 4
  let c := { c with pwr := { c.pwr with
    unwound := true, wakeSrc := false, held := c.pwr.held && !ap4
    ppeHeld := if ap4 then 0 else c.pwr.ppeHeld, dcpHeld := if ap4 then 0 else c.pwr.dcpHeld } }
  (c.entryOver.fabWake true).pend 464

/-- An abort point is reached: a wake that waits unwinds the entry. -/
def Chip.abortPoint (c : Chip) (n : Nat) (st : PwrSt) : Chip :=
  let c := { c with pwr := { c.pwr with st := st, lastAp := BitVec.ofNat 3 n } }
  if c.pwr.wakeDue then c.unwind else c

/-- A running check ends INCONCLUSIVE where the core goes off (R408). -/
def Chip.endChecks (c : Chip) : Chip :=
  let c := (c.rel.banks.filter (fun b => b.2.row.isSome)).foldl (fun (c : Chip) b =>
      c.logResult b.2.slot (fun e => e.withOutcome 3 0 false)) c
  let c := match c.rel.fielderJob with
    | some j => c.logResult j.2.1 (fun e => e.withOutcome 3 (fld e.outcome 4 2) false)
    | none => c
  c.rel.laneJobs.foldl (fun (c : Chip) j => c.logResult j.2.1 (fun e => e.withOutcome 3 0 false)) c

/-- FIELDER_STATE_SAVED (AP2). -/
def Chip.saved (c : Chip) : Chip := if c.pwr.st = .ap1 then c.abortPoint 2 .ap2 else c

/-- SRAM_RETENTION_DONE (AP3). -/
def Chip.retained (c : Chip) : Chip := if c.pwr.st = .ap2 then c.abortPoint 3 .ap3 else c

/-- The PPE balls that are high, as a mask. -/
def Chip.ppeHigh24 (c : Chip) : BitVec 24 := BitVec.ofNat 24 (portMask ((List.range 24).filter (fun p => (c.port p).powered)))

/-- CLOCK_STOP_DONE (R377 step 5, AP4): the pads are held, and the fabric's ports go ASLEEP. -/
def Chip.clockStop (c : Chip) : Chip :=
  if c.pwr.st = .ap3 then
    let c := { c with
      pwr := { c.pwr with held := true, ppeHeld := c.ppeHigh24, dcpHeld := c.dcpShorts }
      fab := { c.fab with ports := Tbl.mapv {} c.fab.ports (fun _ p => if p.st = 3 then { p with st := 5 } else p) } }
    c.abortPoint 4 .ap4
  else c

/-- What is left in DORMANT (R381): the straps, the Sideline, which goes on with the deglitch counts (R221), and the pads; the
enabled wakes are the Sideline's (R376). -/
def Chip.dormantLoss (c : Chip) : Chip :=
  let c := c.endChecks
  let p := c.pwr
  let sleeping (pm : LinkPm) : LinkPm := if pm = .l2 ∨ pm = .l3 then pm else .down
  { c.coreReset c.straps with
    ports := Tbl.mapv {} c.ports (fun _ q => { pocLow := q.pocLow, deglitch := q.deglitch && q.pocLow })
    link0 := { perstN := c.link0.perstN, pm := sleeping c.link0.pm }
    link1 := { perstN := c.link1.perstN, pm := sleeping c.link1.pm }
    pwr := { p.sideline with
      st := p.st, goal := p.goal, lastAp := p.lastAp, unwound := p.unwound, lastExit := p.lastExit, entries := p.entries
      wakeEn := p.wakeEn, wakeGpio := p.wakeGpio, held := p.held, ppeHeld := p.ppeHeld, dcpHeld := p.dcpHeld, autoRetain := p.autoRetain
      wakeDue := p.wakeDue, slDue := p.slDue, wakeSrc := p.wakeSrc, temp := p.temp, hotRuns := p.hotRuns }
    hold := { c.hold with wakeOut := false, pwrgdSeen := false } }

/-- Exit begins (R385, R386): VID is driven, and WAKE_OUT rises; a link in L2 or L3 gets PEWAKEn#, one in L1.2 CLKREQn#. -/
def Chip.beginExit (c : Chip) : Chip :=
  let wakeLink (c : Chip) (l : Nat) : Chip :=
    match (c.link l).pm with
    | .l2 | .l3 => c.emit (.pewake l)
    | .l12 => c.emit (.clkreq l)
    | _ => c
  let c := (wakeLink c 0)
  let c := (wakeLink c 1)
  { c with
    pwr := { c.pwr with st := .exiting 1, wakeDue := false, vrdySeen := false, vid := if c.pwr.goal = 3 then 4 else c.pwr.vOld }
    hold := { c.hold with wakeOut := true } }

/-- POWER_ENTRY_COMPLETE (R377 step 6). -/
def Chip.entryDone (c : Chip) : Chip :=
  if c.pwr.st = .ap4 then
    let dormant := c.pwr.goal == 3
    let c := { c with pwr := { c.pwr with
      st := if dormant then .dormant else .retain, lastAp := 5, entries := c.pwr.entries + 1, vOld := c.pwr.vid, vid := 0 } }
    let due := c.pwr.wakeDue
    let c := if dormant then ({ c with pwr := { c.pwr with vid := 0 } } : Chip).dormantLoss else c
    let c := { c with pwr := { c.pwr with vid := 0 } }
    if due then c.beginExit else c
  else c

/-- The WAKE_EN bit, block ID and DETAIL of a wake source (R384). -/
def wakeOf (e : WakeEvent) : Nat × Nat × Nat :=
  match e with
  | .clkreq l => (l.val, 6 + l.val, l.val)
  | .perstRise l => (l.val, 6 + l.val, 0x10 + l.val)
  | .portConnect b => (2, if b.val < 24 then 0x1B else 0x1C, busCode b.val)
  | .portWake b => (3, if b.val < 24 then 0x1B else 0x1C, busCode b.val)
  | .ufpVbus _ => (4, 8, 0)
  | .ufpResume => (5, 8, 1)
  | .tap p => (6, 0x19 + p.val, 0)
  | .gpio n _ => (7, 3, n.val)
  | .slTimer => (8, 2, 0)
  | .overcurrent n => (9, 5, n.val)

/-- The source is enabled: its WAKE_EN bit; a level of a ball enabled in WAKE_GPIO; over-current always. -/
def Pwr.wakeOn (p : Pwr) (e : WakeEvent) : Bool :=
  match e with
  | .overcurrent _ => true
  | .gpio n high => bitAt p.wakeEn 7 && bitAt p.wakeGpio n.val && bitAt p.wakeGpio (16 + n.val) == high
  | .perstRise l => bitAt p.wakeEn l.val && p.goal == 3
  | _ => bitAt p.wakeEn (wakeOf e).1

/-- WAKE_LAST and WAKE_TIME are written (R384). -/
def Chip.wakeRecord (c : Chip) (e : WakeEvent) (src : Nat) : Chip :=
  { c with pwr := { c.pwr with
    wkBlock := BitVec.ofNat 6 (wakeOf e).2.1, wkFrom := BitVec.ofNat 2 src, wkDetail := BitVec.ofNat 8 (wakeOf e).2.2
    wkAp := c.pwr.lastAp, wakeTime := c.pwr.slTime, wakeSrc := true } }

/-- A wake is qualified (R378, R379, R384). -/
def Chip.wake (c : Chip) (e : WakeEvent) : Chip :=
  if !c.pwr.wakeOn e || c.pwr.wakeDue then c
  else
    match c.pwr.st with
    | .phase1 | .phase2 _ => (c.wakeRecord e 1).unwind
    | .ap1 | .ap2 | .ap3 =>
      let c := c.wakeRecord e 1
      { c with pwr := { c.pwr with wakeDue := true } }
    | .ap4 =>
      let c := c.wakeRecord e c.pwr.goal.toNat
      { c with pwr := { c.pwr with wakeDue := true } }
    | .retain | .dormant => (c.wakeRecord e c.pwr.goal.toNat).beginExit
    | _ => c

/-- A block refuses; where its condition is an enabled wake source the chip wakes instead (R376). -/
def Chip.refuseOrWake (c : Chip) (block phase step : Nat) : Chip :=
  match (if block = 0x1B ∨ block = 0x1C then c.portsWake else none) with
  | some e => c.wake e
  | none => c.refuse block phase step

/-- SCRUM_PHASE1_DONE. -/
def Chip.scrum1 (c : Chip) : Chip :=
  if c.pwr.st = .phase1 then
    match c.refusal1 with
    | some b => c.refuseOrWake b 1 0
    | none => { c with pwr := { c.pwr with st := .phase2 0 } }
  else c

/-- SCRUM_STOP_STEP: one step of phase 2, or a late refusal. -/
def Chip.scrum2 (c : Chip) : Chip :=
  match c.pwr.st with
  | .phase2 n =>
    match c.refusal2 (n + 1) with
    | some b => c.refuseOrWake b 2 (n + 1)
    | none => if n = 12 then c.abortPoint 1 .ap1 else { c with pwr := { c.pwr with st := .phase2 (n + 1) } }
  | _ => c

/-- WAKE_SOURCE: the event, and SL_TIME at its qualification; a ball's level is seen. -/
def Chip.wakeEvent (c : Chip) (e : WakeEvent) (t : Word) : Chip :=
  let c := { c with pwr := { c.pwr with slTime := t } }
  let c := match e with
    | .gpio n high => { c with pwr := { c.pwr with
        gpio := if high then c.pwr.gpio ||| BitVec.ofNat 16 (2 ^ n.val) else c.pwr.gpio &&& ~~~(BitVec.ofNat 16 (2 ^ n.val)) } }
    | _ => c
  c.wake e

/-- SL_TIMER_EXPIRY (R373); source 469 is set when the Whistle runs again. DEDUCED, log entry 50. -/
def Chip.slTimerEnd (c : Chip) : Chip :=
  if c.pwr.slTimer = 0 then c
  else
    let c := { c with pwr := { c.pwr with slTimer := 0 } }
    let c := if c.clocked then c.pend 469 else { c with pwr := { c.pwr with slDue := true } }
    c.wake .slTimer

/-- PAD_RELEASE (R389). -/
def Chip.padRelease (c : Chip) (val : Word) : Chip :=
  if bitAt val 0 && c.pwr.held then { c with pwr := { c.pwr with held := false, ppeHeld := 0, dcpHeld := 0 } } else c

/-! ### DVFS (R390 to R393) -/

/-- VID code that a level of CLK_ENG needs, and the code of a VMIN. -/
def vidFor (freq : BitVec 2) : Nat := 4 - freq.toNat
def vidMin (v : BitVec 2) : Nat := v.toNat + 1

/-- Target frequency and voltage (R392). -/
def Pwr.wantFreq (p : Pwr) : BitVec 2 := if p.freq < p.cap then p.cap else p.freq
def Pwr.wantVid (p : Pwr) : Nat := max (vidFor p.wantFreq) (vidMin p.vmin)

/-- A step has ended (R392). -/
def Pwr.stepEnd (p : Pwr) : Pwr := { p with dvfs := .idle, steps := p.steps + 1, pending := false }

/-- The next step of DVFS, where a target differs from what is in force; each completed step sets source 420. -/
def Chip.dvfsStep (c : Chip) : Chip :=
  let p := c.pwr
  let v := p.wantVid
  if p.dvfs ≠ .idle then { c with pwr := { p with pending := true } }
  else if p.vid.toNat < v then { c with pwr := { p with vid := BitVec.ofNat 4 v, dvfs := .raise, stepFreq := p.wantFreq } }
  else if v < p.vid.toNat then { c with pwr := { p with freqNow := p.wantFreq, vid := BitVec.ofNat 4 v, dvfs := .lower } }
  else if p.freqNow ≠ p.wantFreq then { c with pwr := ({ p with freqNow := p.wantFreq } : Pwr).stepEnd }.pend 420
  else { c with pwr := { p with pending := false } }

/-- DVFS_CTL_WRITE (R391, R392). -/
def Chip.dvfsCtl (c : Chip) (val : Word) : Chip :=
  ({ c with pwr := { c.pwr with freq := BitVec.ofNat 2 (fld val 1 0), vmin := BitVec.ofNat 2 (fld val 5 4) } } : Chip).dvfsStep

/-- DVFS_SETTLE_END: CLK_ENG switches, and the step is complete. -/
def Chip.dvfsSettle (c : Chip) : Chip :=
  if c.pwr.dvfs = .settle then (({ c with pwr := ({ c.pwr with freqNow := c.pwr.stepFreq } : Pwr).stepEnd } : Chip).pend 420).dvfsStep
  else c

/-- VRDY_RISE (R386, R392). -/
def Chip.vrdy (c : Chip) : Chip :=
  match c.pwr.st with
  | .exiting 1 =>
    if c.pwr.goal = 3 ∧ c.hold.pwrgd = false then { c with pwr := { c.pwr with vrdySeen := true } }
    else { c with pwr := { c.pwr with st := .exiting 2, vrdySeen := true } }
  | _ =>
    match c.pwr.dvfs with
    | .raise => { c with pwr := { c.pwr with dvfs := .settle } }
    | .lower => (({ c with pwr := c.pwr.stepEnd } : Chip).pend 420).dvfsStep
    | _ => c

/-- VRDY_WAIT_TIMEOUT (R388). -/
def Chip.vrdyLate (c : Chip) : Chip :=
  if c.pwr.st = .exiting 1 ∧ c.pwr.vrdySeen = false then c.log 0x17 0x07 0 c.pwr.vid.toNat 1 0 else c

/-- DVFS_VRDY_TIMEOUT (R392). -/
def Chip.dvfsLate (c : Chip) : Chip :=
  if c.pwr.dvfs = .raise ∨ c.pwr.dvfs = .lower then
    ({ c with pwr := { c.pwr with vrdyTo := true } } : Chip).log 0x17 0x07 0 c.pwr.vid.toNat 2 0
  else c

/-! ### Heat (R394, R395) -/

/-- TEMP as its nine bits (R373). -/
def Pwr.tempBits (p : Pwr) : Nat := signed 9 p.temp

/-- A thermal trip (R395). -/
def Chip.thermalTrip (c : Chip) : Chip :=
  let c := c.log 0x04 0x06 0 c.pwr.tempBits 0 0
  let r := c.coreReset c.straps
  { r with
    pwr := { r.pwr with tripped := true, held := true, ppeHeld := 0, vid := 0, temp := c.pwr.temp, hotRuns := c.pwr.hotRuns }
    hold := { c.hold with trip := true, wakeOut := false, pwrgdSeen := false } }

/-- THERMAL_SAMPLE (R394, R395). -/
def Chip.thermal (c : Chip) (temp : Int) : Chip :=
  let was := c.pwr.temp
  let hot := decide (135 ≤ temp)
  let two := hot && decide (1 ≤ c.pwr.hotRuns)
  let c := { c with pwr := { c.pwr with
    temp := temp, hotRuns := if hot then c.pwr.hotRuns + 1 else 0
    relaxed := c.pwr.relaxed && decide (temp < c.pwr.low.toNat) } }
  let passed (t : Byte) : Bool := decide (was ≤ t.toNat) && decide (t.toNat < temp)
  let c := if c.clocked && passed c.pwr.high then c.pend 421 else c
  let c := if c.clocked && passed c.pwr.warn then c.pend 423 else c
  if two && !c.hold.trip then c.thermalTrip else c

/-- THROTTLE_STEP (R394). -/
def Chip.throttle (c : Chip) : Chip :=
  let p := c.pwr
  if p.high.toNat < p.temp ∧ p.cap ≠ 3 then
    (({ c with pwr := { p with cap := p.cap + 1 } } : Chip).mgrEvent evPower noSubject
        (toWord (flagAt (p.st == .doze) 0 + 2 ^ 4)) 0).dvfsStep
  else if p.temp < p.low.toNat ∧ p.cap ≠ 0 then
    let c := { c with pwr := { p with cap := p.cap - 1, relaxed := true } }
    let c := if p.relaxed then c else c.pend 422
    let c := if c.pwr.cap = 0 then c.mgrEvent evPower noSubject (toWord (flagAt (p.st == .doze) 0 + 2 ^ 5)) 0 else c
    c.dvfsStep
  else c

end Sys2Proof.Machine
end

