-- ==== Sys2Proof/Machine/Pump.lean ====
section
/-! DEFINITION. What goes on once what it waited for has come about: the continuations, and the loop that ends every
command of the block. -/

namespace Sys2Proof.Machine

/-- The slot of a device that is gone is reported and Disabled (R79, R92). -/
def Chip.detachDone (c : Chip) (sk reason : Nat) : Chip :=
  if (c.slot sk).leaving then ((c.detachAll sk reason).clearSlot sk false).retryParked else c

/-- OVERCURRENT with ACTIVE = 1: GANG where it lists more than one port (R221, R222). -/
def Chip.overcurrentDone (c : Chip) (poc : Nat) (ports : BitVec 24) (owners : List Nat) : Chip :=
  c.overcurrent poc owners (1 + flagAt (1 < (maskPorts ports).length) 1) ports.toNat

/-- What a wait leads to. -/
def Chip.runCont (c : Chip) : Cont → Chip
  | .finish i m code r => c.finish i m code r.toNat
  | .stopEp i m key => c.stopDone i m key
  | .stopAll i m keys =>
    let n := (keys.filter (fun k => (c.ep k).st == .stopped)).length
    c.finish i m ccSuccess (n + flagAt (keys.any (fun k => (c.ep k).settled && (c.ep k).st == .stopped)) 16)
  | .disableSlot i m sk => c.disableRings i m sk
  | .clearSlot i m sk => c.disableDone i m sk
  | .dropEp i m key => c.dropDone i m key
  | .resetEp i m key => c.resetEpDone i m key
  | .setDequeue i m k idx bump => c.setDequeueDone i m k idx bump
  | .destroyRing i m k => c.destroyDone i m k
  | .destroyCring i m k => c.destroyCringDone i m k
  | .portReset b warm => c.resetSignal b warm
  | .detach sk reason => c.detachDone sk reason
  | .portGone i m => c.finish i m ccDevGone 0
  | .powerOff i m b => c.finish i m ccSuccess (c.port (busPort b)).powerResult
  | .movePort t p owner pass keep _ => c.movePortDone t p owner pass keep
  | .moveSlot t sk owner => c.moveSlotDone t sk owner
  | .overcurrent poc ports owners => c.overcurrentDone poc ports owners
  | .ocClear poc owners => c.overcurrent poc owners 0 0
  | .genDone t n => c.mgrDone t ccSuccess (c.inst n).gen.toNat
  | .instReset n => c.resetFinish n
  | .none => c

/-- An instance with a command that may begin. -/
def Chip.nextStart (c : Chip) : Option (Nat × Cmd) :=
  c.insts.findSome? (fun x => (c.nextCmd x.1 [] x.2.cmds).map (fun m => (x.1, m)))

/-- Work that can go on now, oldest wait first, then commands that may begin (R98). -/
def Chip.pumpN : Nat → Chip → Chip
  | 0, c => c
  | f + 1, c =>
    match takeReady c [] c.waits with
    | some (w, ws) => Chip.pumpN f ({ c with waits := ws }.runCont w.cont)
    | none =>
      match c.nextStart with
      | some (n, m) => Chip.pumpN f (c.beginCmd n m)
      | none => c

/-- Everything that can go on does. -/
def Chip.pump (c : Chip) : Chip :=
  c.pumpN (1024 + 8 * c.waits.length + c.insts.foldl (fun n x => n + 8 * x.2.cmds.length) 0)

end Sys2Proof.Machine
end

