-- ==== Sys2Proof/Machine/Far.lean ====
section
/-! DEFINITION. Far devices (R148 to R150, R239, R357 to R359): what the frames ELEMENT, DATA_OUT, COMMAND and E2E_ACK do on the
home node, and DATA_IN, RESULT, REPLY and EVENT on the host node. -/

namespace Sys2Proof.Machine

/-! ### Names -/

/-- The endpoint that a frame names on the home node, and on the host node (R344). -/
def homeKey (h : FrameHdr) : Nat := epKey h.slot.val h.ep.val
def hostKey (h : FrameHdr) : Nat := epKey (256 * (h.src.toNat + 1) + h.slot.val) h.ep.val

/-- The instance of the frame's source node, as this node keeps it. -/
def farSender (h : FrameHdr) : Nat := farInst h.src.toNat h.inst.toNat

def Chip.isPer (c : Chip) (key : Nat) : Bool := (c.ep key).ty == .isoch || (c.ep key).ty == .interrupt

/-- The ring of an endpoint whose oldest TD has this TDID. -/
def Chip.tdRing (c : Chip) (key tdid : Nat) : Option Nat :=
  (c.ep key).rings.find? (fun k => ((c.ring (c.ringHome (keySlot key)) k).ids.head?).any (fun i => i.1 == tdid))

/-! ### The home node: elements and OUT data -/

/-- The frame belongs to an endpoint that the source node's instance has here, in its present EPOCH, or the one before a
change of route (R15, R150, R357). -/
def Chip.farFits (c : Chip) (h : FrameHdr) : Bool :=
  let s := c.slot h.slot.val
  let e := c.ep (homeKey h)
  s.far == some (h.src.toNat, h.inst.toNat) && !s.leaving && e.st != .disabled
    && (h.epoch == e.epoch || (e.rerouted && h.epoch + 1 == e.epoch))

/-- ELEMENT: a forwarded element is filed, and its endpoint runs (R94, R358). -/
def Chip.farElement (c : Chip) (h : FrameHdr) (raw : List Byte) : Chip :=
  let key := homeKey h
  let n := farSender h
  let e := c.ep key
  let k := if e.maxStreams = 0 then e.ring else Tbl.get 0 e.streams (leAt raw 18 2)
  let r := c.ring n k
  let id := h.tdid.toNat
  if !c.farFits h || !r.live || decide (c.ahead n k ≤ r.elems.length) then c
  else
    let x : Elem := { nativeElem (c.elemCtx n k) raw with entry := r.prod, at_ := c.us }
    let c := c.updRing n k (fun r => { r with
      elems := r.elems ++ [x], prod := (r.prod + 1) % r.size
      ids := if r.ids.getLast?.any (fun i => i.1 == id) then r.ids else r.ids ++ [(id, 0)] })
    let c := c.updEp key (fun e => { e with
      st := if e.st == .stopped && e.stop.isNone && c.mayRun key then .running else e.st, rerouted := e.rerouted && h.epoch != e.epoch })
    let b := c.slotBus (keySlot key)
    let c := if decide (b < 24) && (c.port b).st == pL1 && (c.ep key).st == .running then c.beginResume b causeHost else c
    c.stir key

/-- DATA_OUT: bytes of a TD reach the packet buffer (R13, R358). -/
def Chip.farDataOut (c : Chip) (h : FrameHdr) : Chip :=
  let key := homeKey h
  let n := farSender h
  let id := h.tdid.toNat
  if !c.farFits h then c
  else
    ((c.ep key).rings.foldl (fun c k =>
      c.updRing n k (fun r => { r with ids := r.ids.map (fun i => if i.1 = id then (i.1, i.2 + h.len) else i) })) c).stir key

/-- E2E_ACK: the oldest kept frame of the endpoint and its cells are free (R358). -/
def Chip.farAcked (c : Chip) (h : FrameHdr) : Chip :=
  let key := homeKey h
  (c.freeKept key).kick (c.slotBus (keySlot key))

/-! ### The home node: commands -/

/-- The instance of another node exists here from its first command on. -/
def Chip.farOpen (c : Chip) (n : Nat) : Chip := c.updInst n (fun x => { x with st := if x.st = .absent then .active else x.st })

/-- The answer to a COMMAND that is refused. -/
def Chip.farBadReply (c : Chip) (node tag reason : Nat) : Chip :=
  c.sendFrame node 0x05 (tag + 2 ^ 16 * ccParam.toNat + 2 ^ 24 * reason)

/-- The connector is one that the manager of another node may assign: unowned, or of an instance of that node (R252). -/
def Chip.farMay (c : Chip) (node p : Nat) : Bool :=
  !(c.port p).pass && match c.ownerOf p with
    | none => true
    | some n => decide (128 ≤ n) && instNode n == node

/-- ASSIGN_PORT for another node's manager (R252, R255). -/
def Chip.farAssignPort (c : Chip) (h : FrameHdr) (tag s : Nat) (pass un keep : Bool) : Chip :=
  let node := h.src.toNat
  match (if s / 256 = c.nodeNo then codeBus (s % 256) else none) with
  | none => c.farBadReply node tag 4
  | some b =>
    let p := busPort b
    let owner := if un then 127 else farSender h
    if c.assigned p owner pass then c.ticketDone (some (farTicket node tag)) ccSuccess 0
    else if !c.farMay node p then c.farBadReply node tag 8
    else (c.farOpen (farSender h)).assignPort (some (farTicket node tag)) p owner pass keep

/-- ASSIGN_DEVICE for another node's manager (R253, R255). -/
def Chip.farAssignDevice (c : Chip) (h : FrameHdr) (tag s : Nat) : Chip :=
  let node := h.src.toNat
  let sk := s % 256
  if s / 256 ≠ c.nodeNo then c.farBadReply node tag 4
  else
    match c.slotRefused sk (farSender h) with
    | some r => c.farBadReply node tag r
    | none =>
      if (c.slot sk).far.isNone || instNode (c.ringHome sk) != node then c.farBadReply node tag 8
      else (c.farOpen (farSender h)).assignSlot (some (farTicket node tag)) sk (farSender h)

/-- A mailbox request of a far instance (R282): its words, and the tag of the frame for the answer. -/
def Chip.farMbox (c : Chip) (n : Nat) (op tag : Nat) (p : BitVec 192) : Chip :=
  (c.updMbox n (fun m => { m with req := wordTbl [par p 0 32, par p 32 32, tag] })).mboxCmd n op

/-- The settings of a far instance on a bus (R177, R178): kept for the place that it will take, and, where it has one, in force from the
bus's next decision. A WEIGHT of 0 leaves the weight as it was. -/
def Chip.farSettings (c : Chip) (h : FrameHdr) (bus weight : Nat) (cir pir cbs pbs : BitVec 24) : Chip :=
  let n := farSender h
  ((busesNamed bus).getD []).foldl (fun c b =>
    let old := Tbl.get {} (c.inst n).farSet b
    let r : Rates := { weight := if weight = 0 then old.weight else BitVec.ofNat 10 weight, cir := cir, pir := pir, cbs := cbs, pbs := pbs }
    let c := c.updInst n (fun x => { x with farSet := Tbl.set {} x.farSet b r })
    match (List.range 128).find? (fun k => (c.queue (qKey b (128 + k))).far == some (farOf n)) with
    | some k => c.updQueue (qKey b (128 + k)) (fun q => { q with weight := r.weight, next := some r })
    | none => c) (c.farOpen n)

/-- FREEZE and THAW of an instance of another node (R119, R176). -/
def Chip.farFrozen (c : Chip) (n : Nat) (on : Bool) : Chip :=
  ((c.farOpen n).updInst n (fun x => { x with st := if on then .frozen else .active })).stirInst n

/-- The lost-host policy of another node switches off a connector here that its instance owns (R258). -/
def Chip.farPowerOff (c : Chip) (n s : Nat) : Chip :=
  match (if s / 256 = c.nodeNo then codeBus (s % 256) else none) with
  | some b => if c.ownerOf (busPort b) = some n ∧ (c.port (busPort b)).pass = false then c.policyOff (busPort b) else c
  | none => c

/-- A far instance is reset, or destroyed (R250, R248): what it holds here stops, its results dropped. -/
def Chip.farReset (c : Chip) (n : Nat) (destroy : Bool) : Chip :=
  let c := c.updInst n (fun x => { x with cmds := [], joinDestroy := x.joinDestroy || destroy })
  let c := { c with waits := c.waits.filter (fun w => !w.cont.ofInst n) }
  let sks := (c.heldBy n).filter (fun sk => (c.slot sk).driven)
  let c := sks.foldl (fun c sk =>
    if (c.ep (epKey sk 0)).setAddr.isSome then c.setAddrEnd (epKey sk 0) ccStopped else c) c
  let ks := sks.flatMap c.slotEps
  (ks.foldl (fun c k => c.stop k .drop) c).wait { keys := ks, posted := false, cont := .instReset n }

/-- COMMAND (R239, R357): executed here for an instance of another node; its outcome leaves in REPLY. -/
def Chip.farCommand (c : Chip) (h : FrameHdr) (k : FarCmd) (tag : BitVec 16) (p : BitVec 192) : Chip :=
  let n := farSender h
  let t := tag.toNat
  match k with
  | .inst kind => (c.farOpen n).pushCmd n tag kind p .waiting
  | .mbox op => (c.farOpen n).farMbox n op.toNat t p
  | .assignPort pass un keep => c.farAssignPort h t (par p 0 16) pass un keep
  | .assignDevice => c.farAssignDevice h t (par p 0 16)
  | .settings bus w cir pir cbs pbs => c.farSettings h bus.toNat w.toNat cir pir cbs pbs
  | .freeze on => c.farFrozen n on
  | .linkMode up => (c.updInst n (fun x => { x with farUp := up })).chargeAll
  | .powerOff => c.farPowerOff n (par p 0 16)
  | .cancel => c.dropTicket (farTicket h.src.toNat t)
  | .reset => c.farReset n false
  | .destroy => c.farReset n true

/-! ### The host node: IN data and outcomes -/

/-- The frame is of the instance's present GEN, and of the EPOCH that the home node last reported, or of a new one, which it
thereby reports (R15, R358). -/
def Chip.hostFits (c : Chip) (h : FrameHdr) : Bool :=
  let e := c.ep (hostKey h)
  let x := c.inst h.inst.toNat
  h.gen == x.gen && !x.deaf && e.st != .disabled && (c.slot (keySlot (hostKey h))).owner == h.inst
    && (h.epoch == e.epoch || h.epoch == e.epoch + 1)

/-- The home node's EPOCH is noted; with a new one, what a change of route had settled is past (R150). -/
def Chip.noteEpoch (c : Chip) (h : FrameHdr) : Chip :=
  c.updEp (hostKey h) (fun e => { e with epoch := h.epoch, rerouted := e.rerouted && h.epoch == e.epoch })

/-- The end-to-end acknowledgement, in the frame's class. -/
def Chip.e2eAck (c : Chip) (h : FrameHdr) : Chip :=
  c.sendFrame h.src.toNat 0x09 (h.tdid.toNat + 2 ^ 16 * homeKey h) (c.isPer (hostKey h))

/-- IN bytes of a far device are written to their buffers (R14, R359). -/
def Chip.hostTake (c : Chip) (key k len : Nat) : Chip :=
  let n := c.ringHome (keySlot key)
  let r := c.ring n k
  let d := r.dataAt ((c.ep key).ty == .control)
  let ps := cutAll (pieces d.2.1 d.1 d.2.2 len)
  let c := { c with out := (ps.map (fun (p : Addr × Nat) => Out.hostWrite n p.1 p.2)).reverse ++ c.out }
  (c.updRing n k (fun r =>
      { r with td := { r.td with begun := true, moved := d.2.2 + len, last := lastDword r.td.last ps } })).updEp key
          (fun e => { e with stream := r.stream })

/-- DATA_IN: the bytes that are new are taken; duplicates are discarded by TDID and offset (R358, R359). -/
def Chip.farDataIn (c : Chip) (h : FrameHdr) (off : Nat) : Chip :=
  let key := hostKey h
  let c :=
    if !c.hostFits h then c
    else
      let c := c.noteEpoch h
      match c.tdRing key h.tdid.toNat with
      | none => c
      | some k =>
        let r := c.ring (c.ringHome (keySlot key)) k
        let at_ := if (c.ep key).ty = .control then max 8 r.td.moved else r.td.moved
        if r.td.ended.isNone && decide (off ≤ at_) && decide (at_ < off + h.len) then c.hostTake key k (off + h.len - at_) else c
  c.e2eAck h

/-- The end that a RESULT reports: at the element it names (R66, R67, R173). -/
def Ring.farEnd (r : Ring) (ctrl : Bool) (code : Byte) (elem moved : Nat) : TdEnd :=
  let i := elem - r.td.nEaten
  let x := r.elems.getD i {}
  { code := code, tag := x.tag, entry := r.entryAt i
    stopShort := code == ccShort && !(if ctrl then (r.elems.getD 1 {}).shortOk else x.shortOk)
    fixed := if ctrl && code == ccStopped then
        (if x.ty = 0x03 then some (r.ctrlLen - (moved - 8)) else if x.ty = 0x04 then some 0 else none)
      else none }

/-- RESULT: the TD ends as the home node says (R357, R358). -/
def Chip.farResult (c : Chip) (h : FrameHdr) (code : Byte) (moved elem : Nat) (mf : Option (BitVec 16)) : Chip :=
  let key := hostKey h
  let c :=
    if !c.hostFits h then c
    else
      let c := c.noteEpoch h
      match c.tdRing key h.tdid.toNat with
      | none => c
      | some k =>
        let n := c.ringHome (keySlot key)
        let r := c.ring n k
        if r.td.ended.isSome then c
        else
          let c := c.updRing n k (fun r => { r with td := { r.td with begun := true, moved := moved, mf := mf } })
          let c := c.updEp key (fun e => { e with stream := r.stream })
          (c.endTd key (r.farEnd ((c.ep key).ty == .control) code elem moved)).stir key
  c.e2eAck h

/-! ### The host node: replies -/

/-- The copy of a slot's context that the host node keeps: those of ENABLE_SLOT (R101). An orphaned slot that it returns gives up its
earlier copies (R251). -/
def Chip.mirrorSlot (c : Chip) (n : Nat) (m : Cmd) (result : Nat) : Chip :=
  let sk := c.slotKey result
  (if (c.slot sk).st = .disabled then c else c.clearSlot sk true).updSlot sk (fun _ => {
    st := .enabled, owner := BitVec.ofNat 7 n, root := BitVec.ofNat 16 (par m.par 0 12), speed := BitVec.ofNat 4 (par m.par 16 4)
    route := BitVec.ofNat 20 (par m.par 32 20) })

/-- The copy of an endpoint's context, with the RESERVE and the phase of RESULT (R103, R131). -/
def Chip.mirrorEp (c : Chip) (key : Nat) (a : EpArgs) (result : Nat) : Chip :=
  (c.updEp key (fun e => {
    epoch := e.epoch, flights := e.flights, due := e.due, st := .stopped
    reserve := BitVec.ofNat 16 result, phase := result / 2 ^ 16, ty := a.ty
    maxPacket := a.mps, maxBurst := a.burst, mult := a.mult, interval := a.interval, maxStreams := a.streams })).updSlot (keySlot key) (fun s => { s with epMask := s.epMask ||| BitVec.ofNat 32 (2 ^ keyBit key) })

/-- What a successful command of a far object leaves in the host node's copies. -/
def Chip.mirror (c : Chip) (n : Nat) (m : Cmd) (result : Nat) : Chip :=
  let sk := c.slotKey (par m.par 0 12)
  let bit := (epBit (par m.par 16 8)).getD 0
  match m.kind with
  | .enableSlot => c.mirrorSlot n m result
  | .addressDevice =>
    let c := c.updEp (epKey sk 0) (fun e =>
      { e with st := if e.st = .disabled then .stopped else e.st, ty := .control, maxPacket := par m.par 16 11 })
    c.updSlot sk (fun s => { s.withTt m.par with st := if par m.par 32 2 = 1 then .default else .addressed })
  | .configureEp =>
    if m.par.getLsbD 26 then c.dropEp sk bit
    else if bit = 0 then c.updEp (epKey sk 0) (fun e => { e with maxPacket := par m.par 32 11 })
    else c.mirrorEp (epKey sk bit) (epArgs m.par) result
  | .resetEp => (c.updEp (epKey sk bit) (fun e => if e.st = .halted then e.reset c.us else e)).recall (epKey sk bit)
  | _ => c

/-- The command as it stands among those of its instance. -/
def Chip.findCmd (c : Chip) (n id : Nat) : Option Cmd := (c.inst n).cmds.find? (fun m => m.id == id)

/-- A command that ends on the host node's own copies and rings: stops are settled here (R359), rings are the host's. -/
def endsOnHost (k : CmdKind) : Bool :=
  k == .stopEp || k == .setDequeue || k == .disableSlot || k == .createRing || k == .destroyRing

/-- What a refused stop leaves: the endpoint was not stopped. -/
def Chip.unask (c : Chip) (n : Nat) (m : Cmd) : Chip :=
  match c.cmdSlot n m with
  | some sk => (c.slotEps sk).foldl (fun c k => c.updEp k (fun e => { e with asked := false })) c
  | none => c

/-- REPLY to an instance's command. -/
def Chip.cmdReply (c : Chip) (n : Nat) (m : Cmd) (code : Byte) (result : Nat) (data : List Byte) : Chip :=
  if m.kind = .getScorebook then
    let m' := { m with parts := m.parts ++ data, ask := m.ask.drop 1 }
    (c.updInst n (fun x => { x with cmds := updFirst (fun a => a.id == m.id) (fun _ => m') x.cmds })).dumpStep n m'
  else if code ≠ ccSuccess then (c.unask n m).finish n m.id code result
  else if endsOnHost m.kind then c.localCmd n m
  else (c.mirror n m result).finish n m.id code result

/-- REPLY (R282, R357): it ends the command, the mailbox request, or the manager's command that the frame's COMMAND was. -/
def Chip.farReply (c : Chip) (src tag : Nat) (code : Byte) (result : Nat) (data : List Byte) : Chip :=
  let key := tag + 65536 * src
  let ref := Tbl.get (0, 0) c.fab.proxies key
  let c := { c with fab := { c.fab with proxies := c.fab.proxies.filter (fun x => x.1 != key) } }
  if ref = (0, 0) then c
  else if ref.1 = 128 then c.mgrDone ref.2 code result
  else if 2 ^ 64 ≤ ref.2 then c.mboxReply ref.1 code data
  else
    match c.findCmd ref.1 ref.2 with
    | some m => if m.phase = .running then c.cmdReply ref.1 m code result data else c
    | none => c

/-! ### The host node: events -/

/-- The copy of a far port's view (R206): the status, OWNED and OC_ACTIVE; RESUME_CAUSE is kept where the event reports no
resume. -/
def viewAfter (old : BitVec 32) (change : BitVec 7) (status : BitVec 12) : BitVec 32 :=
  let cause := if bitAt change 4 then fld status 7 4 else fld old 7 4
  BitVec.ofNat 32 (fld status 3 0 + 2 ^ 4 * cause + 2 ^ 8 * fld status 11 8 + 2 ^ 12 + flagAt (bitAt old 13) 13)

def Chip.updView32 (c : Chip) (n s : Nat) (f : BitVec 32 → BitVec 32) : Chip :=
  c.updInst n (fun x => { x with portViews := Tbl.upd 0 x.portViews s f })

/-- A reset of a far port takes its slots to Default, with their endpoints Stopped (R111). -/
def Chip.farPortReset (c : Chip) (n s : Nat) : Chip :=
  let sks := (c.slots.filter (fun x => decide (256 ≤ x.1) && x.2.root.toNat == s && x.2.owner.toNat == n)).map (fun x => x.1)
  let c := sks.foldl (fun c sk => c.updSlot sk Slot.toDefault) c
  (sks.flatMap c.slotEps).foldl (fun c k =>
    (c.stop k .reset).tend k) c

/-- The contexts of a device that comes to an instance of this node (R253). -/
def Chip.mirrorDevice (c : Chip) (n sk : Nat) (subject : BitVec 16) (speed : BitVec 4) (cls : Byte) (vid pid : BitVec 16)
    (eps : List FarEp) : Chip :=
  let c := if (c.slot sk).st = .disabled then c else c.clearSlot sk false
  let c := c.updSlot sk (fun _ => {
    st := .addressed, owner := BitVec.ofNat 7 n, root := subject, speed := speed, managed := true, cls := cls, vid := vid, pid := pid })
  eps.foldl (fun c e => (c.mirrorEp (epKey sk e.bit.val)
    { ty := epTyOf e.ty.toNat, mps := e.mps, burst := e.burst, mult := e.mult, streams := e.streams } 0).updEp
      (epKey sk e.bit.val) (fun x => { x with epoch := e.epoch })) c

/-- EVENT (R72, R206, R357): the home node's event reaches the instance, and the copies follow. -/
def Chip.farEvent (c : Chip) (n : Nat) (e : FarEvent) : Chip :=
  match e with
  | .portChange s change status =>
    let c := c.updView32 n s.toNat (fun v => viewAfter v change status)
    let c := if bitAt change 2 then c.farPortReset n s.toNat else c
    if change = 0 then c else c.event n evPortChange s (change.zeroExtend 32) (status.zeroExtend 32)
  | .detach slot reason =>
    let sk := c.slotKey slot.toNat
    if !(farKey sk && (c.slot sk).owner.toNat == n && (c.slot sk).st != .disabled) then c
    else if reason = 1 ∨ reason = 5 then
      ((c.updSlot sk (fun s => { s with leaving := true })).stopAllEps sk .reset).wait
          { keys := c.slotEps sk, cont := .detach sk reason.toNat }
    else c.loseSlot sk reason.toNat ccDevGone
  | .attach slot s speed cls vid pid eps =>
    let sk := c.slotKey slot.toNat
    if !farKey sk then c
    else (c.mirrorDevice n sk s speed cls vid pid eps).attachTo n sk
  | .overcurrent s d1 d2 =>
    let mine (v : Nat × BitVec 32) : Bool := v.1 / 256 == s.toNat / 256 && bitAt v.2 12
      && (if bitAt d1 0 then bitAt d2 (v.1 % 32) && decide (v.1 % 256 < 24) else bitAt v.2 13)
    let c := c.updInst n (fun x => { x with portViews := Tbl.mapv 0 x.portViews (fun k v =>
      if mine (k, v) then (if bitAt d1 0 then v ||| 0x2000 else v &&& ~~~(0x2000 : BitVec 32)) else v) })
    c.event n evOvercurrent s d1 d2
  | .released s => c.updView32 n s.toNat (fun _ => 0)
  | .enumFail s route reason attempts => c.keepEnumFail n { root := s, route := route, reason := reason, attempts := attempts }

/-! ### Endpoints whose opportunity comes nearer -/

/-- At each tick, isochronous elements that now lie within 16 micro-frames are forwarded (R149). -/
def Chip.farIso (c : Chip) : Chip :=
  (c.eps.filter (fun e => decide (8192 ≤ e.1) && e.2.ty == .isoch && e.2.st == .running)).foldl (fun c e => c.tend e.1) c

end Sys2Proof.Machine
end

