-- ==== Sys2Proof/Machine/Fabric.lean ====
section
/-! DEFINITION. The Fysar link fabric (R342 to R369): ports and frames, election and numbering, routes, losses of links and
nodes, time and sleep. -/

namespace Sys2Proof.Machine

/-! ### Ports -/

def fsDown : Nat := 0
def fsTraining : Nat := 1
def fsUp : Nat := 2
def fsMember : Nat := 3
def fsExcluded : Nat := 4
def fsAsleep : Nat := 5

/-- The node takes part in a fabric (R353). -/
def Chip.fabOn (c : Chip) : Bool := c.fab.en && c.boot.fwRunning
def Chip.fabPortOn (c : Chip) (p : Nat) : Bool := c.fabOn && (if p = 0 then c.fab.faEn else c.fab.fbEn)

/-- The Whistle source of a fabric port's event (R341). -/
def fabSource (p k : Nat) : Nat := 392 + 8 * p + k

/-- FABRIC to the manager (R72). -/
def Chip.fabricEvent (c : Chip) (node kind : Nat) : Chip := c.mgrEvent evFabric noSubject (toWord (node + 2 ^ 4 * kind)) 0
/-- FABRIC to instances, PF0 apart where it is the manager and has it already. -/
def Chip.fabricTell (c : Chip) (ns : List Nat) (node kind : Nat) : Chip :=
  (ns.filter (fun n => !(n == 0 && c.straps.mgrSel != 1))).foldl
    (fun (c : Chip) n => c.event n evFabric noSubject (toWord (node + 2 ^ 4 * kind)) 0) c

/-- What a link-control frame carries (R345): credits are returned with it. -/
def crPack (t : Nat × Nat × Nat) : Nat := t.1 + 2 ^ 8 * t.2.1 + 2 ^ 16 * t.2.2
def Chip.linkInfo (c : Chip) : Nat :=
  Config.uid.toNat + 2 ^ 64 * (if c.fab.valid then c.fab.captainUid.toNat else 0) + 2 ^ 128 * c.fab.topo.toNat

/-- Receive credits of a port's class that SPIN_FAB withholds (R420). -/
def Chip.fabHeld (c : Chip) (p tc : Nat) : Nat :=
  match c.spin.fabHold with
  | some (q, k, n) => if q = p ∧ k = tc then n else 0
  | none => 0

/-- A frame of a class has been taken: its credit is owed to the peer, or withheld while its contents find no cells (R347). -/
def Chip.oweCredit (c : Chip) (p tc : Nat) : Chip :=
  if decide (crGet (c.fabPort p).withheld tc < c.fabHeld p tc) || decide (Config.poolCells ≤ c.poolUse) then
    c.updFab p (fun q => { q with withheld := crSet q.withheld tc (crGet q.withheld tc + 1) })
  else c.updFab p (fun q => { q with owed := crSet q.owed tc (crGet q.owed tc + 1) })

/-- Withheld credits that can now be returned. -/
def Chip.freeCredits (c : Chip) (p : Nat) : Chip :=
  if Config.poolCells ≤ c.poolUse then c
  else
    (List.range 3).foldl (fun (c : Chip) tc =>
      let keep := c.fabHeld p tc
      c.updFab p (fun q => { q with
        owed := crSet q.owed tc (crGet q.owed tc + (crGet q.withheld tc - keep))
        withheld := crSet q.withheld tc (min (crGet q.withheld tc) keep) })) c

/-- A link-control frame of a kind leaves, with the credits owed. -/
def Chip.linkSend (c : Chip) (p kind val : Nat) : Chip :=
  let c := c.freeCredits p
  (c.emit (.linkFrame p kind (val + 2 ^ 144 * crPack (c.fabPort p).owed))).updFab p (fun q => { q with owed := (0, 0, 0) })

/-- FAB_SIGNAL_DETECT, and the restart after a training timeout (R343). -/
def Chip.fabSignal (c : Chip) (p : Nat) : Chip :=
  if (c.fabPort p).st = fsDown ∧ c.fabPortOn p = true then c.updFab p (fun q => { q with st := fsTraining }) else c

/-- Lanes of a port that checks have dropped (R407). -/
def Chip.fabLanesDown (c : Chip) (p : Nat) : Nat :=
  ((List.range 2).filter (fun k => bitAt c.rel.laneDown (16 + 2 * p + k))).length

/-- FAB_LOCK_HELD (R343, R346, R347): a link begins anew. -/
def Chip.fabLock (c : Chip) (p lanes : Nat) : Chip :=
  let lanes := min lanes (2 - c.fabLanesDown p)
  if (c.fabPort p).st = fsTraining ∧ 1 ≤ lanes then
    let c := c.updFab p (fun q => { q with
      st := fsUp, lanes := lanes, peer := none, peerUid := 0, peerCaptain := 0, txSeq := 0, rxSeq := 0, unacked := 0, tries := 0
      nakSent := false, credits := (16, 44, 4), owed := (0, 0, 0), withheld := (0, 0, 0), queue := [] })
    (c.linkSend p 0 c.linkInfo).pend (fabSource p 0)
  else c

/-- FAB_TRAINING_TIMEOUT (R343). -/
def Chip.fabTimeout (c : Chip) (p : Nat) : Chip :=
  if (c.fabPort p).st = fsTraining then c.updFab p (fun q => { q with st := fsDown, lanes := 0 }) else c

/-! ### The election (R350, R351, R365) -/

/-- A PROTOCOL message to the neighbours on the ports of a list (R350). Its value: the message's number, and its contents. -/
def Chip.protoTo (c : Chip) (ps : List Nat) (msg val : Nat) : Chip :=
  ps.foldl (fun (c : Chip) p =>
    if (c.fabPort p).st = fsUp ∨ (c.fabPort p).st = fsMember then c.sendFab p (2, 0, 8, msg + 2 ^ 8 * val) else c) c

def bothPorts : List Nat := [0, 1]

/-- This node's neighbour list. -/
def Chip.ownInfo (c : Chip) : NodeInfo :=
  let uid (p : Nat) : BitVec 64 := if (c.fabPort p).st = fsUp ∨ (c.fabPort p).st = fsMember then (c.fabPort p).peerUid else 0
  { node := if c.fab.valid then some c.fab.node else none
    pref := if c.fab.prefEn then some c.fab.pref else none
    fa := uid 0, fb := uid 1 }

def Chip.nodeInfo (c : Chip) (uid : BitVec 64) : NodeInfo := Tbl.get {} c.fab.graph uid.toNat
def Chip.setInfo (c : Chip) (uid : BitVec 64) (x : NodeInfo) : Chip :=
  { c with fab := { c.fab with graph := Tbl.set {} c.fab.graph uid.toNat x } }

/-- The neighbour list has changed: the neighbours are told. -/
def Chip.tellList (c : Chip) : Chip := (c.setInfo Config.uid c.ownInfo).protoTo bothPorts 2 Config.uid.toNat

/-- A candidate report (R350 step 1). -/
def Chip.tellCandidate (c : Chip) : Chip := c.protoTo bothPorts 1 (c.fab.candidate.toNat + 2 ^ 64 * c.fab.round)

/-- A new election round begins with this node's own UID (R365). -/
def Chip.newRound (c : Chip) (round : Nat) : Chip :=
  ({ c with fab := { c.fab with round := round, candidate := Config.uid, captainUid := 0, forming := true } } : Chip).tellCandidate

/-- A neighbour's candidate report (R350, R365): a member of a running fabric takes part only in a later round. -/
def Chip.candidateSeen (c : Chip) (uid : BitVec 64) (round : Nat) : Chip :=
  if !c.fabOn || decide (round < c.fab.round) then c
  else
    let c := if c.fab.round < round then c.newRound round else c
    if (c.fab.valid && !c.fab.forming) || decide (c.fab.candidate.toNat ≤ uid.toNat) then c
    else ({ c with fab := { c.fab with candidate := uid, forming := true } } : Chip).tellCandidate

/-- The UIDs met on the way out: from `cur`, entered from `prev`. -/
def Chip.walk (c : Chip) (prev cur : BitVec 64) : Nat → List (BitVec 64)
  | 0 => []
  | f + 1 =>
    if cur = 0 ∨ cur = Config.uid then []
    else
      let x := c.nodeInfo cur
      cur :: c.walk cur (if x.fa = prev then x.fb else x.fa) f

/-- The nodes through FA and through FB, nearest first. -/
def Chip.outward (c : Chip) (p : Nat) : List (BitVec 64) :=
  c.walk Config.uid (if p = 0 then c.ownInfo.fa else c.ownInfo.fb) 15

/-- Position in a list, counted from 1. -/
def hopsIn (u : BitVec 64) (l : List (BitVec 64)) : Option Nat :=
  (leastFree (fun k => l.getD k 0 == u) 0 l.length).map (· + 1)

/-- The route to a node (R352): the fewest hops, FA on a tie; the other direction is the alternate. -/
def Chip.routeTo (c : Chip) (u : BitVec 64) : BitVec 2 × BitVec 4 × BitVec 2 × BitVec 4 :=
  let n (k : Nat) : BitVec 4 := BitVec.ofNat 4 k
  match hopsIn u (c.outward 0), hopsIn u (c.outward 1) with
  | some a, some b => if a ≤ b then (1, n a, 2, n b) else (2, n b, 1, n a)
  | some a, none => (1, n a, 0, 0)
  | none, some b => (2, n b, 0, 0)
  | none, none => (0, 0, 0, 0)

/-- Ascending UID. -/
def insUid (u : BitVec 64) : List (BitVec 64) → List (BitVec 64)
  | [] => [u]
  | v :: t => if u.toNat < v.toNat then u :: v :: t else if u = v then v :: t else v :: insUid u t

/-- The number of a node that has none in this fabric (R351, R366): the one it held before, where free; its preference, where
free; the lowest free. -/
def newNumber (taken : List (BitVec 4 × BitVec 64)) (x : NodeInfo) : Option (BitVec 4) :=
  let free (k : BitVec 4) : Bool := taken.all (fun m => m.1 != k)
  match (x.node.filter free).or (x.pref.filter (fun k => free k && k != 0)) with
  | some k => some k
  | none => (leastFree (fun k => free (BitVec.ofNat 4 k)) 0 16).map (BitVec.ofNat 4)

/-- The captain numbers the nodes it reaches and computes the routes (R350 to R352); the distribution is installed at its
tick. A node that no number is left for is told so. -/
def Chip.plan (c : Chip) : Chip :=
  let c := c.setInfo Config.uid c.ownInfo
  let reach := (c.outward 0 ++ c.outward 1).foldr insUid []
  let self : BitVec 4 := if c.fab.valid then c.fab.node else 0
  let kept := (self, Config.uid) :: c.fab.members.filter (fun m => m.2 != Config.uid && reach.contains m.2)
  let new := reach.filter (fun u => kept.all (fun m => m.2 != u))
  let all := new.foldl (fun (l : List (BitVec 4 × BitVec 64)) u =>
    match newNumber l (c.nodeInfo u) with
    | some k => l ++ [(k, u)]
    | none => l) kept
  let routes := (all.filter (fun m => m.2 != Config.uid)).map (fun m => (m.1, c.routeTo m.2))
  let c := { c with fab := { c.fab with
    forming := true, install := some (.install self self Config.uid all routes (c.fab.topo + 1) (c.mf + 2)) } }
  let c := c.protoTo bothPorts 3 (c.fab.topo.toNat + 1)
  if all.length < kept.length + new.length then c.protoTo bothPorts 7 0 else c

/-- CAPTAIN_DECLARE (R350 step 2): the candidate is the node's own UID. -/
def Chip.declare (c : Chip) : Chip :=
  if c.fabOn && c.fab.forming && c.fab.candidate == Config.uid && c.fab.role != 2 && c.fab.install.isNone then
    ({ c with fab := { c.fab with role := 2, captainUid := Config.uid } } : Chip).plan
  else c

/-! ### Links that come up -/

/-- Both ends of a link are members of one fabric (R343); otherwise the neighbour lists and candidates travel (R350). A node
that meets a running fabric waits for its captain. -/
def Chip.linkMeet (c : Chip) (p : Nat) : Chip :=
  let q := c.fabPort p
  if !c.fabOn || q.st != fsUp then c
  else if c.fab.role = 3 then c.updFab p (fun q => { q with st := fsExcluded })
  else if c.fab.valid && q.peer.isSome && q.peerCaptain == c.fab.captainUid && c.fab.members.any (fun m => m.2 == q.peerUid) then
    c.updFab p (fun q => { q with st := fsMember })
  else
    let c := c.tellList
    if !c.fab.valid && q.peerCaptain != 0 then c
    else if !c.fab.valid then ({ c with fab := { c.fab with forming := true } } : Chip).tellCandidate
    else if c.fab.role = 2 then c.plan
    else c

/-- LINK_INIT and HELLO (R345): credits, and what the peer says of itself. -/
def Chip.peerSeen (c : Chip) (p : Nat) (h : LinkHdr) : Chip :=
  let q := c.fabPort p
  let same := q.peerUid == h.uid && q.peer == h.node && q.peerCaptain == h.captain
  let c := c.updFab p (fun q => { q with peer := h.node, peerUid := h.uid, peerCaptain := h.captain })
  if same && q.st != fsUp then c else if same && c.fab.forming then c else c.linkMeet p

/-- A link-control frame is received (R345): a bad one is dropped. -/
def Chip.recvLink (c : Chip) (p : Nat) (h : LinkHdr) (act : Chip → Chip) : Chip :=
  let q := c.fabPort p
  if q.st < fsUp ∨ fsExcluded < q.st then c
  else if !h.good then c.updFab p (fun q => { q with crc := q.crc + 1 })
  else (act (c.updFab p (fun q => { q with credits := crAdd q.credits h.credits }))).drainFab p 64

def Chip.linkHello (c : Chip) (p : Nat) (h : LinkHdr) : Chip := c.recvLink p h (fun c => c.peerSeen p h)

/-- HELLO_TX_TIMER. -/
def Chip.helloTx (c : Chip) (p : Nat) : Chip :=
  let st := (c.fabPort p).st
  if st < fsUp ∨ fsExcluded < st then c else c.linkSend p 1 c.linkInfo

/-! ### Losses: routes, nodes, captain -/

/-- Endpoints of far devices on a node, and endpoints of this node that instances of that node hold. -/
def Chip.epsOn (c : Chip) (node : Nat) : List Nat :=
  (c.eps.filter (fun e => e.2.st != .disabled && (e.1 / 8192 == node + 1
    || (decide (e.1 < 8192) && ((c.slot (e.1 / 32)).far.any (fun f => f.1 == node)))))).map (fun e => e.1)

/-- The route to a node has changed (R150, R359): the home node settles the TDs in progress and bumps EPOCH; the host node
marks their outcomes LATE until a result brings the new EPOCH. Stopped and Halted endpoints, and those that are being stopped, are
bumped too (R96, R256). -/
def Chip.rerouteNode (c : Chip) (node : Nat) : Chip :=
  (c.epsOn node).foldl (fun (c : Chip) k =>
    if 8192 ≤ k then
      c.updEp k (fun e => { e with rerouted := (c.ep k).rings.any (fun r => !(c.ring (c.ringHome (keySlot k)) r).ids.isEmpty) })
    else if (c.ep k).stop.isSome then (c.updEp k (fun e => { e with due := e.due + 1 })).stir k
    else (c.stop k .reroute).stir k) c

/-- Far endpoints are admitted again, in order of admission: on their fabric ports, each direction by itself, and on their bus (R132,
R148, R367). -/
def Chip.fabRefit (c : Chip) : Chip :=
  let ps := (c.peps.filter (fun e => e.2.used && decide (0 < e.2.fabric) && !e.2.dropping)).foldr insByOrder []
  (ps.foldl (fun (a : Chip × List Pep) e =>
    let c := a.1
    let node := ((c.slot (keySlot e.2.key)).far.map (fun f => f.1)).getD 0
    let q : Pep := { e.2 with fabPort := c.portTo node }
    let mates (s : Nat) : Nat := (a.2.filter (fun x =>
      x.fabPort == q.fabPort && keyIn x.key == keyIn q.key && decide (0 < x.slotCount s))).foldl (fun n x => n + x.fabric) q.fabric
    let full := (List.range 256).any (fun s => decide (0 < q.slotCount s) && decide (c.fabLimit q.fabPort < mates s))
    if q.fabPort = 0 then a
    else if decide (8 < c.hopsTo node) || full || (c.refit ((c.busPeps q.bus).filter (fun x => x.key != q.key)) q).isNone then
      (c.unfit q.bus e.1 q.key, a.2)
    else ({ c with peps := Tbl.set {} c.peps e.1 q }, a.2 ++ [q])) (c, [])).1

/-- A far command that waited for a lost node (R363). -/
def Chip.failProxy (c : Chip) (ref : CmdRef) : Chip :=
  if ref.1 = 128 then c.mgrDone ref.2 ccDevGone 0
  else if 2 ^ 64 ≤ ref.2 then (if (c.inst ref.1).mbox.busy then c.mboxDone ref.1 ccDevGone none else c)
  else c.finish ref.1 ref.2 ccDevGone 0

/-- What instances of a lost host node held here (R364). -/
def Chip.hostLost (c : Chip) (node : Nat) : Chip :=
  let mine (n : Nat) : Bool := decide (128 ≤ n) && instNode n == node
  let ns := (c.insts.filter (fun x => mine x.1)).map (fun x => x.1)
  let c := { c with waits := c.waits.filter (fun w => !ns.any (fun n => w.cont.ofInst n)) }
  let c := ((List.range 24).filter (fun p => (c.port p).farOwner.any (fun f => f.1 == node))).foldl (fun (c : Chip) p =>
    (c.forgetPort p).updPort p (fun q => { q with farOwner := none })) c
  let sks := (c.slots.filter (fun s => decide (s.1 < 256) && s.2.st != .disabled && s.2.far.any (fun f => f.1 == node))).map (fun s => s.1)
  let c := sks.foldl (fun (c : Chip) sk =>
    let ks := c.slotEps sk
    (ks.foldl (fun (c : Chip) k => (c.stop k .quit).tend k) c).wait { keys := ks, cont := .disableSlot (c.ringHome sk) 0 sk }) c
  { c with insts := c.insts.map (fun x => if mine x.1 then (x.1, { x.2 with cmds := [], st := .absent, farSet := [] }) else x) }

/-- Far devices of this node's instances on a lost node (R363). -/
def Chip.homeLost (c : Chip) (node : Nat) : Chip :=
  let sks := (c.slots.filter (fun s => s.1 / 256 == node + 1 && s.2.st != .disabled)).map (fun s => s.1)
  let owners := dedup (sks.map (fun sk => (c.slot sk).owner.toNat))
  let c := sks.foldl (fun (c : Chip) sk =>
    let ks := c.slotEps sk
    let c := c.loseSlot sk 2 ccFabricLost
    ks.foldl (fun (c : Chip) k => c.updEp k (fun e => if e.st = .running then { e with st := .halted } else e)) c) c
  let c := (c.fab.proxies.filter (fun x => x.1 / 65536 == node)).foldl (fun (c : Chip) x => c.failProxy x.2) c
  let c := { c with
    fab := { c.fab with proxies := c.fab.proxies.filter (fun x => x.1 / 65536 != node) }
    insts := Tbl.mapv {} c.insts (fun _ x => { x with
      portViews := x.portViews.filter (fun v => v.1 / 256 != node), told := x.told.filter (· != node) }) }
  (c.fabricEvent node 1).fabricTell owners node 1

/-- A node is lost and its number freed (R363, R364). -/
def Chip.nodeLost (c : Chip) (node : Nat) : Chip :=
  let gone := c.fab.members.filter (fun m => m.1.toNat == node)
  if gone.isEmpty then c
  else
    let c := { c with fab := { c.fab with
      members := c.fab.members.filter (fun m => m.1.toNat != node)
      graph := gone.foldl (fun (g : Tbl NodeInfo) (m : BitVec 4 × BitVec 64) => Tbl.set {} g m.2.toNat {}) c.fab.graph
      routes := Tbl.set {} c.fab.routes node {}, asked := c.fab.asked.filter (fun k => k.toNat != node) } }
    ((c.hostLost node).homeLost node)

/-- FAB_STS after the members have changed. -/
def Chip.memberCount (c : Chip) : Chip :=
  let n := max 1 c.fab.members.length
  { c with fab := { c.fab with
    count := n
    role := if c.fab.role = 3 then 3 else if !c.fab.valid then c.fab.role else if n = 1 then 0
      else if c.fab.captainUid = Config.uid then 2 else 1 } }

/-- Routes fail (R362 to R365): nodes are lost, others are reached by their alternate path; without its captain the part
elects one; a captain distributes new routes. -/
def Chip.pathsLost (c : Chip) (lost moved : List Nat) : Chip :=
  let captain := c.fab.captain.toNat
  let led := c.fab.valid && c.fab.captainUid != 0 && c.fab.captainUid != Config.uid && lost.contains captain
  let c := moved.foldl (fun (c : Chip) k => { c with fab := { c.fab with routes := Tbl.upd {} c.fab.routes k (fun r =>
    { r with port := r.altPort, hops := r.altHops, altPort := 0, altHops := 0 }) } }) c
  let c := (lost.foldl (fun (c : Chip) k => c.nodeLost k) c).memberCount
  let c := if c.fab.valid then c.fabricEvent c.nodeNo 2 else c
  let c := (moved.foldl (fun (c : Chip) k => c.rerouteNode k) c).fabRefit
  if led then c.newRound (c.fab.round + 1)
  else if c.fab.role = 2 then c.plan
  else c

/-- A link is lost (R343, R347, R362). -/
def Chip.linkLoss (c : Chip) (p : Nat) (src : Option Nat) : Chip :=
  let q := c.fabPort p
  if q.st = fsDown ∨ q.st = fsAsleep then c
  else
    let c := c.updFab p (fun q => { q with
      st := fsDown, lanes := 0, peer := none, peerUid := 0, peerCaptain := 0
      downs := q.downs + 1, unacked := 0, tries := 0, nakSent := false
      owed := (0, 0, 0), withheld := (0, 0, 0), queue := [], credits := (16, 44, 4) })
    let c := match src with
      | some k => c.pend (fabSource p k)
      | none => c
    let c := c.setInfo Config.uid c.ownInfo
    let via := c.fab.routes.filter (fun r => r.2.member && r.2.port.toNat == p + 1)
    let moved := (via.filter (fun r => r.2.altPort != 0)).map (fun r => r.1)
    let lost := (via.filter (fun r => r.2.altPort == 0)).map (fun r => r.1)
    let c := { c with fab := { c.fab with routes := Tbl.mapv {} c.fab.routes (fun _ r =>
      if r.altPort.toNat = p + 1 then { r with altPort := 0, altHops := 0 } else r) } }
    let c := (c.protoTo [1 - p] 4 0).tellList
    c.pathsLost lost moved

/-- FAB_SIGNAL_LOSS and HELLO_LOSS_TIMEOUT (R362). -/
def Chip.fabSignalGone (c : Chip) (p : Nat) : Chip := c.linkLoss p (some 1)
def Chip.helloLost (c : Chip) (p : Nat) : Chip :=
  if (c.fabPort p).st < fsUp then c else c.linkLoss p (some 6)

/-! ### Sequence numbers and replay (R346) -/

/-- A cumulative acknowledgement: every frame up to this SEQ. -/
def Chip.acked (c : Chip) (p : Nat) (seq : BitVec 12) : Chip :=
  let q := c.fabPort p
  let n := (seq + 1 - (q.txSeq - BitVec.ofNat 12 q.unacked)).toNat
  if n = 0 ∨ q.unacked < n then c
  else (c.updFab p (fun q => { q with unacked := q.unacked - n, tries := 0 })).drainFab p 64

/-- A replay from the oldest unacknowledged frame; the eighth without an advance exhausts the retry. -/
def Chip.replayFab (c : Chip) (p : Nat) : Chip :=
  let q := c.fabPort p
  if q.unacked = 0 ∨ q.st < fsUp ∨ fsExcluded < q.st then c
  else if 8 ≤ q.tries then c.linkLoss p (some 3)
  else (c.updFab p (fun q => { q with replays := q.replays + 1, tries := q.tries + 1 })).emit
      (.replay p (q.txSeq - BitVec.ofNat 12 q.unacked))

/-- ACK and NAK frames: NAK carries the SEQ expected. -/
def Chip.linkAck (c : Chip) (p : Nat) (seq : BitVec 12) (h : LinkHdr) : Chip := c.recvLink p h (fun c => c.acked p seq)
def Chip.linkNak (c : Chip) (p : Nat) (seq : BitVec 12) (h : LinkHdr) : Chip :=
  c.recvLink p h (fun c => (c.acked p (seq - 1)).replayFab p)

/-- ACK_TX_TIMER (R345). -/
def Chip.ackTx (c : Chip) (p : Nat) : Chip :=
  let q := c.fabPort p
  if q.st < fsUp ∨ fsExcluded < q.st then c else c.linkSend p 2 (q.rxSeq - 1).toNat

/-- The first frame that fails asks for a replay (R346). -/
def Chip.nakOnce (c : Chip) (p : Nat) : Chip :=
  if (c.fabPort p).nakSent then c
  else (c.updFab p (fun q => { q with nakSent := true })).linkSend p 3 (c.fabPort p).rxSeq.toNat

/-- A routed frame arrives (R344 to R347, R352): checked, acknowledged, its credit returned; forwarded where it is another
node's, else acted on. `val` is what a forwarded frame carries on. -/
def Chip.recv (c : Chip) (p : Nat) (h : FrameHdr) (kind val : Nat) (act : Chip → Chip) : Chip :=
  let q := c.fabPort p
  let near := kind == 8
  if !(q.st == fsMember || (near && q.st == fsUp)) then c
  else if !h.good || h.tc == 3 || decide (2048 < h.len) then (c.updFab p (fun q => { q with crc := q.crc + 1 })).nakOnce p
  else if h.seq ≠ q.rxSeq then c.nakOnce p
  else
    let c := c.updFab p (fun q => { q with rxSeq := q.rxSeq + 1, nakSent := false })
    let c := match h.ack with
      | some a => c.acked p a
      | none => c
    let c :=
      if !near && h.dst.toNat != c.nodeNo then
        let out := c.portTo h.dst.toNat
        if out = 1 ∨ out = 2 then c.sendFab (out - 1) (h.tc.toNat, h.dst.toNat, kind, val) else c.dropFrame
      else act c
    c.oweCredit p h.tc.toNat

/-! ### Installation (R350 step 4, R365, R366) -/

/-- A node's new routes. -/
def routeTbl (self : BitVec 4) (members : List (BitVec 4 × BitVec 64))
    (routes : List (BitVec 4 × BitVec 2 × BitVec 4 × BitVec 2 × BitVec 4)) : Tbl Route :=
  members.foldl (fun (t : Tbl Route) m =>
    let tag := BitVec.ofNat 16 m.2.toNat
    if m.1 = self then Tbl.set {} t m.1.toNat { port := 3, member := true, uidTag := tag }
    else
      match routes.find? (fun r => r.1 == m.1) with
      | some (_, port, hops, alt, altHops) =>
        Tbl.set {} t m.1.toNat { port := port, hops := hops, altPort := alt, altHops := altHops, member := true, uidTag := tag }
      | none => Tbl.set {} t m.1.toNat { member := true, uidTag := tag }) []

/-- This node's number has changed: the SUBJECTs of its own slots name it (R73, R89). -/
def Chip.renumber (c : Chip) : Chip :=
  { c with slots := Tbl.mapv {} c.slots (fun k s =>
      if k < 256 ∧ s.st ≠ .disabled then { s with root := BitVec.ofNat 16 (fld s.root 7 0 + 2 ^ 8 * c.nodeNo) } else s) }

/-- Ports whose peer is a member pass routed frames (R343). -/
def Chip.fabMembers (c : Chip) : Chip :=
  bothPorts.foldl (fun (c : Chip) p =>
    match c.fab.members.find? (fun m => m.2 == (c.fabPort p).peerUid && m.2 != 0) with
    | some m => c.updFab p (fun q => { q with peer := some m.1, st := if q.st = fsUp then fsMember else q.st })
    | none => c) c

/-- The installation itself. -/
def Chip.installTopo (c : Chip) (node captain : BitVec 4) (captainUid : BitVec 64) (members : List (BitVec 4 × BitVec 64))
    (routes : List (BitVec 4 × BitVec 2 × BitVec 4 × BitVec 2 × BitVec 4)) (topo : BitVec 16) : Chip :=
  let old := c.fab
  let self := Config.uid
  let lost := (old.members.filter (fun m => m.2 != self && !members.contains m)).map (fun m => m.1.toNat)
  let joined := (members.filter (fun m => m.2 != self && !old.members.contains m)).map (fun m => m.1.toNat)
  let joins := captainUid != self && (!old.valid || (old.captainUid != 0 && old.captainUid != captainUid))
  let elected := old.valid && old.captainUid == 0
  let c := lost.foldl (fun (c : Chip) k => c.nodeLost k) c
  let new := routeTbl node members routes
  let moved := (members.filter (fun m => old.members.contains m && m.2 != self
      && (Tbl.get {} old.routes m.1.toNat).port != (Tbl.get {} new m.1.toNat).port)).map (fun m => m.1.toNat)
  let c := { c with fab := { c.fab with
    node := node, valid := true, captain := captain, captainUid := captainUid, members := members, routes := new, topo := topo
    forming := false, install := none, locked := if joins then false else c.fab.locked, role := 1 } }
  let c := (c.memberCount.renumber).fabMembers
  let c := joined.foldl (fun (c : Chip) k => c.fabricEvent k 0) c
  let c := if joins then
      c.fabricTell ((c.insts.filter (fun x => decide (x.1 < 128) && x.2.st != .absent)).map (fun x => x.1)) node.toNat 0
    else c
  let c := if elected then c.fabricEvent captain.toNat 3 else c
  let c := if old.valid && !moved.isEmpty then c.fabricEvent node.toNat 2 else c
  ((moved.foldl (fun (c : Chip) k => c.rerouteNode k) c).fabRefit).tellList

/-- TOPO_INSTALL: at the tick that the distribution names. -/
def Chip.topoInstall (c : Chip) : Chip :=
  match c.fab.install with
  | some (.install node captain uid members routes topo _) => c.installTopo node captain uid members routes topo
  | _ => c

/-! ### PROTOCOL messages -/

/-- This node cannot be numbered (R343, R351). -/
def Chip.excluded (c : Chip) : Chip :=
  if c.fab.valid then c
  else
    let c := { c with fab := { c.fab with role := 3, forming := false } }
    bothPorts.foldl (fun (c : Chip) p => c.updFab p (fun q => { q with st := if q.st = fsUp then fsExcluded else q.st })) c

/-- Fabric sleep is granted to this node (R369). -/
def Chip.granted (c : Chip) : Chip := { c with fab := { c.fab with sleepGrant := true, asked := [], asking := false } }

/-- The captain notes who has asked, and grants when every member has (R369). -/
def Chip.sleepAsked (c : Chip) (node : BitVec 4) : Chip :=
  if c.fab.role ≠ 2 then c
  else
    let asked := if c.fab.asked.contains node then c.fab.asked else c.fab.asked ++ [node]
    let c := { c with fab := { c.fab with asked := asked } }
    if c.fab.members.all (fun m => asked.contains m.1) then
      (c.fab.members.filter (fun m => m.2 != Config.uid)).foldl (fun (c : Chip) m => c.sendFrame m.1.toNat 0x08 6) c.granted
    else c

/-- A node that may sleep, with no far work Running, asks the captain (R369), once until the grant comes or lapses or it has far work
again. -/
def Chip.askSleep (c : Chip) : Chip :=
  let busy := c.eps.any (fun e => e.2.st == .running && (decide (8192 ≤ e.1) || (c.slot (e.1 / 32)).far.isSome))
  if !c.fab.sleepOk || !c.fab.valid || busy || decide (c.fab.count < 2) then
    { c with fab := { c.fab with asking := false } }
  else if c.fab.asking || c.fab.sleepGrant then c
  else
    let c := { c with fab := { c.fab with asking := true } }
    if c.fab.role = 2 then c.sleepAsked c.fab.node
    else c.sendFrame c.fab.captain.toNat 0x08 (5 + 2 ^ 8 * c.fab.node.toNat)

/-- A neighbour list (R350 step 3): passed on, and the captain distributes anew where it changes the fabric. -/
def Chip.listSeen (c : Chip) (p : Nat) (uid : BitVec 64) (x : NodeInfo) : Chip :=
  if uid = Config.uid ∨ uid = 0 ∨ c.nodeInfo uid = x then c
  else
    let c := (c.setInfo uid x).protoTo [1 - p] 2 uid.toNat
    if c.fab.role = 2 ∨ (c.fab.valid = true ∧ c.fab.captainUid = Config.uid) then c.plan else c

/-- A distribution (R350 step 3): the captain with the lower UID keeps its role (R366). -/
def Chip.distribution (c : Chip) (p : Nat) (uid : BitVec 64) (m : ProtoMsg) (topo : BitVec 16) : Chip :=
  if c.fab.valid && c.fab.captainUid != 0 && decide (c.fab.captainUid.toNat < uid.toNat) then c
  else ({ c with fab := { c.fab with install := some m, forming := true } } : Chip).protoTo [1 - p] 3 topo.toNat

/-- PROTOCOL: a firmware message (R350, R362, R365, R369). Without firmware nothing reads it. -/
def Chip.protocol (c : Chip) (p : Nat) (m : ProtoMsg) : Chip :=
  if !c.fabOn then c
  else
    match m with
    | .candidate uid round => c.candidateSeen uid round
    | .neighbours uid node pref fa fb => c.listSeen p uid { node := node, pref := pref, fa := fa, fb := fb }
    | .install _ _ uid _ _ topo _ => c.distribution p uid m topo
    | .linkDown lost moved => (c.protoTo [1 - p] 4 0).pathsLost (lost.map BitVec.toNat) (moved.map BitVec.toNat)
    | .excluded => c.excluded
    | .sleepAsk node => c.sleepAsked node
    | .sleepGrant => c.granted

/-- SLEEP_GRANT_LAPSE (R369). -/
def Chip.grantLapse (c : Chip) : Chip := { c with fab := { c.fab with sleepGrant := false, asking := false } }

/-! ### Time, TAP and registers -/

/-- The captain sends SYNC at every tick (R356). -/
def Chip.sendSync (c : Chip) : Chip :=
  if c.fab.role ≠ 2 then c
  else bothPorts.foldl (fun (c : Chip) p => if (c.fabPort p).st = fsMember then c.emit (.linkFrame p 4 c.mf.toNat) else c) c

/-- SYNC (R356, R366): the tick follows the captain's; a node that joins takes up its micro-frame number. -/
def Chip.sync (c : Chip) (p : Nat) (mf : BitVec 16) (offset : BitVec 12) (trim : BitVec 16) (h : LinkHdr) : Chip :=
  c.recvLink p h (fun c =>
    if !c.fab.valid || c.fab.role == 2 || (c.fabPort p).st != fsMember then c
    else
      let c := { c with
        mf := if c.fab.locked then c.mf else mf
        fab := { c.fab with offset := offset, trim := trim, locked := true } }
      if (c.fabPort (1 - p)).st = fsMember then c.emit (.linkFrame (1 - p) 4 mf.toNat) else c)

/-- SYNC_ECHO. -/
def Chip.syncEcho (c : Chip) (p : Nat) (delay : BitVec 16) (h : LinkHdr) : Chip :=
  c.recvLink p h (fun c => c.updFab p (fun q => { q with delay := delay }))

/-- TAP_SEEN (R368): in RUN and DOZE a status; otherwise a wake. -/
def Chip.tapSeen (c : Chip) (p : Fin 2) (t : Word) : Chip :=
  if c.pwr.st = .run ∨ c.pwr.st = .doze then (c.updFab p.val (fun q => { q with tapSeen := true })).pend (fabSource p.val 5)
  else c.wakeEvent (.tap p) t

/-- FAB_CTL (R353): a reserved HELLO_LOSS leaves the register. -/
def Chip.fabCtl (c : Chip) (val : Word) : Chip :=
  if fld val 11 8 = 0 then c
  else
    let c := { c with fab := { c.fab with
      en := bitAt val 0, faEn := bitAt val 1, fbEn := bitAt val 2, sleepOk := bitAt val 3, tapTx := bitAt val 4
      helloLoss := BitVec.ofNat 4 (fld val 11 8) } }
    (bothPorts.foldl (fun (c : Chip) p =>
      if c.fab.en && (if p = 0 then c.fab.faEn else c.fab.fbEn) then c else c.linkLoss p none) c).askSleep

/-- FAB_NODE (R353): PREF 0 is reserved while PREF_EN is set. -/
def Chip.fabNode (c : Chip) (val : Word) : Chip :=
  if fld val 11 8 = 0 ∧ bitAt val 12 = true then c
  else { c with fab := { c.fab with pref := BitVec.ofNat 4 (fld val 11 8), prefEn := bitAt val 12 } }

/-- FAB_CTL, FAB_STS, FAB_NODE, FAB_PORT, FAB_ERR, FAB_TIME and FAB_ROUTE as words (R353 to R355). -/
def Fab.ctl (f : Fab) : Nat :=
  flagAt f.en 0 + flagAt f.faEn 1 + flagAt f.fbEn 2 + flagAt f.sleepOk 3 + flagAt f.tapTx 4 + 2 ^ 8 * f.helloLoss.toNat
def Fab.sts (f : Fab) : Nat :=
  f.role.toNat + flagAt f.forming 2 + flagAt f.sleepGrant 3 + 2 ^ 4 * f.count + 2 ^ 16 * f.topo.toNat
def Fab.nodeReg (f : Fab) : Nat :=
  f.node.toNat + flagAt f.valid 4 + 2 ^ 8 * f.pref.toNat + flagAt f.prefEn 12 + 2 ^ 16 * f.captain.toNat
def FabPort.reg (p : FabPort) : Nat :=
  p.st + 2 ^ 3 * p.lanes + flagAt p.tapSeen 5 + 2 ^ 8 * (p.peer.getD 0).toNat + flagAt p.peer.isSome 12 + 2 ^ 16 * p.delay.toNat
def FabPort.errs (p : FabPort) : Nat :=
  p.crc.toNat + 2 ^ 8 * p.replays.toNat + 2 ^ 16 * p.laneLoss.toNat + 2 ^ 24 * p.downs.toNat
def Fab.time (f : Fab) : Nat := f.offset.toNat + 2 ^ 12 * f.trim.toNat + flagAt f.locked 28
def Route.reg (r : Route) : Nat :=
  r.port.toNat + 2 ^ 2 * r.hops.toNat + 2 ^ 6 * r.altPort.toNat + 2 ^ 8 * r.altHops.toNat + flagAt r.member 12 + 2 ^ 16 * r.uidTag.toNat

end Sys2Proof.Machine
end

