-- ==== Sys2Proof/Machine/Reliability.lean ====
section
/-! DEFINITION. Protection of stored state, replay checks and repairs (R396 to R409), and the Spin registers (R419 to
R421). Lanes stand in Lanes.lean. -/

namespace Sys2Proof.Machine

def Chip.bank (c : Chip) (b : Nat) : Bank := Tbl.get {} c.rel.banks b
def Chip.updBank (c : Chip) (b : Nat) (f : Bank → Bank) : Chip := { c with rel := { c.rel with banks := Tbl.upd {} c.rel.banks b f } }

/-- Spare rows in use of a bank: those of the OTP repairs, and the runtime ones (R403). -/
def Chip.sparesUsed (c : Chip) (b : Nat) : Nat :=
  (Config.sparesUsed b).val + (c.rel.repairs.filter (fun r => r.bank == b)).length

/-- The lowest free spare row: those of OTP come first, then the runtime ones as they are taken. -/
def Chip.freeSpare (c : Chip) (b : Nat) : Option Nat :=
  leastFree (fun k => c.rel.repairs.all (fun r => r.bank != b || r.spare != k)) (Config.sparesUsed b).val (64 - (Config.sparesUsed b).val)

/-! ### Errors of a word (R396 to R398, R410, R412) -/

/-- LOCATION of a word of SRAM. -/
def sramLoc (b row word : Nat) : Nat := b + 2 ^ 4 * row + 2 ^ 14 * word

/-- The injection that is armed hits this word (R420, R421): it is done, and its errors carry INJECTED. -/
def Chip.injects (c : Chip) (b row word : Nat) : Bool :=
  bitAt c.spin.ecc 29 && fld c.spin.ecc 3 0 == b && fld c.spin.ecc 13 4 == row && fld c.spin.ecc 20 14 == word

def Chip.injected (c : Chip) (b row word : Nat) : Chip :=
  if c.injects b row word then { c with spin := { c.spin with ecc := c.spin.ecc &&& ~~~(0x20000000 : Word) } } else c

/-- The log slot of a row that is queued or under check. -/
def Chip.rowJob (c : Chip) (b row : Nat) : Option Nat :=
  if (c.bank b).row = some row then some (c.bank b).slot
  else c.rel.queue.findSome? (fun q => match q.1 with
    | .sram b' r' _ s => if b' = b ∧ r' = row then some s else none
    | _ => none)

/-- An error in a row (R400): one already queued or under check adds to COUNT of its entry; otherwise it is logged and its
row is queued. -/
def Chip.rowError (c : Chip) (b row word cls d0 d1 : Nat) : Chip :=
  let inj := c.injects b row word
  let c := c.injected b row word
  match c.rowJob b row with
  | some slot => c.logResult slot (fun e => { e with count := if e.count.toNat = 65535 then e.count else e.count + 1 })
  | none =>
    let c := c.log 0x1F cls (sramLoc b row word) d0 d1 (flagAt inj 5)
    c.queueCheck (.sram b row word c.lastLog) c.lastLog

/-- Corrected errors of a row within the last second, the newest first (R402). -/
def Chip.countRow (c : Chip) (b row : Nat) : Chip :=
  let now := c.pwr.slTime
  let ts := now :: ((Tbl.get [] c.rel.rowCe (1024 * b + row)).filter (fun t => decide ((now - t).toNat ≤ 1000000))).take 2
  { c with rel := { c.rel with rowCe := Tbl.set [] c.rel.rowCe (1024 * b + row) ts } }

/-- A corrected error (R396, R409). The syndrome is open (log entry 2). -/
def Chip.corrected (c : Chip) (b row word : Nat) (bit : Nat) : Chip :=
  let v := c.fresh
  let c := v.2.updBank b (fun x => { x with corrected := x.corrected + 1 })
  let c := ({ c with rel := { c.rel with ce := c.rel.ce ||| BitVec.ofNat 16 (2 ^ b) } } : Chip).pend (432 + b)
  (c.countRow b row).rowError b row word 0x01 (v.1.toNat % 128 + 2 ^ 8 * bit) 0

/-- What a cell of the packet buffer may hold: data of an endpoint, a shared report, or the staged image (R398). -/
def Chip.cellWork (c : Chip) : List Nat :=
  (c.eps.filter (fun e => decide (0 < e.2.cells) || decide (0 < e.2.unread))).map (fun e => e.1)

/-- The TD in progress ends because data of it is lost (R398). -/
def Chip.loseTd (c : Chip) (key : Nat) : Chip :=
  if !c.hasTd key then c
  else if (c.ep key).ty = .isoch then
    (c.endTd key ((c.epRing key).endNth 0 (if keyIn key then ccMissed else ccDataBuf))).stir key
  else (c.endWith key ccHostMem).stir key

/-- An uncorrectable word in a cell ends the work that the cell holds (R398): a TD that awaits its confirming read, or the one in
progress, whatever state its endpoint has come to since (R14). -/
def Chip.loseCell (c : Chip) (key : Nat) : Chip :=
  let e := c.ep key
  if e.service then ((c.updEp key (fun e => { e with unread := e.unread - 1 })).freeCells key).stir key
  else
    match e.done with
    | d :: t =>
      if d.confirming then
        let code := if e.ty = .isoch then ccMissed else ccHostMem
        (c.updEp key (fun e => { e with
          done := { d with code := code, moved := d.sure } :: t, st := if e.ty = .isoch then e.st else .halted })).stir key
      else c.loseTd key
    | [] => c.loseTd key

/-- Which work an uncorrectable word of the packet buffer held is the chip's own placing, and so open (log entry 2). -/
def Chip.loseBuffer (c : Chip) : Chip :=
  let v := c.fresh
  let ws := v.2.cellWork
  let k := v.1.toNat % (ws.length + 2)
  if k < ws.length then v.2.loseCell (ws.getD k 0)
  else if k = ws.length ∧ (v.2.fw.phase = .verifying ∨ v.2.fw.phase = .fetching) then v.2.fwFail 8 (some v.2.fw.image.fwVersion)
  else v.2

/-- The current slot of a bus's Lineup is lost: until it is compiled again, at the next micro-frame boundary, its entries are passed over
as for want of a cell (R142, R397). -/
def Chip.loseSlotEntries (c : Chip) (b : Nat) : Chip :=
  let es := (c.bus b).todo
  es.foldl (fun (c : Chip) x => c.missCell b x.1 x.2.2.2) (c.updBus b (fun x => { x with todo := [] }))

/-- An uncorrectable word of the context store (R397): read from its copy, rebuilt, or, where both copies are lost, the
instance frozen. Which field the word held is open (log entry 2). Answers whether it was recovered or rebuilt, and the
instance frozen. -/
def Chip.loseContext (c : Chip) : Chip × Nat × Option Nat :=
  let v := c.fresh
  let w := v.2.fresh
  let c := w.2
  let n := w.1.toNat
  match v.1.toNat % 7 with
  | 0 => (c, 1, none)
  | 1 => (if bitAt w.1 5 then c.loseSlotEntries (n % 32) else c, 2, none)
  | 2 => ((c.updQueue (n % 8192) (fun q => { q with ctok := q.cbs.toNat, ptok := q.pbs.toNat, inSet := false })).kick
      (n % 8192 / 256), 2, none)
  | 3 => ((c.updEp (n % 8192) (fun e => if e.st = .disabled then e else { e with rally := e.rally.ease c.us })).stir (n % 8192), 2, none)
  | 4 => (c.updQueue (n % 8192) (fun q => q.clear), 2, none)
  | 5 =>
    let i := n % 128
    let k := n / 128 % 64
    (if ((c.inst i).cring k).live ∧ 0 < ((c.inst i).cring k).count ∧ (c.inst i).deaf = false then c.onInst i (fun w => w.decision i k)
        else c, 2, none)
  | _ => (c.freezeInst (n % 128) false, 0, some (n % 128))

/-- An uncorrectable word (R313, R396 to R398). -/
def Chip.uncorrectable (c : Chip) (b row word : Nat) : Chip :=
  let v := c.fresh
  let c := v.2.updBank b (fun x => { x with uncorr := if x.uncorr = 255 then 255 else x.uncorr + 1 })
  let c := ({ c with rel := { c.rel with ue := c.rel.ue ||| BitVec.ofNat 16 (2 ^ b) } } : Chip).pend 448
  if b < 10 then (c.rowError b row word 0x02 (v.1.toNat % 128) 0).loseBuffer
  else if b < 12 then
    let x := c.loseContext
    let c := x.1.rowError b row word 0x02 (v.1.toNat % 128) x.2.1
    match x.2.2 with
    | some n => c.log 0x1F 0x0C (sramLoc b row word) n 0 0
    | none => c
  else if b < 15 then
    let f := 4 * (b - 12) + row / 256
    (c.rowError b row word 0x02 (v.1.toNat % 128) 0).fault f (.uncorrectable (decide (row % 256 < 128)))
  else c.rowError b row word 0x02 (v.1.toNat % 128) 0

/-- SCRUB_ROW (R399): the next row is read. -/
def Chip.scrub (c : Chip) (x : ScrubFind) : Chip :=
  if !c.clocked || !c.boot.sram || c.rel.scrub == 0 then c
  else
    let b := c.rel.scrubRow / 1024
    let row := c.rel.scrubRow % 1024
    let c := { c with rel := { c.rel with scrubRow := (c.rel.scrubRow + 1) % 16384 } }
    match x with
    | .clean => c
    | .corrected w bit => c.corrected b row w.val bit.toNat
    | .uncorrectable w => c.uncorrectable b row w.val

/-- SIDELINE_SCRUB (R396): a corrected word, or one that reads as zero, is logged; its place in the Sideline SRAM has no
LOCATION of R412. -/
def Chip.sidelineScrub (c : Chip) (corrected bad : Bool) : Chip :=
  let v := c.fresh
  if bad then v.2.log 0x01 0x02 0 (v.1.toNat % 128) 0 0
  else if corrected then v.2.log 0x01 0x01 0 (v.1.toNat % 2 ^ 14) 0 0
  else c

/-! ### Checks (R400 to R403) -/

/-- Queued checks of a class are second lasting faults from here on (R416). -/
def CheckJob.classOf (j : CheckJob) : Nat :=
  match j with
  | .sram b _ _ _ => b
  | .fielder _ _ => 16
  | .lane l _ => 17 + l
def Chip.markSecond (c : Chip) (cls : Nat → Bool) : Chip :=
  { c with rel := { c.rel with queue := c.rel.queue.map (fun q => if cls q.1.classOf then (q.1, true) else q) } }

/-- A check has ended: REPLAY_STS, and source 449 (R401, R409). -/
def Chip.checkOver (c : Chip) (kind target : Nat) (r : CheckEnd) : Chip :=
  let res := match r with
    | .transient => 1
    | .lasting => 2
    | .inconclusive => 3
  ({ c with rel := { c.rel with
    kind := BitVec.ofNat 2 kind, res := BitVec.ofNat 2 res, target := BitVec.ofNat 5 target, checks := c.rel.checks + 1 } } : Chip).pend 449

/-- Spares of a class are used up (R412, R416). -/
def Chip.exhausted (c : Chip) (what : Nat) : Chip := c.log 0x20 0x0B what 0 0 0

/-- The SRAM check of a row starts, with its shadow; with no free spare it is INCONCLUSIVE (R401, R402). -/
def Chip.startSram (c : Chip) (b row slot : Nat) (second : Bool) : Chip :=
  if (c.freeSpare b).isNone then
    let c := c.logResult slot (fun e => e.withOutcome 3 5 true)
    (c.exhausted b).checkOver 1 b .inconclusive
  else c.updBank b (fun x => { x with row := some row, slot := slot, copied := false, second := second })

/-- The check of a Fielder starts (R401): it is in TEST; one that cannot be tested is RETIRED. -/
def Chip.startFielderCheck (c : Chip) (f slot : Nat) (second : Bool) : Chip :=
  match (c.fielder f).st with
  | .halted | .bench | .test | .waiting =>
    let c := if c.fw.bench = some f then { c with fw := { c.fw with bench := none } } else c
    let c := c.updFielder f (fun x => { x with st := .test, wfi := false, takes := none })
    { c with rel := { c.rel with fielderJob := some (f, slot, second) } }
  | _ =>
    let c := (c.leaveActive f .retired).logResult slot (fun e => e.withOutcome 3 3 false)
    (c.retire f slot).checkOver 2 f .inconclusive

/-- SRAM_SHADOW_COPY_DONE (R402). -/
def Chip.shadowDone (c : Chip) (b : Nat) : Chip :=
  if (c.bank b).row.isSome then c.updBank b (fun x => { x with copied := true }) else c

/-- SPIN_ECC.STICKY makes the row fail its march test (R420). DEDUCED, log entry 49. -/
def Chip.sticky (c : Chip) (b row : Nat) : Bool := bitAt c.spin.ecc 28 && fld c.spin.ecc 3 0 == b && fld c.spin.ecc 13 4 == row

/-- SRAM_CHECK_DONE (R402, R403). A row with its third corrected error within 1 s is LASTING, and so is one made to fail; without a
spare the check is INCONCLUSIVE. -/
def Chip.sramDone (c : Chip) (b : Nat) (r : CheckEnd) (bits us : BitVec 16) : Chip :=
  let x := c.bank b
  match x.row with
  | none => c
  | some row =>
    if !x.copied then c
    else
      let bad := c.sticky b row
      let r := if r = .transient ∧ (bad = true ∨ (Tbl.get [] c.rel.rowCe (1024 * b + row)).length = 3) then .lasting else r
      let c := c.updBank b (fun x => { x with row := none, copied := false, second := false })
      let d1 : Word := toWord (bits.toNat + 2 ^ 16 * us.toNat)
      let inj := bitAt (c.flog x.slot).outcome 5 || bad
      let res := if r = .lasting ∧ (c.freeSpare b).isNone = true then .inconclusive else r
      let c := match r with
        | .transient => c.logResult x.slot (fun e => { e.withOutcome 1 0 false with d1 := if e.cls = 1 then d1 else e.d1 })
        | .inconclusive => c.logResult x.slot (fun e => { e.withOutcome 3 5 false with d1 := if e.cls = 1 then d1 else e.d1 })
        | .lasting =>
          match c.freeSpare b with
          | none => (c.logResult x.slot (fun e => e.withOutcome 3 5 true)).exhausted b
          | some s =>
            let c := { c with rel := { c.rel with repairs := { bank := b, row := row, spare := s, injected := inj } :: c.rel.repairs } }
            let c := c.logResult x.slot (fun e => { e.withOutcome 2 1 x.second with
              loc := e.loc ||| BitVec.ofNat 64 (2 ^ 32 * s + 2 ^ 38), d1 := if e.cls = 1 then d1 else e.d1 })
            let c := c.markSecond (fun k => k == b)
            if c.rel.otpCommit && !inj then
              { c with rel := { c.rel with otpDue := c.rel.otpDue ++ [(x.slot, OtpItem.row { bank := b, row := row, spare := s })] } }
            else c
      c.checkOver 1 b res

/-- A Fielder becomes the bench, where firmware runs and none is named (R317, R401). -/
def Chip.toBench (c : Chip) (f : Nat) : Chip :=
  let c := c.updFielder f (fun x => { st := .bench, role := x.role, cycles := x.cycles, retired := x.retired, suspRole := x.suspRole })
  if c.boot.fwRunning ∧ c.fw.bench = none then { c with fw := { c.fw with bench := some f } } else c

/-- A TRANSIENT Fielder starts its own suspended role again, unless its instruction RAM holds the bad word (R406). -/
def Chip.afterTransient (c : Chip) (f : Nat) : Chip :=
  let x := c.fielder f
  match x.suspRole with
  | some r =>
    if bitAt c.rel.suspended r.toNat && !x.badIram then
      let c := c.dozeExit.startFielder f r x.vbank x.newImage
      c.updFielder f (fun y => { y with takes := some f, suspRole := some r })
    else c.toBench f
  | none => c.toBench f

/-- FIELDER_CHECK_DONE (R317, R401, R406). -/
def Chip.fielderDone (c : Chip) (f : Nat) (r : CheckEnd) : Chip :=
  match c.rel.fielderJob with
  | none => c
  | some (g, slot, second) =>
    if f ≠ g then c
    else
      let c := { c with rel := { c.rel with fielderJob := none } }
      let c := match r with
        | .transient => (c.logResult slot (fun e => e.withOutcome 1 (fld e.outcome 4 2) false)).afterTransient f
        | .lasting => ((c.logResult slot (fun e => e.withOutcome 2 3 second)).retire f slot).markSecond (fun k => k == 16)
        | .inconclusive => (c.logResult slot (fun e => e.withOutcome 3 3 second)).retire f slot
      c.checkOver 2 f r

/-- OTP_COMMIT_DONE (R403): the entry carries OTP; with no OTP entry left, nothing is blown. -/
def Chip.otpDone (c : Chip) : Chip :=
  match c.rel.otpDue with
  | [] => c
  | (slot, item) :: t =>
    let c := { c with rel := { c.rel with otpDue := t } }
    if c.rel.otpLeft = 0 then c.exhausted 0x10
    else
      let rel := { c.rel with otpLeft := c.rel.otpLeft - 1 }
      let c := { c with rel := match item with
        | .row r => { rel with otpRows := r :: rel.otpRows }
        | .fielder f => { rel with otpFielders := f :: rel.otpFielders.filter (fun g => g != f) } }
      c.logResult slot (fun e => { e with outcome := e.outcome ||| 0x40 })

/-! ### Spin (R419 to R421) -/

/-- Every perturbation register at its reset value. -/
def Spin.locked (s : Spin) : Spin := { holding := s.holding, fabHold := if fld s.fab 31 16 = 0 then none else s.fabHold }

/-- SPIN_KEY_WRITE (R419): `late` says that more than 100 µs have passed since the first value. -/
def Chip.spinKey (c : Chip) (val : Word) (late : Bool) : Chip :=
  if val = Config.spinKey1 then { c with spin := { c.spin with stage := true } }
  else if val = Config.spinKey2 ∧ c.spin.stage = true ∧ late = false then
      { c with spin := { c.spin with stage := false, unlocked := true } }
  else { c with spin := { c.spin with stage := false } }

/-- Another write to PF BAR0 comes between the two values. -/
def Chip.spinBreak (c : Chip) : Chip := { c with spin := { c.spin with stage := false } }

/-- SPIN_CTL.LOCK: perturbations in progress finish. -/
def Chip.spinLock (c : Chip) : Chip := if c.spin.unlocked then { c with spin := c.spin.locked } else c

/-- A write of a perturbation register: discarded while locked. -/
def Chip.spinSet (c : Chip) (f : Spin → Spin) : Chip := if c.spin.unlocked then { c with spin := f c.spin } else c

/-- SPIN_ECC with ARM (R420). -/
def Chip.spinArm (c : Chip) : Chip := c.spinSet (fun s => { s with ecc := s.ecc ||| 0x20000000 })

/-- SPIN_PERTURBATION_END (R420): HOLD ends; PERIOD repeats it; DURATION ends. -/
def Chip.spinEnd (c : Chip) (x : SpinTimed) : Chip :=
  match x with
  | .creditHold => { c with spin := { c.spin with holding := false } }
  | .creditPeriod =>
    if fld c.spin.credit 11 0 ≠ 0 ∧ fld c.spin.credit 31 16 ≠ 0 then { c with spin := { c.spin with holding := true } } else c
  | .fabDuration => { c with spin := { c.spin with fabHold := none } }

end Sys2Proof.Machine
end

