-- ==== Sys2Proof/Machine/Lanes.lean ====
section
/-! DEFINITION. SerDes lanes (R367, R400, R401, R407), and the start of a replay check (R400). -/

namespace Sys2Proof.Machine

/-- The link or port of a lane (R407): PCIe links 0 and 1, SSP0 to SSP7 as 2 to 9, the UFP as 10, FA and FB as 11 and 12. -/
def Chip.laneLink (c : Chip) (lane : Nat) : Nat :=
  if lane < 4 then (if c.straps.bifur && decide (2 ≤ lane) then 1 else 0)
  else if lane < 8 then 2 + (lane - 4) / 2
  else if lane < 14 then lane - 4
  else if lane < 16 then 10
  else 11 + (lane - 16) / 2

/-- A check of the lane waits or runs: its log slot. -/
def Chip.laneSlot (c : Chip) (lane : Nat) : Option Nat :=
  match c.rel.laneJobs.find? (fun j => j.1 == lane) with
  | some j => some j.2.1
  | none => c.rel.queue.findSome? (fun q => match q.1 with
    | .lane l s => if l = lane then some s else none
    | _ => none)

/-- COUNT of a log entry goes up (R400, R410). -/
def Chip.logAgain (c : Chip) (slot : Nat) : Chip :=
  c.logResult slot (fun e => { e with count := if e.count.toNat = 65535 then e.count else e.count + 1 })

/-- LANE_ERROR (R354, R400, R412): LANE_TH errors of a lane within 1 ms are logged and checked. -/
def Chip.laneError (c : Chip) (lane : Nat) (kind : BitVec 3) : Chip :=
  let fab := decide (16 ≤ lane)
  let p := (lane - 16) / 2
  let c := if fab && bitAt kind 0 then c.updFab p (fun q => { q with laneLoss := q.laneLoss + 1 }) else c
  let c := if fab then c.pend (fabSource p 4) else c
  let c := c.pend 451
  match c.laneSlot lane with
  | some s => c.logAgain s
  | none =>
    let times := c.us :: (Tbl.get [] c.rel.laneErr lane).filter (fun t => decide (c.us - t ≤ 1000))
    if times.length < c.rel.laneTh.toNat then { c with rel := { c.rel with laneErr := Tbl.set [] c.rel.laneErr lane times } }
    else
      let c := { c with rel := { c.rel with laneErr := Tbl.set [] c.rel.laneErr lane [] } }
      let c := c.log 0x1E 0x05 lane times.length kind.toNat 0
      c.queueCheck (.lane lane c.lastLog) c.lastLog

/-- SPEED of a companion, and admission again where it changes (R132, R213). -/
def Chip.sspSpeed (c : Chip) (p : Nat) (s : BitVec 4) : Chip :=
  if (c.ssp p).speed = s ∨ (c.ssp p).speed = 0 then c
  else (c.updSsp p (fun q => { q with speed := s, lanes := speedLanes s })).readmit (24 + p)

/-- The width or state of the link before a lane check, and what the check makes of it (R407): the narrowed width. -/
def Chip.laneNarrow (c : Chip) (lane : Nat) : Nat × Chip :=
  if lane < 4 then (0, c)
  else if lane < 8 then
    let p := (lane - 4) / 2
    ((c.ssp p).speed.toNat, c.sspSpeed p (narrowSpeed (c.ssp p).speed))
  else if lane < 14 then (0, c.linkError (lane - 6) false)
  else if lane < 16 then
    (c.pass.ssSpeed.toNat, { c with pass := { c.pass with ssSpeed := narrowSpeed c.pass.ssSpeed } })
  else
    let p := (lane - 16) / 2
    ((c.fabPort p).lanes, c.updFab p (fun q => { q with lanes := min q.lanes 1 }))

/-- A lane check starts, the link narrowed for its 1 ms (R401). -/
def Chip.startLane (c : Chip) (lane slot : Nat) (second : Bool) : Chip :=
  let x := c.laneNarrow lane
  { x.2 with rel := { x.2.rel with laneJobs := x.2.rel.laneJobs ++ [(lane, slot, second, x.1)] } }

/-- The part of a queued check is free: at most one in each bank, one of a Fielder, one for each link or port (R400). -/
def Chip.canStart (c : Chip) (j : CheckJob) : Bool :=
  match j with
  | .sram b _ _ _ => (c.bank b).row.isNone
  | .fielder _ _ => c.rel.fielderJob.isNone
  | .lane l _ => c.rel.laneJobs.all (fun k => c.laneLink k.1 != c.laneLink l)

/-- REPLAY_CHECK_START: the first check of the queue whose part is free. -/
def Chip.startCheck (c : Chip) : Chip :=
  if !c.clocked || !c.rel.auto then c
  else
    match c.rel.queue.find? (fun q => c.canStart q.1) with
    | none => c
    | some q =>
      let c := { c with rel := { c.rel with queue := dropFirst q c.rel.queue } }
      match q.1 with
      | .sram b row _ slot => c.startSram b row slot q.2
      | .fielder f slot => c.startFielderCheck f slot q.2
      | .lane l slot => c.startLane l slot q.2

/-- Every lane of the link is dropped. -/
def Chip.linkDead (c : Chip) (lane : Nat) : Bool :=
  (List.range 20).all (fun k => c.laneLink k != c.laneLink lane || bitAt c.rel.laneDown k)

/-- After TRANSIENT the full width returns by retraining (R407); a single-lane port is warm-reset. -/
def Chip.laneBack (c : Chip) (lane was : Nat) : Chip :=
  if lane < 4 then c
  else if lane < 8 then c.sspSpeed ((lane - 4) / 2) (BitVec.ofNat 4 was)
  else if lane < 14 then
    (if (c.ssp (lane - 6)).st = sInactive then c.beginReset (24 + (lane - 6)) true else c)
  else if lane < 16 then { c with pass := { c.pass with ssSpeed := if c.pass.ssLink then BitVec.ofNat 4 was else 0 } }
  else
    let p := (lane - 16) / 2
    if fsUp ≤ (c.fabPort p).st ∧ (c.fabPort p).st ≤ fsExcluded then c.updFab p (fun q => { q with lanes := was }) else c

/-- A companion goes to SS_DISABLED: its device is gone from the SuperSpeed bus (R210, R407). -/
def Chip.sspOff (c : Chip) (p : Nat) : Chip :=
  let was := (c.ssp p).connected
  let c := c.updSsp p (fun q => { q with st := sDisabled, connected := false, speed := 0, lanes := 0, exiting := false, tries := 0 })
  if was then c.unplug (24 + p) 0 true else c

/-- A lane is dropped for good (R367, R407): its port stays narrow; one that has lost its last lane is lost. -/
def Chip.laneDropped (c : Chip) (lane : Nat) : Chip :=
  let c := { c with rel := { c.rel with laneDown := c.rel.laneDown ||| BitVec.ofNat 20 (2 ^ lane) } }
  if lane < 4 then (if c.linkDead lane then c.lostLink (c.laneLink lane) else c)
  else if lane < 8 then (if c.linkDead lane then c.sspOff ((lane - 4) / 2) else c)
  else if lane < 14 then c.sspOff (lane - 6)
  else if lane < 16 then
    (if c.linkDead lane then { c with pass := { c.pass with ssLink := false, ssSpeed := 0 } } else c)
  else
    let p := (lane - 16) / 2
    if c.linkDead lane then c.linkLoss p (some 1)
    else if (c.fabPort p).st = fsMember then c.fabRefit.fabricEvent c.nodeNo 4
    else c

/-- LANE_CHECK_DONE (R401, R407): INCONCLUSIVE drops the lane as LASTING does. -/
def Chip.laneDone (c : Chip) (lane : Nat) (r : CheckEnd) : Chip :=
  match c.rel.laneJobs.find? (fun j => j.1 == lane) with
  | none => c
  | some (_, slot, second, was) =>
    let c := { c with rel := { c.rel with laneJobs := c.rel.laneJobs.filter (fun j => j.1 != lane) } }
    let c := match r with
      | .transient => (c.logResult slot (fun e => e.withOutcome 1 0 false)).laneBack lane was
      | .lasting =>
        ((c.logResult slot (fun e => e.withOutcome 2 4 second)).markSecond
          (fun k => decide (17 ≤ k) && c.laneLink (k - 17) == c.laneLink lane)).laneDropped lane
      | .inconclusive => (c.logResult slot (fun e => e.withOutcome 3 4 second)).laneDropped lane
    c.checkOver 3 lane r

end Sys2Proof.Machine
end

