-- ==== Sys2Proof/Machine/Registers.lean ====
section
/-! DEFINITION. The registers that a host, the manager, the SMBus controller and a Fielder reach (R4 to R6, R234, R311,
R422 to R426): what each reads, and what a write of each does. Reserved bits are dropped, and a reserved encoding leaves its
field, or the whole register where the register's rule says so (R6). -/

namespace Sys2Proof.Machine

/-! ### Words of the setup registers -/

/-- GSTS (R25). -/
def Mode.code (m : Mode) : Nat :=
  match m with
  | .starting => 0
  | .waiting => 1
  | .sandlotHc => 2
  | .sandlotPass => 3
  | .service => 4
def Chip.gsts (c : Chip) : Nat :=
  c.straps.mgrSel.toNat + flagAt c.straps.bifur 2 + 2 ^ 3 * c.straps.smb.toNat + flagAt c.straps.refclk 5
    + flagAt c.straps.passOff 6 + flagAt c.straps.compat 7 + flagAt c.straps.err 8 + 2 ^ 9 * c.boot.mode.code
    + flagAt c.boot.ready 12 + flagAt c.boot.fwRunning 13

/-- FW_CTL and FW_STS (R42). -/
def Loader.ctl (f : Loader) : Nat := f.winPage.toNat + 2 ^ 8 * f.drainTo.toNat + flagAt f.svnCommit 16
def Chip.fwSts (c : Chip) : Nat :=
  c.fw.err.toNat + flagAt c.fw.staged 4 + flagAt c.fw.busy 5 + flagAt c.fw.mixed 6 + 2 ^ 8 * c.fuse + flagAt c.otpKey 15
    + 2 ^ 16 * c.fw.swapStep.toNat + 2 ^ 20 * c.fw.bench.getD 15

/-- MGR_STS (R115). -/
def Mgr.sts (m : Mgr) : Nat :=
  m.code.toNat + flagAt m.busy 8 + flagAt m.done 9 + flagAt m.overrun 10 + flagAt m.ie 11 + 2 ^ 16 * m.result.toNat

/-- HOST_LINKn and LINK_STS (R257). -/
def Link.host (k : Link) : Nat := k.policy.toNat + 2 ^ 8 * k.delayCfg.toNat + 2 ^ 16 * k.target.toNat
def Chip.linkSts (c : Chip) : Nat :=
  flagAt c.link0.down 0 + flagAt c.link1.down 1 + flagAt c.link0.chg 2 + flagAt c.link1.chg 3 + flagAt c.link0.acted 4
    + flagAt c.link1.acted 5 + flagAt c.cap.linkIe 6

/-- PORT_STAT and SSP_STAT (R201). -/
def Chip.stat (c : Chip) (b : Nat) : Nat :=
  let p := c.port (busPort b)
  let own := 2 ^ 16 * p.owner.toNat + flagAt p.powered 12 + flagAt p.oc 13 + flagAt p.pass 14
  if b < 24 then
    let q := c.port b
    q.st + 2 ^ 4 * q.speed.toNat + flagAt q.connected 8 + flagAt q.enabled 9 + flagAt q.suspended 10 + flagAt (q.st == pL1) 11
      + own + 2 ^ 24 * q.chg.toNat
  else
    let q := c.ssp (b - 24)
    q.st + 2 ^ 4 * q.speed.toNat + flagAt q.connected 8 + flagAt q.enabled 9 + flagAt q.suspended 10 + own + 2 ^ 24 * q.chg.toNat

/-- PORTPM, PORTOC, PORTERR, SSPERR and SSPPM (R202 to R205). -/
def Port.pm (p : Port) : Nat := p.bc.toNat + flagAt p.chargeOnly 2 + 2 ^ 4 * p.besl.toNat + 2 ^ 8 * p.cause.toNat
def Chip.portOc (c : Chip) (p : Nat) : Nat :=
  c.portSource p + flagAt (c.port p).oc 5 + flagAt (c.port p).pocLow 6 + 2 ^ 16 * (c.port p).trips.toNat
def Port.errs (p : Port) : Nat :=
  p.babble.toNat + 2 ^ 8 * p.disabled.toNat + 2 ^ 16 * p.resumeLost.toNat + 2 ^ 24 * p.bounce.toNat
def Ssp.errs (p : Ssp) : Nat :=
  p.trainFail.toNat + 2 ^ 8 * p.recovery.toNat + 2 ^ 16 * p.inactive.toNat + 2 ^ 24 * p.lanes.toNat
def Ssp.pm (p : Ssp) : Nat := p.u1.toNat + 2 ^ 8 * p.u2.toNat + flagAt p.acceptDev 16

/-- OC_MAPk (R219). -/
def Chip.ocMapReg (c : Chip) (k : Nat) : Nat := (List.range 4).foldl (fun n j => n + 2 ^ (8 * j) * c.portSource (4 * k + j)) 0

/-- PASS_STS and PASS_MAP (R224). -/
def Pass.sts (x : Pass) : Nat :=
  flagAt x.vbus 0 + flagAt x.attached 1 + flagAt x.hs 2 + flagAt x.ssLink 3 + 2 ^ 4 * x.ssSpeed.toNat
    + flagAt x.usb2.configured 8 + flagAt x.usb3.configured 9 + flagAt x.suspended 10
def Chip.passMap (c : Chip) : Nat := portMask c.held

/-- SHARE_STSg (R272). -/
def Chip.shareSts (c : Chip) (g : Nat) : Nat :=
  (c.share g).focus + 2 ^ 8 * (c.groupSlots g).length + 2 ^ 16 * (c.share g).switches.toNat

/-- The power registers (R372, R373, R391). -/
def Pwr.mode (p : Pwr) : Nat := p.target.toNat + 2 ^ 4 * p.limit.toNat
def Pwr.sts (p : Pwr) : Nat :=
  p.st.code + 2 ^ 2 * p.st.phase + 2 ^ 4 * p.lastAp.toNat + flagAt p.unwound 7 + 2 ^ 8 * p.lastExit.toNat + 2 ^ 16 * p.entries.toNat
def Pwr.refLast (p : Pwr) : Nat :=
  p.refBlock.toNat + 2 ^ 6 * p.refPhase.toNat + 2 ^ 8 * p.refTarget.toNat + 2 ^ 10 * p.refStep.toNat
def Pwr.wakeLast (p : Pwr) : Nat := p.wkBlock.toNat + 2 ^ 6 * p.wkFrom.toNat + 2 ^ 8 * p.wkDetail.toNat + 2 ^ 16 * p.wkAp.toNat
def Pwr.dvfsSts (p : Pwr) : Nat :=
  p.freqNow.toNat + 2 ^ 2 * p.vid.toNat + 2 ^ 6 * p.cap.toNat + flagAt (p.dvfs != .idle) 8 + flagAt p.pending 9
    + flagAt (p.freq < p.freqNow) 10 + flagAt p.vrdyTo 11 + 2 ^ 16 * p.steps.toNat
def Pwr.thermCtl (p : Pwr) : Nat := p.high.toNat + 2 ^ 8 * p.low.toNat + 2 ^ 16 * p.warn.toNat
def Pwr.thermSts (p : Pwr) : Nat :=
  p.tempBits + flagAt (decide ((p.high.toNat : Int) < p.temp)) 9 + 2 ^ 10 * p.cap.toNat + flagAt p.tripped 12

/-- REF_BUS_CTL (R189), RALLY_CLASS (R165), SB_CTL and SB_STS (R193). -/
def Bus.ctl (x : Bus) : Nat := x.ovhPkt.toNat + 2 ^ 8 * x.ovhTxn.toNat + 2 ^ 16 * x.stuff.toNat + 2 ^ 18 * x.cweight.toNat
def RallyClass.reg (r : RallyClass) : Nat :=
  r.start.toNat + 2 ^ 10 * r.max.toNat + flagAt r.linear 20 + 2 ^ 21 * r.inc.toNat
def Capture.sbCtl (x : Capture) : Nat := x.sbK.toNat + flagAt x.sbEn 4
def Capture.sbSts (x : Capture) : Nat := x.sbLastMf.toNat + flagAt x.sbBusy 16 + 2 ^ 17 * x.sbSkipped.toNat

/-- REPLAY_CTL, REPLAY_STS, REPAIR_STS and ECC_CNT (R409). -/
def Rel.ctl (r : Rel) : Nat := flagAt r.auto 0 + flagAt r.otpCommit 1 + 2 ^ 8 * r.laneTh.toNat + 2 ^ 16 * r.scrub.toNat
def Rel.sts (r : Rel) : Nat :=
  flagAt (r.banks.any (fun b => b.2.row.isSome) || r.fielderJob.isSome || !r.laneJobs.isEmpty) 0 + 2 * r.kind.toNat
    + 2 ^ 3 * r.res.toNat + 2 ^ 5 * r.queue.length + 2 ^ 9 * r.target.toNat + 2 ^ 16 * r.checks.toNat
def Chip.repairSts (c : Chip) : Nat := c.rel.retired.length + 2 ^ 4 * c.rel.suspended.toNat + 2 ^ 12 * c.rel.otpLeft
def Chip.eccCnt (c : Chip) (b : Nat) : Nat :=
  let x := c.bank b
  x.corrected.toNat + 2 ^ 16 * x.uncorr.toNat + 2 ^ 24 * (c.sparesUsed b + flagAt x.row.isSome 0) + flagAt x.row.isSome 31

/-! ### Instance pages (R235) -/

/-- PORT_VIEW (R206). -/
def Chip.portView (c : Chip) (n : Nat) : Nat :=
  let s := (c.inst n).portSel
  match c.localBus s with
  | some b =>
    if c.ownsBus n b then
      c.portStatus b (if b < 24 then (c.port b).cause else (c.ssp (b - 24)).cause) + 2 ^ 12 + flagAt (c.port (busPort b)).oc 13
    else 0
  | none =>
    let v := Tbl.get 0 (c.inst n).portViews s.toNat
    if bitAt v 12 then v.toNat else 0

/-- SYNCED of MF_NOW (R121). -/
def Chip.synced (c : Chip) : Bool := c.boot.ready && (!c.fab.valid || c.fab.locked || c.fab.role == 2)

/-- RING_STS (R50). -/
def Inst.ringSts (x : Inst) : Nat :=
  flagAt x.cmdHalted 0 + flagAt (!x.cmds.isEmpty) 1 + flagAt (x.cring 0).halted 2 + flagAt x.evtOvf 3 + flagAt x.dbErr 4
    + 2 ^ 16 * x.evtHeld

/-- HUDDLE_CTL[k] (R81); those above 7 of a COMPAT instance read as zero (R88). -/
def Inst.hudReg (x : Inst) (k : Nat) : Nat :=
  let h := x.hud k
  if x.compat ∧ 8 ≤ k then 0
  else h.count.toNat + 2 ^ 8 * h.time.toNat + flagAt h.urgent 24 + flagAt h.idleCancel 25 + flagAt (x.cring k).timer 31

/-- MBOX_STS (R280). -/
def Mbox.sts (m : Mbox) : Nat := m.code.toNat + flagAt m.busy 8 + flagAt m.done 9 + flagAt m.overrun 10 + flagAt m.ie 11

/-- A channel register (R288). -/
def Chan.reg (h : Chan) (off : Nat) : Nat :=
  if off = 0 then h.vector.toNat + flagAt h.ie 6 + 2 ^ 8 * h.hopLimit.toNat
  else if off = 8 then h.sts.toNat
  else if off = 0xC then fld h.desc 31 0
  else if off = 0x10 then fld h.desc 63 32
  else if off = 0x14 then fld h.errAddr 31 0
  else if off = 0x18 then fld h.errAddr 63 32
  else if off = 0x1C then h.lastRes.toNat + 2 ^ 24 * h.lastCode.toNat
  else 0

/-- A word of an instance's page; that of an absent instance reads as zero but for INST_ID (R235). -/
def Chip.pageWord (c : Chip) (n off : Nat) : Nat :=
  let x := c.inst n
  if off = 0 then n + 2 ^ 8 * c.nodeNo + 2 ^ 12 * c.instLink n + flagAt (c.isPf n) 13
  else if x.st = .absent then 0
  else if off = 4 then x.gen.toNat
  else if off = 8 then flagAt x.compat 0
  else if off = 0xC then x.st.code + flagAt x.escalated 3
  else if 0x10 ≤ off ∧ off < 0x1C then x.quota.words.getD ((off - 0x10) / 4) 0
  else if off = 0x100 then fld x.cmdBase 31 0
  else if off = 0x104 then fld x.cmdBase 63 32
  else if off = 0x108 then x.cmdLog2 + flagAt x.cmdEn 31
  else if off = 0x110 then fld x.cring0Base 31 0
  else if off = 0x114 then fld x.cring0Base 63 32
  else if off = 0x118 then (x.cring 0).log2 + flagAt (x.cring 0).live 31
  else if off = 0x120 then x.ringSts
  else if off = 0x128 then fld x.errAddr 31 0
  else if off = 0x12C then fld x.errAddr 63 32
  else if off = 0x130 then c.mf.toNat + 2 ^ 16 * min c.usNow 124 + flagAt c.synced 23
  else if off = 0x140 then x.portSel.toNat
  else if off = 0x144 then c.portView n
  else if off = 0x150 then fld x.stsBase 31 0 + flagAt x.stsEn 0
  else if off = 0x154 then fld x.stsBase 63 32
  else if 0x200 ≤ off ∧ off < 0x300 then x.hudReg ((off - 0x200) / 4)
  else if off = 0x404 then x.mbox.sts
  else if 0x440 ≤ off ∧ off < 0x460 then (Tbl.get 0 x.mbox.req ((off - 0x440) / 4)).toNat
  else if 0x480 ≤ off ∧ off < 0x4C0 then (Tbl.get 0 x.mbox.rsp ((off - 0x480) / 4)).toNat
  else if 0x2000 ≤ off then
    (if (off - 0x2000) / 32 < c.chanCount n then (x.chan ((off - 0x2000) / 32)).reg (off % 32) else 0)
  else 0

/-- A half of a 64-bit register, with its reserved low bits dropped. -/
def setLo (a : Addr) (v : Word) (low : Nat) : Addr := BitVec.ofNat 64 (2 ^ 32 * fld a 63 32 + v.toNat / 2 ^ low * 2 ^ low)
def setHi (a : Addr) (v : Word) : Addr := BitVec.ofNat 64 (2 ^ 32 * v.toNat + fld a 31 0)

/-- A write of a channel register (R288, R289, R293). -/
def Chip.chanSet (c : Chip) (n k off : Nat) (v : Word) : Chip :=
  let upd (f : Chan → Chan) : Chip := c.updInst n (fun x => { x with chans := Tbl.upd {} x.chans k f })
  if c.chanCount n ≤ k then c
  else if off = 4 then c.chCmd n k v
  else if off = 0 then
    upd (fun h => { h with
      vector := BitVec.ofNat 6 v.toNat, ie := bitAt v 6
      hopLimit := if h.st ≠ .idle ∨ fld v 23 8 = 0 then h.hopLimit else BitVec.ofNat 16 (fld v 23 8) })
  else if off = 8 then upd (fun h => { h with cmdErr := h.cmdErr && !bitAt v 3 })
  else if off = 0xC then upd (fun h => if h.st = .idle then { h with desc := setLo h.desc v 5 } else h)
  else if off = 0x10 then upd (fun h => if h.st = .idle then { h with desc := setHi h.desc v } else h)
  else c

/-- INST_CTL_WRITE (R84): the bit changes only while nothing uses the rings; a COMPAT instance is no member of a share
group (R272). -/
def Chip.instCtl (c : Chip) (n : Nat) (v : Word) : Chip :=
  let x := c.inst n
  if !x.pageOn || x.compat == bitAt v 0 || !x.compatFree then c
  else if bitAt v 0 then c.memberGone n (fun c => c.updInst n (fun x => { x with compat := true }))
  else c.updInst n (fun x => { x with compat := false })

/-- What firmware alone writes of a page (R280, R312): the mailbox's response, its CODE and DONE. -/
def Chip.pageFirmware (c : Chip) (n off : Nat) (v : Word) : Chip :=
  if off = 0x404 then (if bitAt v 9 then c.mboxDone n (BitVec.ofNat 8 v.toNat) none
      else c.updMbox n (fun m => { m with code := BitVec.ofNat 8 v.toNat }))
  else if 0x480 ≤ off ∧ off < 0x4C0 then c.updMbox n (fun m => { m with rsp := Tbl.set 0 m.rsp ((off - 0x480) / 4) v })
  else c

/-- A write of a word of an instance's page; `fw`: a Fielder writes it. -/
def Chip.pageSet (c : Chip) (n off : Nat) (v : Word) (fw : Bool) : Chip :=
  let x := c.inst n
  if !x.pageOn then c
  else if fw && (off == 0x404 || decide (0x480 ≤ off ∧ off < 0x4C0)) then c.pageFirmware n off v
  else if off = 8 then c.instCtl n v
  else if off = 0x100 then c.updInst n (fun x => if x.cmdEn then x else { x with cmdBase := setLo x.cmdBase v 6 })
  else if off = 0x104 then c.updInst n (fun x => if x.cmdEn then x else { x with cmdBase := setHi x.cmdBase v })
  else if off = 0x108 then c.cmdSize n v
  else if off = 0x110 then c.updInst n (fun x => if (x.cring 0).live then x else { x with cring0Base := setLo x.cring0Base v 6 })
  else if off = 0x114 then c.updInst n (fun x => if (x.cring 0).live then x else { x with cring0Base := setHi x.cring0Base v })
  else if off = 0x118 then c.cringSize n v
  else if off = 0x120 then c.updInst n (fun x => { x with evtOvf := x.evtOvf && !bitAt v 3, dbErr := x.dbErr && !bitAt v 4 })
  else if off = 0x140 then c.updInst n (fun x => { x with portSel := BitVec.ofNat 16 v.toNat })
  else if off = 0x150 then
    c.updInst n (fun x => if 0 < x.chanUse then x else { x with stsBase := setLo x.stsBase v 6, stsEn := bitAt v 0 })
  else if off = 0x154 then c.updInst n (fun x => if 0 < x.chanUse then x else { x with stsBase := setHi x.stsBase v })
  else if 0x200 ≤ off ∧ off < 0x300 then c.huddleCtl n ((off - 0x200) / 4) v
  else if off = 0x400 then c.mboxCmd n (fld v 7 0)
  else if off = 0x404 then
    c.updMbox n (fun m => { m with done := m.done && !bitAt v 9, overrun := m.overrun && !bitAt v 10, ie := bitAt v 11 })
  else if 0x440 ≤ off ∧ off < 0x460 then c.updMbox n (fun m => { m with req := Tbl.set 0 m.req ((off - 0x440) / 4) v })
  else if 0x2000 ≤ off ∧ off < 0x4000 then c.chanSet n ((off - 0x2000) / 32) (off % 32) v
  else c

/-! ### Setup registers: reads -/

/-- A port register group (R198 to R205). -/
def Chip.portWord (c : Chip) (p r : Nat) : Nat :=
  if r = 0 then c.stat p
  else if r = 4 then (c.port p).pm
  else if r = 8 then c.portOc p
  else if r = 0xC then (c.port p).errs
  else if 8 ≤ p then 0
  else if r = 0x10 then c.stat (24 + p)
  else if r = 0x14 then (c.ssp p).errs
  else if r = 0x18 then (c.ssp p).pm
  else 0

/-- A share group's register (R272). -/
def Chip.shareWord (c : Chip) (g r : Nat) : Nat :=
  if r = 0 then (c.share g).ctl.toNat
  else if r = 4 then (c.share g).mem0.toNat
  else if r = 8 then (c.share g).mem1.toNat
  else c.shareSts g

/-- The power registers (R372, R373, R391). -/
def Chip.pwrWord (c : Chip) (off : Nat) : Nat :=
  let p := c.pwr
  match off with
  | 0xC00 => p.mode
  | 0xC04 => p.sts
  | 0xC08 => p.refuse1.toNat + 2 ^ 16 * p.refuse2.toNat
  | 0xC0C => p.refLast
  | 0xC10 => p.wakeEn.toNat + 2 ^ 9
  | 0xC14 => p.wakeLast
  | 0xC18 => flagAt p.held 0 + flagAt p.autoRetain 1
  | 0xC20 => p.freq.toNat + 2 ^ 4 * p.vmin.toNat
  | 0xC24 => p.dvfsSts
  | 0xC28 => p.wakeTime.toNat
  | 0xC2C => p.wakeGpio.toNat
  | 0xC30 => p.slTimer.toNat
  | 0xC34 => p.slTime.toNat
  | 0xC38 => p.thermCtl
  | 0xC3C => p.thermSts
  | _ => 0

/-- The scheduling registers (R127, R165, R189, R190, R193). -/
def Chip.schedWord (c : Chip) (off : Nat) : Nat :=
  if off < 0x1100 then
    match codeBus ((off - 0x1000) / 4) with
    | some b => (c.bus b).ctl
    | none => 0
  else if off = 0x1300 then c.cap.refSel.toNat
  else if 0x1304 ≤ off ∧ off < 0x1314 then (Tbl.get 0 c.cap.refData ((off - 0x1304) / 4)).toNat
  else if 0x1360 ≤ off ∧ off < 0x1374 then (c.rallyClass ((off - 0x1360) / 4)).reg
  else if off = 0x1380 then c.cap.lineupSel.toNat
  else if off = 0x1384 then c.lineupData.toNat
  else if off = 0x1400 then c.cap.sbCtl
  else if off = 0x1404 then c.cap.sbSts
  else if off = 0x1408 then c.cap.sbSel.toNat
  else if 0x1410 ≤ off ∧ off < 0x1450 then (Tbl.get 0 c.cap.sbData ((off - 0x1410) / 4)).toNat
  else 0

/-- The Carry and fabric registers (R310, R353 to R355). -/
def Chip.carryWord (c : Chip) (off : Nat) : Nat :=
  if off = 0x2000 then c.carryGctl.toNat
  else if off = 0x2004 then c.carryGsts.toNat
  else if 0x2010 ≤ off ∧ off < 0x2030 then (c.carryBits ((off - 0x2010) / 4) (fun s => s != .idle)).toNat
  else if 0x2030 ≤ off ∧ off < 0x2050 then (c.carryBits ((off - 0x2030) / 4) (fun s => s == .halted)).toNat
  else if off = 0x2050 then c.cap.carrySel.toNat
  else if off = 0x2054 then c.cap.carryData.toNat
  else if off = 0x3000 then c.fab.ctl
  else if off = 0x3004 then c.fab.sts
  else if off = 0x3008 then c.fab.nodeReg
  else if off = 0x3010 ∨ off = 0x3014 then (c.fabPort ((off - 0x3010) / 4)).reg
  else if off = 0x3018 ∨ off = 0x301C then (c.fabPort ((off - 0x3018) / 4)).errs
  else if off = 0x3020 then c.fab.time
  else if 0x3040 ≤ off ∧ off < 0x3080 then (Tbl.get {} c.fab.routes ((off - 0x3040) / 4) : Route).reg
  else 0

/-- The reliability and Spin registers (R409, R420). -/
def Chip.relWord (c : Chip) (off : Nat) : Nat :=
  if off < 0x4800 then leAt (c.flog ((off - 0x4000) / 32)).bytes (off % 32) 4
  else if off = 0x4800 then c.flogSts.toNat
  else if off = 0x4808 then c.rel.ce.toNat + 2 ^ 16 * c.rel.ue.toNat
  else if off = 0x4810 then c.rel.ctl
  else if off = 0x4814 then c.rel.sts
  else if off = 0x4818 then c.repairSts
  else if off = 0x481C then c.rel.laneDown.toNat
  else if 0x4840 ≤ off ∧ off < 0x4880 then c.eccCnt ((off - 0x4840) / 4)
  else if off = 0x5004 then flagAt c.spin.unlocked 0 + flagAt c.spin.active 1
  else if off = 0x5010 then c.spin.dma.toNat
  else if off = 0x5014 then c.spin.credit.toNat
  else if off = 0x5018 then c.spin.nak.toNat
  else if off = 0x501C then c.spin.fab.toNat
  else if off = 0x5020 then c.spin.sof.toNat
  else if off = 0x5024 then c.spin.ecc.toNat
  else if off = 0x5028 then c.spin.refuse.toNat
  else 0

/-- Identity, loader, manager and service registers (R25, R42, R84, R115, R241, R257, R263, R272, R423, R424). -/
def Chip.baseWord (c : Chip) (off : Nat) : Nat :=
  if 0x480 ≤ off ∧ off < 0x4E0 then (c.port ((off - 0x480) / 4)).svc.toNat
  else if 0x500 ≤ off ∧ off < 0x580 then c.shareWord ((off - 0x500) / 16) (off % 16)
  else
    match off with
    | 0x000 => Config.chipId.toNat
    | 0x004 => Config.stepping.toNat
    | 0x008 => Config.caps0.toNat
    | 0x00C => Config.caps1.toNat
    | 0x010 => fld Config.uid 31 0
    | 0x014 => fld Config.uid 63 32
    | 0x100 => flagAt c.cap.uartEn 0 + 2 ^ 16 * c.cap.scratch.toNat
    | 0x104 => c.gsts
    | 0x108 => flagAt c.cap.compatDefault 0
    | 0x200 => c.fw.ctl
    | 0x204 => c.fwSts
    | 0x208 => fld c.fw.addr 31 0
    | 0x20C => fld c.fw.addr 63 32
    | 0x210 => c.fw.len.toNat
    | 0x404 => c.mgr.arg0.toNat
    | 0x408 => c.mgr.arg1.toNat
    | 0x40C => c.mgr.arg2.toNat
    | 0x410 => c.mgr.arg3.toNat
    | 0x414 => c.mgr.sts
    | 0x420 => c.link0.host
    | 0x424 => c.link1.host
    | 0x428 => c.linkSts
    | 0x430 => c.cap.poolSel.toNat
    | 0x434 => (Tbl.get 0 c.cap.poolData 0).toNat
    | 0x438 => (Tbl.get 0 c.cap.poolData 1).toNat
    | 0x43C => (Tbl.get 0 c.cap.poolData 2).toNat
    | 0x440 => (Tbl.get 0 c.cap.poolData 3).toNat
    | 0xB20 => c.cap.deglitch.toNat
    | 0xB40 => flagAt c.pass.hubEn 0 + flagAt c.pass.ssEn 1
    | 0xB44 => c.pass.sts
    | 0xB48 => c.passMap
    | 0xB4C => c.pass.vid.toNat
    | 0xB50 => c.pass.pidHs.toNat + 2 ^ 16 * c.pass.pidSs.toNat
    | _ => 0

/-- A word of PF BAR0 (R422); FW_WINDOW shows the staging memory. -/
def State.setupWord (s : State) (off : Nat) : Nat :=
  let c := s.chip
  if 0xC000 ≤ off then c.pageWord 0 (off - 0xC000)
  else if 0x8000 ≤ off then
    (if c.fw.winPage.toNat < 80 then s.stage.num (c.fw.winPage.toNat * 16384 + (off - 0x8000)) 4 else 0)
  else if 0x4000 ≤ off then c.relWord off
  else if 0x2000 ≤ off then c.carryWord off
  else if 0x1000 ≤ off then c.schedWord off
  else if 0xC00 ≤ off then c.pwrWord off
  else if 0xB00 ≤ off ∧ off < 0xB18 then c.ocMapReg ((off - 0xB00) / 4)
  else if 0x800 ≤ off ∧ off < 0xB00 then c.portWord ((off - 0x800) / 32) (off % 32)
  else c.baseWord off

/-! ### Setup registers: writes by the manager -/

/-- MGR_CMD (R115 to R118). -/
def Chip.mgrOp (c : Chip) (m : Memory) (w : Writer) (op : Nat) : Chip :=
  if op = 1 then c.mgrCreate w
  else if op = 2 then c.mgrResize w
  else if op = 3 then c.mgrDestroy w
  else if op = 4 then c.mgrReset w
  else if op = 5 then c.mgrAssignPort w
  else if op = 6 then c.mgrAssignDevice w
  else if op = 7 then c.mgrRates w
  else if op = 8 then c.mgrWeight w
  else if op = 9 then c.fwLoad w
  else if op = 10 then c.fwSwap m w
  else if op = 11 then c.mgrFreeze w
  else if op = 12 then c.mgrChipReset w
  else c.mgrReserved w

/-- FW_CTL (R42). -/
def Chip.fwCtl (c : Chip) (v : Word) : Chip :=
  let c := { c with fw := { c.fw with
    winPage := if fld v 6 0 < 80 then BitVec.ofNat 7 v.toNat else c.fw.winPage
    drainTo := if fld v 15 8 = 0 then c.fw.drainTo else BitVec.ofNat 8 (fld v 15 8)
    svnCommit := bitAt v 16 } }
  if bitAt v 17 then c.fwDiscard else c

/-- MGR_STS (R115). -/
def Mgr.setSts (m : Mgr) (v : Word) : Mgr :=
  { m with done := m.done && !bitAt v 9, overrun := m.overrun && !bitAt v 10, ie := bitAt v 11 }

/-- HOST_LINKn: POLICY 3 is reserved (R257). -/
def Link.setHost (k : Link) (v : Word) : Link :=
  if fld v 1 0 = 3 then k
  else { k with policy := BitVec.ofNat 2 v.toNat, delayCfg := BitVec.ofNat 8 (fld v 15 8), target := BitVec.ofNat 7 (fld v 22 16) }

/-- LINK_STS (R257). -/
def Chip.setLinkSts (c : Chip) (v : Word) : Chip :=
  { c with
    link0 := { c.link0 with chg := c.link0.chg && !bitAt v 2, acted := c.link0.acted && !bitAt v 4 }
    link1 := { c.link1 with chg := c.link1.chg && !bitAt v 3, acted := c.link1.acted && !bitAt v 5 }
    cap := { c.cap with linkIe := bitAt v 6 } }

/-- A write of a port register group: PORT_STAT and SSP_STAT clear change bits, SSPPM (R201, R205). -/
def Chip.portSet (c : Chip) (p r : Nat) (v : Word) : Chip :=
  let clr : BitVec 7 := ~~~(BitVec.ofNat 7 (fld v 30 24))
  if r = 0 then c.updPort p (fun q => { q with chg := q.chg &&& clr })
  else if 8 ≤ p then c
  else if r = 0x10 then c.updSsp p (fun q => { q with chg := q.chg &&& clr })
  else if r = 0x18 then
    (if fld v 15 8 = 255 then c
    else c.updSsp p (fun q => { q with u1 := BitVec.ofNat 7 v.toNat, u2 := BitVec.ofNat 8 (fld v 15 8), acceptDev := bitAt v 16 }))
  else c

/-- THERM_CTL: its ranges (R373). -/
def thermOk (v : Word) : Bool :=
  let h := fld v 7 0
  decide (60 ≤ h) && decide (h ≤ 125) && decide (fld v 15 8 + 5 ≤ h) && decide (h ≤ fld v 23 16) && decide (fld v 23 16 ≤ 134)

/-- The power registers (R372, R373, R389, R391); TARGET and SLEEP_OK may make a node ask for fabric sleep (R369). -/
def Chip.pwrSet (c : Chip) (w : Writer) (off : Nat) (v : Word) : Chip :=
  match off with
  | 0xC00 => (c.pwrMode w v).askSleep
  | 0xC10 => { c with pwr := { c.pwr with wakeEn := BitVec.ofNat 9 v.toNat } }
  | 0xC18 => { c with pwr := { c.pwr with autoRetain := bitAt v 1 } }
  | 0xC1C => c.padRelease v
  | 0xC20 => c.dvfsCtl v
  | 0xC24 => if bitAt v 11 then { c with pwr := { c.pwr with vrdyTo := false } } else c
  | 0xC2C => { c with pwr := { c.pwr with wakeGpio := v } }
  | 0xC30 => { c with pwr := { c.pwr with slTimer := v } }
  | 0xC38 =>
    if thermOk v then
      { c with pwr := { c.pwr with
        high := BitVec.ofNat 8 v.toNat, low := BitVec.ofNat 8 (fld v 15 8), warn := BitVec.ofNat 8 (fld v 23 16) } }
    else c
  | 0xC3C => if bitAt v 12 then { c with pwr := { c.pwr with tripped := false } } else c
  | _ => c

/-- REF_BUS_CTL (R189). -/
def Chip.busCtl (c : Chip) (b : Nat) (v : Word) : Chip :=
  if fld v 27 18 = 0 ∨ (b < 24 ∧ fld v 17 16 = 3) then c
  else
    c.updBus b (fun x => { x with
      ovhPkt := BitVec.ofNat 8 v.toNat, ovhTxn := BitVec.ofNat 8 (fld v 15 8)
      stuff := if b < 24 then BitVec.ofNat 2 (fld v 17 16) else 0
      cweight := BitVec.ofNat 10 (fld v 27 18) })

/-- RALLY_CLASSk (R165). -/
def Chip.rallySet (c : Chip) (k : Nat) (v : Word) : Chip :=
  let start := fld v 9 0
  let top := fld v 19 10
  if start = 0 ∨ 1000 < start ∨ 1000 < top ∨ top < start ∨ 1000 < fld v 30 21 then c
  else
    let r : RallyClass := {
      start := BitVec.ofNat 10 start, max := BitVec.ofNat 10 top, linear := bitAt v 20, inc := BitVec.ofNat 10 (fld v 30 21) }
    { c with rally := Tbl.set (rallyReset k) c.rally k r }

/-- LINEUP_SEL (R127): a BUS that does not exist leaves that field. -/
def Chip.lineupSelect (c : Chip) (v : Word) : Chip :=
  let b := if (codeBus (fld v 13 8)).isSome then fld v 13 8 else fld c.cap.lineupSel 13 8
  { c with cap := { c.cap with lineupSel := toWord (fld v 7 0 + 2 ^ 8 * b + 2 ^ 14 * fld v 23 14) } }

/-- SB_CTL (R193). -/
def Chip.sbCtlSet (c : Chip) (v : Word) : Chip :=
  let c := { c with cap := { c.cap with sbK := if 10 < fld v 3 0 then c.cap.sbK else BitVec.ofNat 4 v.toNat, sbEn := bitAt v 4 } }
  if bitAt v 5 then c.sbClear else c

def Chip.schedSet (c : Chip) (off : Nat) (v : Word) : Chip :=
  if off < 0x1100 then
    match codeBus ((off - 0x1000) / 4) with
    | some b => c.busCtl b v
    | none => c
  else if off = 0x1300 then c.refSelect v
  else if 0x1360 ≤ off ∧ off < 0x1374 then c.rallySet ((off - 0x1360) / 4) v
  else if off = 0x1380 then c.lineupSelect v
  else if off = 0x1400 then c.sbCtlSet v
  else if off = 0x1408 then c.sbSelect v
  else c

def Chip.carrySet (c : Chip) (off : Nat) (v : Word) : Chip :=
  if off = 0x2000 then c.carryGctlSet v
  else if off = 0x2050 then c.carrySel v
  else if off = 0x3000 then c.fabCtl v
  else if off = 0x3008 then c.fabNode v
  else if off = 0x3010 ∨ off = 0x3014 then
    (if bitAt v 5 then c.updFab ((off - 0x3010) / 4) (fun p => { p with tapSeen := false }) else c)
  else c

/-- A field of a Spin register with reserved encodings: kept where the value is one of them (R6). -/
def keepField (old v : Word) (hi lo : Nat) (ok : Nat → Bool) : Nat := if ok (fld v hi lo) then fld v hi lo else fld old hi lo

/-- The perturbation registers (R420). SPIN_CREDIT and SPIN_FAB begin at the write. -/
def Spin.set (s : Spin) (off : Nat) (v : Word) : Spin :=
  match off with
  | 0x5010 => { s with dma := toWord (fld v 23 0) }
  | 0x5014 => { s with credit := toWord (fld v 12 0 + 2 ^ 16 * fld v 31 16), holding := s.holding || fld v 11 0 != 0 }
  | 0x5018 => { s with nak := toWord (keepField s.nak v 5 0 (fun b => decide (b < 24)) + 2 ^ 8 * fld v 15 8), nakCnt := 0 }
  | 0x501C =>
    let tc := keepField s.fab v 1 0 (fun t => decide (t < 3))
    { s with
      fab := toWord (tc + 2 ^ 2 * fld v 2 2 + 2 ^ 8 * fld v 15 8 + 2 ^ 16 * fld v 31 16)
      fabHold := if fld v 15 8 = 0 then none else some (fld v 2 2, tc, fld v 15 8) }
  | 0x5020 => { s with sof := toWord (keepField s.sof v 5 0 (fun b => (codeBus b).isSome) + 2 ^ 8 * fld v 13 8) }
  | 0x5024 =>
    { s with ecc := toWord (fld v 20 0 + 2 ^ 21 * keepField s.ecc v 26 21 (fun b => decide (b < 39)) + 2 ^ 27 * fld v 28 27
      + 2 ^ 29 * (if bitAt v 29 || bitAt s.ecc 29 then 1 else 0)) }
  | 0x5028 =>
    let block := keepField s.refuse v 5 0 (fun b => decide (b < 0x2F))
    let phase := keepField s.refuse v 7 6 (fun p => p == 1 || p == 2)
    { s with refuse := toWord (block + 2 ^ 6 * phase + 2 ^ 8 * fld v 15 8) }
  | _ => s

/-- REPLAY_CTL (R409). -/
def Chip.replayCtl (c : Chip) (v : Word) : Chip :=
  if fld v 15 8 = 0 then c
  else
    { c with rel := { c.rel with
      auto := bitAt v 0, otpCommit := bitAt v 1, laneTh := BitVec.ofNat 8 (fld v 15 8), scrub := BitVec.ofNat 8 (fld v 23 16) } }

def Chip.relSet (c : Chip) (off : Nat) (v : Word) : Chip :=
  match off with
  | 0x4804 => c.flogAck (fld v 6 0)
  | 0x4808 =>
    { c with rel := { c.rel with ce := c.rel.ce &&& ~~~(BitVec.ofNat 16 v.toNat), ue := c.rel.ue &&& ~~~(BitVec.ofNat 16 (fld v 31 16)) } }
  | 0x4810 => c.replayCtl v
  | 0x5000 => c.spinKey v false
  | 0x5004 => if bitAt v 2 then c.spinLock else c
  | _ => c.spinSet (fun s => s.set off v)

def Chip.baseSet (c : Chip) (m : Memory) (w : Writer) (off : Nat) (v : Word) : Chip :=
  if 0x480 ≤ off ∧ off < 0x4E0 then c.svcPort ((off - 0x480) / 4) v
  else if 0x500 ≤ off ∧ off < 0x580 then
    (if off % 16 = 0 then c.shareCtl ((off - 0x500) / 16) v
    else if off % 16 = 4 then c.shareMem ((off - 0x500) / 16) false v
    else if off % 16 = 8 then c.shareMem ((off - 0x500) / 16) true v
    else c)
  else
    match off with
    | 0x100 => { c with cap := { c.cap with uartEn := bitAt v 0, scratch := BitVec.ofNat 16 (fld v 31 16) } }
    | 0x108 => { c with cap := { c.cap with compatDefault := bitAt v 0 } }
    | 0x200 => c.fwCtl v
    | 0x208 => { c with fw := { c.fw with addr := setLo c.fw.addr v 6 } }
    | 0x20C => { c with fw := { c.fw with addr := setHi c.fw.addr v } }
    | 0x210 => { c with fw := { c.fw with len := BitVec.ofNat 21 (fld v 20 6 * 64) } }
    | 0x400 => if fld v 31 8 = 0 then c.mgrOp m w (fld v 7 0) else c.mgrReserved w
    | 0x404 => { c with mgr := { c.mgr with arg0 := v } }
    | 0x408 => { c with mgr := { c.mgr with arg1 := v } }
    | 0x40C => { c with mgr := { c.mgr with arg2 := v } }
    | 0x410 => { c with mgr := { c.mgr with arg3 := v } }
    | 0x414 => { c with mgr := c.mgr.setSts v }
    | 0x420 => { c with link0 := c.link0.setHost v }
    | 0x424 => { c with link1 := c.link1.setHost v }
    | 0x428 => c.setLinkSts v
    | 0x430 => c.poolSelect v
    | 0xB20 => if 16 < fld v 4 0 then c else { c with cap := { c.cap with deglitch := BitVec.ofNat 5 v.toNat } }
    | 0xB40 => c.passCtl v
    | 0xB4C => if c.pass.attached then c else { c with pass := { c.pass with vid := BitVec.ofNat 16 v.toNat } }
    | 0xB50 =>
      if c.pass.attached then c
      else { c with pass := { c.pass with pidHs := BitVec.ofNat 16 v.toNat, pidSs := BitVec.ofNat 16 (fld v 31 16) } }
    | _ => c

/-- A write of a setup register below FW_WINDOW by a writer that may. -/
def Chip.setupSet (c : Chip) (m : Memory) (w : Writer) (off : Nat) (v : Word) : Chip :=
  if 0x4000 ≤ off then c.relSet off v
  else if 0x2000 ≤ off then c.carrySet off v
  else if 0x1000 ≤ off then c.schedSet off v
  else if 0xC00 ≤ off then c.pwrSet w off v
  else if 0xB00 ≤ off ∧ off < 0xB18 then c.ocMap ((off - 0xB00) / 4) v
  else if 0x800 ≤ off ∧ off < 0xB00 then c.portSet ((off - 0x800) / 32) (off % 32) v
  else c.baseSet m w off v

/-! ### Whole accesses -/

/-- FW_WINDOW (R37): a write while the loader works is discarded, and one after an image is staged takes STAGED back
(log entry 4). -/
def State.windowSet (s : State) (off : Nat) (v : Word) : State :=
  let c := s.chip
  if c.fw.busy ∨ 80 ≤ c.fw.winPage.toNat then s
  else
    { s with
      stage := s.stage.store (c.fw.winPage.toNat * 16384 + off % 16384 / 4 * 4) (leBytes 4 v.toNat)
      chip := { c with fw := { c.fw with staged := false, halted := false } } }

/-- A 32-bit write of PF BAR0 (R234, R242, R422): the page of PF0, or a setup register, which only the manager writes. Any of
them but SPIN_KEY ends the sequence of R419. -/
def State.setupWrite (s : State) (w : Writer) (off : Nat) (v : Word) : State :=
  let c := if off = 0x5000 then s.chip else s.chip.spinBreak
  let s := { s with chip := c }
  if 0xC000 ≤ off then { s with chip := c.pageSet 0 (off - 0xC000) v (match w with | .fielder _ => true | _ => false) }
  else if !c.isMgr w then s
  else if 0x8000 ≤ off then s.windowSet (off - 0x8000) v
  else s.put (c.setupSet s.stage w off v)

/-- A doorbell (R52). -/
def Chip.doorbell (c : Chip) (n : Nat) (v : Word) : Chip :=
  if bitAt v 15 then c.doorbellC n (fld v 14 0) (fld v 31 16) else c.doorbellP n (fld v 14 0) (fld v 31 16)

/-- A write of the MSI-X table in BAR4 (R83, R425). Entries that the instance's quota does not reach, all 64 where it is ABSENT, are
stored and have no effect (R234). -/
def Chip.msixSet (c : Chip) (n off : Nat) (v : Word) : Chip :=
  if 0x400 ≤ off then c
  else
    let upd (f : Msix → Msix) : Chip := c.updInst n (fun x => { x with msix := Tbl.upd {} x.msix (off / 16) f })
    match off % 16 with
    | 0 => upd (fun m => { m with addr := setLo m.addr v 2 })
    | 4 => upd (fun m => { m with addr := setHi m.addr v })
    | 8 => upd (fun m => { m with data := v })
    | _ => if bitAt v 0 then upd (fun m => { m with mask := true }) else c.unmask n (some (off / 16))

/-- The function mask of the MSI-X capability (PCI Express; log entry 22). -/
def Chip.msixControl (c : Chip) (n : Nat) (v : Word) : Chip :=
  if (c.inst n).st = .absent then c
  else if bitAt v 14 then c.updInst n (fun x => { x with fmask := true })
  else c.unmask n none

/-- PF0's configuration space: ESC_KEY and ESC_CMD of the capability at 0x400 (R245, R426). Any other configuration write
comes between the two. -/
def State.configWrite (s : State) (off : Nat) (v : Word) : State :=
  if off = 0x408 then { s with chip := { s.chip with smb := { s.chip.smb with escKeyed := decide (v = Config.escKey) } } }
  else if off = 0x40C then s.put (s.chip.escCmd v)
  else { s with chip := { s.chip with smb := { s.chip.smb with escKeyed := false } } }

/-- Bytes of a function's BAR (R234); 6 stands for its MSI-X Message Control, 7 for PF0's configuration space. -/
def Chip.barSize (c : Chip) (n : Nat) (bar : Nat) : Nat :=
  match bar with
  | 0 => if c.isPf n then 0x10000 else 0x4000
  | 2 => 0x1000
  | 4 => 0x1000
  | 6 => 4
  | 7 => if n = 0 then 0x1000 else 0
  | _ => 0

/-- A 32-bit write by a function's host. -/
def State.hostWord (s : State) (n : Fin 128) (bar off : Nat) (v : Word) : State :=
  let c := s.chip
  match bar with
  | 0 =>
    if n.val = 0 then s.setupWrite (.fn 0) off v
    else if c.isPf n.val then (if 0xC000 ≤ off then { s with chip := c.pageSet n.val (off - 0xC000) v false } else s)
    else { s with chip := c.pageSet n.val off v false }
  | 2 => if off = 0 then { s with chip := c.doorbell n.val v } else s
  | 4 => { s with chip := c.msixSet n.val off v }
  | 6 => { s with chip := c.msixControl n.val v }
  | _ => s.configWrite off v

/-- A write by a function's host: 64 bits act as the low half and then the high half; anything narrower than 32 bits, or not
aligned, is discarded (R4). -/
def State.hostWrite (s : State) (n : Fin 128) (bar off : Nat) (v : BitVec 64) (size : Nat) : State :=
  if off % 4 ≠ 0 then s
  else if size = 4 then s.hostWord n bar off (BitVec.ofNat 32 v.toNat)
  else if size = 8 then (s.hostWord n bar off (BitVec.ofNat 32 v.toNat)).hostWord n bar (off + 4) (BitVec.ofNat 32 (v.toNat / 2 ^ 32))
  else s

/-- A Fielder's store to a register of its own, of the engine block or of the Whistle (R320, R322, R325). -/
def Chip.fielderReg (c : Chip) (f a : Nat) (v : Word) : Chip :=
  if a < 0x10010000 then
    let o := a - 0x10000000
    if o < 0x800 then c.wsrcCfg f (o / 4) v
    else if o < 0x1000 then c.wvec f false ((o - 0x800) / 4) v
    else if o < 0x1800 then c.wvec f true ((o - 0x1000) / 4) v
    else if 0x2000 ≤ o ∧ o < 0x2040 then c.wpendSet f ((o - 0x2000) / 4) v
    else if 0x2040 ≤ o ∧ o < 0x2080 then c.wpendClr f ((o - 0x2040) / 4) v
    else if 0x2100 ≤ o ∧ o < 0x2180 then c.wgrp f ((o - 0x2100) / 4) v
    else if o = 0x2180 then c.wsts f v
    else c
  else
    match a with
    | 0x10010004 => c.ftimerSet f v
    | 0x1001000C => c.fready f v
    | 0x10010010 => c.fwdogSet f v
    | 0x10020180 => c.flockFree f v
    | _ => c

/-- Ranges that a Fielder may store to (R311). -/
def fielderMay (a : Nat) : Bool :=
  (decide (0x10000 ≤ a) && decide (a < 0x20000)) || (decide (0x80000 ≤ a) && decide (a < 0x100000))
    || (decide (0x10000000 ≤ a) && decide (a < 0x10010100)) || (decide (0x10020000 ≤ a) && decide (a < 0x10020200))
    || (decide (0x20000000 ≤ a) && decide (a < 0x20010000)) || (decide (0x21000000 ≤ a) && decide (a < 0x21200000))

/-- Where an address of a Fielder's own lies in the Fielder RAM (R311). -/
def fielderRam (f a : Nat) : Option Nat :=
  if a < 0x10000 then some (iramBase f + a)
  else if a < 0x20000 then some (dramBase f + (a - 0x10000))
  else if 0x80000 ≤ a ∧ a < 0x100000 then some (sharedBase + (a - 0x80000))
  else none

/-- A store of an ACTIVE Fielder to its own address space (R311, R312, R315). -/
def State.fielderStore (s : State) (f : Fin 12) (a : Nat) (v : Word) (size : Nat) : State :=
  let c := s.chip
  if (c.fielder f.val).st ≠ .active then s
  else if !fielderMay a then { s with chip := c.fresh.2.exception f.val 7 c.fresh.1 (toWord a) }
  else if a % size ≠ 0 then { s with chip := c.fresh.2.exception f.val 6 c.fresh.1 (toWord a) }
  else
    match fielderRam f.val a with
    | some r => { s with chip := { c with ram := c.ram.store r (leBytes size v.toNat) } }
    | none =>
      if size ≠ 4 then s
      else if a < 0x20000000 then { s with chip := c.fielderReg f.val a v }
      else if a < 0x21000000 then s.setupWrite (.fielder f) (a - 0x20000000) v
      else { s with chip := c.pageSet ((a - 0x21000000) / 0x4000) (a % 0x4000) v true }

/-- The low or the high half of a 64-bit counter is written. -/
def setHalf (n : BitVec 64) (hi : Bool) (v : Word) : BitVec 64 :=
  if hi then BitVec.ofNat 64 (fld n 31 0 + 2 ^ 32 * v.toNat) else BitVec.ofNat 64 (2 ^ 32 * fld n 63 32 + v.toNat)

/-- What a Fielder's write of a CSR does (R314, R316); `none`: it may not write that number. -/
def Chip.csrSet (c : Chip) (f num : Nat) (v : Word) : Option Chip :=
  let upd (g : Fielder → Fielder) : Option Chip := some (c.updFielder f g)
  match num with
  | 0x300 => some ((c.updFielder f (fun x => { x with mpie := bitAt v 7 })).mieSet f (bitAt v 3) (c.fielder f).meie)
  | 0x301 => some c
  | 0x304 => some (c.mieSet f (c.fielder f).mie (bitAt v 11))
  | 0x305 => upd (fun x => { x with mtvec := v &&& ~~~(3 : Word) })
  | 0x340 => upd (fun x => { x with mscratch := v })
  | 0x341 => upd (fun x => { x with mepc := v &&& ~~~(1 : Word) })
  | 0x342 => upd (fun x => { x with mcause := v })
  | 0x343 => upd (fun x => { x with mtval := v })
  | 0x344 => some c
  | 0xB00 => upd (fun x => { x with cycles := setHalf x.cycles false v })
  | 0xB80 => upd (fun x => { x with cycles := setHalf x.cycles true v })
  | 0xB02 => upd (fun x => { x with retired := setHalf x.retired false v })
  | 0xB82 => upd (fun x => { x with retired := setHalf x.retired true v })
  | 0x7C0 => some (c.wthresh f v)
  | 0x7C1 => some (c.wdone f v)
  | 0x7C2 => upd (fun x => { x with wake := x.wake &&& ~~~(BitVec.ofNat 5 v.toNat) })
  | _ => none

/-- A CSR instruction of an ACTIVE Fielder writes a CSR: a number that is not there, or is read-only, raises an illegal instruction
exception (R314, R315); what mtval then holds is open (log entry 2). -/
def State.fielderCsr (s : State) (f : Fin 12) (num : Nat) (v : Word) : State :=
  let c := s.chip
  if (c.fielder f.val).st ≠ .active then s
  else
    match c.csrSet f.val num v with
    | some c => { s with chip := c }
    | none =>
      let pc := c.fresh
      let x := pc.2.fresh
      { s with chip := x.2.exception f.val 2 pc.1 x.1 }

end Sys2Proof.Machine
end

