-- ==== Sys2Proof/Machine/Run.lean ====
section
/-! DEFINITION. How a command acts on the state: its own effect, then everything that can go on because of it. -/

namespace Sys2Proof.Machine

/-- A command that changes the chip. -/
def State.act (s : State) (f : Chip → Chip) : State := { s with chip := (f s.chip).pump }

/-- A command that may also reset the chip, and the staging memory with it (R22). -/
def State.actReset (s : State) (f : Chip → Chip) : State := s.put (f s.chip).pump

/-- What goes on after a register write. -/
def State.settled (s : State) : State := { s with chip := s.chip.pump }

/-- A register in an instance's page: the instance must be one that answers (R84, R236), and the page of PF0 lies in PF BAR0, where
any write ends the sequence of SPIN_KEY (R419). -/
def Chip.page (c : Chip) (n : Nat) (f : Chip → Chip) : Chip :=
  let c := if n = 0 then c.spinBreak else c
  if (c.inst n).pageOn then f c else c

/-- A setup register in PF BAR0: only the manager's write has an effect (R242). -/
def Chip.setup (c : Chip) (w : Writer) (f : Chip → Chip) : Chip := c.spinBreak.byMgr w f

end Sys2Proof.Machine
end

