-- ==== Sys2Proof/Machine/ExecBoot.lean ====
section
/-! DEFINITION. Meanings: power-on, resets, bring-up (R22 to R29, R434, R435). -/

namespace Sys2Proof.Machine

/-- POWER_ON (R22, R434): power-on reset ends, everything is cleared and the straps are latched. -/
def execPowerOn (straps : StrapPins) (s : State) : Host.Outcome State Fault Refusal :=
  .next (s.actReset (fun c => c.powerUp straps))

/-- RESET_ASSERT (R22, R389). -/
def execResetAssert (s : State) : Host.Outcome State Fault Refusal :=
  .next (s.actReset (fun c => c.resetLow))

/-- RESET_RELEASE (R22, R23, R26 step 1). -/
def execResetRelease (straps : StrapPins) (s : State) : Host.Outcome State Fault Refusal :=
  .next (s.actReset (fun c => c.resetHigh straps))

/-- PWRGD_IN_LOW (R435). -/
def execPwrgdInLow (s : State) : Host.Outcome State Fault Refusal :=
  .next (s.actReset (fun c => c.pwrgdLow))

/-- PWRGD_IN_RISE (R386, R435). -/
def execPwrgdInRise (straps : StrapPins) (s : State) : Host.Outcome State Fault Refusal :=
  .next (s.actReset (fun c => c.pwrgdHigh straps))

/-- VDD_SL_FALL (R434). -/
def execVddSlFall (s : State) : Host.Outcome State Fault Refusal :=
  .next (s.actReset (fun c => c.vddFall))

/-- CRYSTAL_STABLE (R26 step 2). -/
def execCrystalStable (s : State) : Host.Outcome State Fault Refusal :=
  .next (s.act (fun c => c.crystalOk))

/-- PLL_LOCK (R26 step 3, R386). -/
def execPllLock (s : State) : Host.Outcome State Fault Refusal :=
  .next (s.act (fun c => c.pllOk))

/-- SRAM_RDY (R26 step 4, R386). -/
def execSramRdy (s : State) : Host.Outcome State Fault Refusal :=
  .next (s.act (fun c => c.sramOk))

/-- LOGIC_RDY (R26 step 5, R381, R386). -/
def execLogicRdy (s : State) : Host.Outcome State Fault Refusal :=
  .next (s.act (fun c => c.logicOk))

/-- BOOT_SELF_TEST_DONE (R26 step 6, R317). -/
def execBootSelfTestDone (f : Fin 12) (pass : Bool) (s : State) : Host.Outcome State Fault Refusal :=
  .next (s.act (fun c => c.selfTest f.val pass))

end Sys2Proof.Machine
end

