-- ==== Sys2Proof/Machine/Time.lean ====
section
/-! DEFINITION. The 8 kHz chip tick (R18) and what counts by it: the token buckets (R182), the chip's microseconds, and the
Sideline's clock (R373). -/

namespace Sys2Proof.Machine

/-- One bucket's refill (R182): a limited bucket gains its rate, up to its depth. -/
def refill (rate depth : BitVec 24) (tok : Int) : Int :=
  if rate = unlimited then tok else min (tok + rate.toNat) (depth.toNat : Int)

/-- Both buckets of a queue. -/
def Queue.refilled (q : Queue) : Queue :=
  { q with ctok := refill q.cir q.cbs q.ctok, ptok := refill q.pir q.pbs q.ptok }

/-- The Sideline counts for 125 µs: 125 to 138 counts (R373). SL_TIMER counts down with it, but does not pass its expiry,
which is a command of its own. -/
def Pwr.count (p : Pwr) (k : Nat) : Pwr :=
  { p with
    slTime := p.slTime + BitVec.ofNat 32 k
    slTimer := if p.slTimer = 0 then 0 else if k < p.slTimer.toNat then p.slTimer - BitVec.ofNat 32 k else 1 }

/-- MICROFRAME_TICK (R18, R182, R191, R356): the buckets, the sample points, the records that are held, the elements that come nearer. -/
def Chip.tick (c : Chip) : Chip :=
  let c := { c with pwr := c.pwr.count (125 + (Config.freeSideline c.free).val), free := c.free + 1 }
  if !c.clocked then c
  else
    let mf := c.mf + 1
    let c := { c with
      mf := mf, us := c.us + 125, usNow := 0, cap := c.cap.tick mf, insts := Tbl.mapv {} c.insts (fun _ x => x.aged mf) }
    (c.mapQueues (fun _ q => q.refilled)).kickAll.farIso.sendSync.askSleep

end Sys2Proof.Machine
end

