-- ==== Sys2Proof/Machine/ExecBus.lean ====
section
/-! DEFINITION. Meanings: the tick, the buses, and the Scorebook (R18, R140 to R197). -/

namespace Sys2Proof.Machine

/-- MICROFRAME_TICK (R18, R182, R356). -/
def execMicroframeTick (s : State) : Host.Outcome State Fault Refusal :=
  .next (s.act (fun c => c.tick))

/-- BUS_MICROFRAME_START (R18, R126, R140). -/
def execBusMicroframeStart (bus : Fin 32) (s : State) : Host.Outcome State Fault Refusal :=
  .next (s.act (fun c => c.busStart bus.val))

/-- ISOCH_STAGE_DEADLINE (R145). -/
def execIsochStageDeadline (slot : Fin 256) (ep : Fin 32) (s : State) : Host.Outcome State Fault Refusal :=
  .next (s.act (fun c => c.stageDeadline (epKey slot.val ep.val)))

/-- USB2_TRANSACTION_END (R153 to R159, R170 to R173): `pos` is the byte-time at which the bus is free again, `us` the
microseconds since the tick. -/
def execUsb2TransactionEnd (bus : Fin 24) (r : XactEnd) (pos : Nat) (us : BitVec 7)
    (s : State) : Host.Outcome State Fault Refusal :=
  .next (s.act (fun c => c.usb2End bus.val r pos us.toNat))

/-- SS_BURST_END (R160 to R163, R170 to R173). -/
def execSsBurstEnd (ssp : Fin 8) (r : BurstEnd) (us : BitVec 7) (s : State) : Host.Outcome State Fault Refusal :=
  .next (s.act (fun c => c.ssEnd ssp.val r us.toNat))

/-- ERDY_RECEIVED (R161, R163). -/
def execErdyReceived (slot : Fin 256) (ep : Fin 32) (stream : BitVec 16) (numP : BitVec 5)
    (s : State) : Host.Outcome State Fault Refusal :=
  .next (s.act (fun c => c.erdy (epKey slot.val ep.val) stream.toNat numP.toNat))

/-- RALLY_READY (R167): the endpoint's ready_at passes. -/
def execRallyReady (slot : Fin 256) (ep : Fin 32) (s : State) : Host.Outcome State Fault Refusal :=
  .next (s.act (fun c =>
    (c.updEp (epKey slot.val ep.val) (fun e => { e with rally := { e.rally with held := false } })).stir (epKey slot.val ep.val)))

/-- SCOREBOOK_SAMPLE (R191). -/
def execScorebookSample (s : State) : Host.Outcome State Fault Refusal :=
  .next (s.act (fun c => c.sbSample))

/-- SB_CLEAR (R196). -/
def execSbClear (w : Writer) (s : State) : Host.Outcome State Fault Refusal :=
  .next (s.act (fun c => c.setup w Chip.sbClear))

/-- SB_SEL_WRITE (R193). -/
def execSbSelWrite (w : Writer) (val : Word) (s : State) : Host.Outcome State Fault Refusal :=
  .next (s.act (fun c => c.setup w (fun c => c.sbSelect val)))

/-- REF_SEL_WRITE (R190). -/
def execRefSelWrite (w : Writer) (val : Word) (s : State) : Host.Outcome State Fault Refusal :=
  .next (s.act (fun c => c.setup w (fun c => c.refSelect val)))

/-- POOL_SEL_WRITE (R241). -/
def execPoolSelWrite (w : Writer) (val : Word) (s : State) : Host.Outcome State Fault Refusal :=
  .next (s.act (fun c => c.setup w (fun c => c.poolSelect val)))

end Sys2Proof.Machine
end

