-- ==== Sys2Proof/Machine/ExecCarry.lean ====
section
/-! DEFINITION. Meanings: the Carry channels (R286 to R310). -/

namespace Sys2Proof.Machine

/-- CARRY_SEL_WRITE (R310). -/
def execCarrySelWrite (w : Writer) (val : Word) (s : State) : Host.Outcome State Fault Refusal :=
  .next (s.act (fun c => c.setup w (fun c => c.carrySel val)))

/-- CH_START (R293, R308). -/
def execChStart (inst : Fin 128) (c : Fin 256) (s : State) : Host.Outcome State Fault Refusal :=
  .next (s.act (fun x => x.page inst.val (fun x => x.chWrite inst.val c.val (fun w => w.chStart inst.val c.val))))

/-- CH_RESUME (R304). -/
def execChResume (inst : Fin 128) (c : Fin 256) (s : State) : Host.Outcome State Fault Refusal :=
  .next (s.act (fun x => x.page inst.val (fun x => x.chWrite inst.val c.val (fun w => w.chResume inst.val c.val x.mf))))

/-- CH_SKIP (R304). -/
def execChSkip (inst : Fin 128) (c : Fin 256) (s : State) : Host.Outcome State Fault Refusal :=
  .next (s.act (fun x => x.page inst.val (fun x => x.chWrite inst.val c.val (fun w => w.chSkip inst.val c.val x.mf))))

/-- CH_ABORT (R305). -/
def execChAbort (inst : Fin 128) (c : Fin 256) (s : State) : Host.Outcome State Fault Refusal :=
  .next (s.act (fun x => x.page inst.val (fun x => x.chWrite inst.val c.val (fun w => w.chAbort inst.val c.val x.mf))))

/-- CH_CMD_REFUSED (R293): the value that was written, whose command the channel's state does not allow. -/
def execChCmdRefused (inst : Fin 128) (c : Fin 256) (val : Word) (s : State) : Host.Outcome State Fault Refusal :=
  .next (s.act (fun x => x.page inst.val (fun x => x.chCmd inst.val c.val val)))

/-- CARRY_DESC_FETCH_DONE (R294, R302). -/
def execCarryDescFetchDone (ch : ChanRef) (r : ReadEnd) (raw : List Byte) (s : State) : Host.Outcome State Fault Refusal :=
  .next (s.act (fun c => c.carryFetched ch r raw))

/-- CARRY_FETCH_TIMEOUT (R303). -/
def execCarryFetchTimeout (ch : ChanRef) (s : State) : Host.Outcome State Fault Refusal :=
  .next (s.act (fun c => c.carryFetchLate ch))

/-- CARRY_BURST_READ_DONE (R297, R302). -/
def execCarryBurstReadDone (ch : ChanRef) (r : ReadEnd) (s : State) : Host.Outcome State Fault Refusal :=
  .next (s.act (fun c => c.carryRead ch r))

/-- CARRY_CONFIRM_DONE (R298, R302). -/
def execCarryConfirmDone (ch : ChanRef) (r : ReadEnd) (s : State) : Host.Outcome State Fault Refusal :=
  .next (s.act (fun c => c.carryConfirmed ch r))

end Sys2Proof.Machine
end

