-- ==== Sys2Proof/Machine/ExecCommand.lean ====
section
/-! DEFINITION. Meanings: the fifteen instance commands (R98 to R114). A row is the chip beginning the command: its instance
has fetched it, and it begins when R98 lets it. -/

namespace Sys2Proof.Machine

/-- ENABLE_SLOT (R98, R101). -/
def execEnableSlot (inst : Fin 128) (tag : BitVec 16) (par : BitVec 192) (s : State) : Host.Outcome State Fault Refusal :=
  .next (s.act (fun c => c.cmdRow inst.val .enableSlot tag par))

/-- ADDRESS_DEVICE (R98, R102). -/
def execAddressDevice (inst : Fin 128) (tag : BitVec 16) (par : BitVec 192) (s : State) : Host.Outcome State Fault Refusal :=
  .next (s.act (fun c => c.cmdRow inst.val .addressDevice tag par))

/-- CONFIGURE_EP (R98, R103). -/
def execConfigureEp (inst : Fin 128) (tag : BitVec 16) (par : BitVec 192) (s : State) : Host.Outcome State Fault Refusal :=
  .next (s.act (fun c => c.cmdRow inst.val .configureEp tag par))

/-- RESET_EP (R98, R104). -/
def execResetEp (inst : Fin 128) (tag : BitVec 16) (par : BitVec 192) (s : State) : Host.Outcome State Fault Refusal :=
  .next (s.act (fun c => c.cmdRow inst.val .resetEp tag par))

/-- STOP_EP (R98, R105). -/
def execStopEp (inst : Fin 128) (tag : BitVec 16) (par : BitVec 192) (s : State) : Host.Outcome State Fault Refusal :=
  .next (s.act (fun c => c.cmdRow inst.val .stopEp tag par))

/-- SET_DEQUEUE (R98, R107). -/
def execSetDequeue (inst : Fin 128) (tag : BitVec 16) (par : BitVec 192) (s : State) : Host.Outcome State Fault Refusal :=
  .next (s.act (fun c => c.cmdRow inst.val .setDequeue tag par))

/-- DISABLE_SLOT (R98, R108). -/
def execDisableSlot (inst : Fin 128) (tag : BitVec 16) (par : BitVec 192) (s : State) : Host.Outcome State Fault Refusal :=
  .next (s.act (fun c => c.cmdRow inst.val .disableSlot tag par))

/-- CREATE_RING (R98, R109). -/
def execCreateRing (inst : Fin 128) (tag : BitVec 16) (par : BitVec 192) (s : State) : Host.Outcome State Fault Refusal :=
  .next (s.act (fun c => c.cmdRow inst.val .createRing tag par))

/-- DESTROY_RING (R98, R110). -/
def execDestroyRing (inst : Fin 128) (tag : BitVec 16) (par : BitVec 192) (s : State) : Host.Outcome State Fault Refusal :=
  .next (s.act (fun c => c.cmdRow inst.val .destroyRing tag par))

/-- PORT_RESET (R98, R111). -/
def execPortReset (inst : Fin 128) (tag : BitVec 16) (par : BitVec 192) (s : State) : Host.Outcome State Fault Refusal :=
  .next (s.act (fun c => c.cmdRow inst.val .portReset tag par))

/-- PORT_SUSPEND (R98, R112). -/
def execPortSuspend (inst : Fin 128) (tag : BitVec 16) (par : BitVec 192) (s : State) : Host.Outcome State Fault Refusal :=
  .next (s.act (fun c => c.cmdRow inst.val .portSuspend tag par))

/-- PORT_RESUME (R98, R112). -/
def execPortResume (inst : Fin 128) (tag : BitVec 16) (par : BitVec 192) (s : State) : Host.Outcome State Fault Refusal :=
  .next (s.act (fun c => c.cmdRow inst.val .portResume tag par))

/-- PORT_POWER (R98, R113). -/
def execPortPower (inst : Fin 128) (tag : BitVec 16) (par : BitVec 192) (s : State) : Host.Outcome State Fault Refusal :=
  .next (s.act (fun c => c.cmdRow inst.val .portPower tag par))

/-- GET_SCOREBOOK (R98, R114). -/
def execGetScorebook (inst : Fin 128) (tag : BitVec 16) (par : BitVec 192) (s : State) : Host.Outcome State Fault Refusal :=
  .next (s.act (fun c => c.cmdRow inst.val .getScorebook tag par))

/-- NOOP (R98, R114). -/
def execNoop (inst : Fin 128) (tag : BitVec 16) (par : BitVec 192) (s : State) : Host.Outcome State Fault Refusal :=
  .next (s.act (fun c => c.cmdRow inst.val .noop tag par))

end Sys2Proof.Machine
end

