-- ==== Sys2Proof/Machine/ExecFabric.lean ====
section
/-! DEFINITION. Meanings: the Fysar fabric (R338 to R369). A routed frame carries its SEQ and its credit whatever it asks
(R344, R346). -/

namespace Sys2Proof.Machine

/-- FAB_SIGNAL_DETECT (R343). -/
def execFabSignalDetect (p : Fin 2) (s : State) : Host.Outcome State Fault Refusal :=
  .next (s.act (fun c => c.fabSignal p.val))

/-- FAB_LOCK_HELD (R343, R347). -/
def execFabLockHeld (p : Fin 2) (lanes : Nat) (s : State) : Host.Outcome State Fault Refusal :=
  .next (s.act (fun c => c.fabLock p.val lanes))

/-- FAB_TRAINING_TIMEOUT (R343). -/
def execFabTrainingTimeout (p : Fin 2) (s : State) : Host.Outcome State Fault Refusal :=
  .next (s.act (fun c => c.fabTimeout p.val))

/-- FAB_TRAINING_RESTART (R343): signal is still present 1 ms after a training timeout. -/
def execFabTrainingRestart (p : Fin 2) (s : State) : Host.Outcome State Fault Refusal :=
  .next (s.act (fun c => Chip.fabSignal c p.val))

/-- LINK_INIT (R345, R350). -/
def execLinkInit (p : Fin 2) (h : LinkHdr) (s : State) : Host.Outcome State Fault Refusal :=
  .next (s.act (fun c => c.linkHello p.val h))

/-- HELLO (R345, R347). -/
def execHello (p : Fin 2) (h : LinkHdr) (s : State) : Host.Outcome State Fault Refusal :=
  .next (s.act (fun c => Chip.linkHello c p.val h))

/-- HELLO_TX_TIMER (R345). -/
def execHelloTxTimer (p : Fin 2) (s : State) : Host.Outcome State Fault Refusal :=
  .next (s.act (fun c => c.helloTx p.val))

/-- ACK (R346, R347). -/
def execAck (p : Fin 2) (seq : BitVec 12) (h : LinkHdr) (s : State) : Host.Outcome State Fault Refusal :=
  .next (s.act (fun c => c.linkAck p.val seq h))

/-- NAK (R346). -/
def execNak (p : Fin 2) (seq : BitVec 12) (h : LinkHdr) (s : State) : Host.Outcome State Fault Refusal :=
  .next (s.act (fun c => c.linkNak p.val seq h))

/-- ACK_TX_TIMER (R345, R346). -/
def execAckTxTimer (p : Fin 2) (s : State) : Host.Outcome State Fault Refusal :=
  .next (s.act (fun c => c.ackTx p.val))

/-- SYNC (R356, R366). -/
def execSync (p : Fin 2) (mf : BitVec 16) (offset : BitVec 12) (trim : BitVec 16) (h : LinkHdr)
    (s : State) : Host.Outcome State Fault Refusal :=
  .next (s.act (fun c => Chip.sync c p.val mf offset trim h))

/-- SYNC_ECHO (R356). -/
def execSyncEcho (p : Fin 2) (delay : BitVec 16) (h : LinkHdr) (s : State) : Host.Outcome State Fault Refusal :=
  .next (s.act (fun c => Chip.syncEcho c p.val delay h))

/-- ELEMENT (R358, R359). -/
def execElement (p : Fin 2) (h : FrameHdr) (raw : List Byte) (s : State) : Host.Outcome State Fault Refusal :=
  .next (s.act (fun c => c.recv p.val h 0x00 (leNat raw) (fun c => c.farElement h raw)))

/-- DATA_OUT (R358). -/
def execDataOut (p : Fin 2) (h : FrameHdr) (s : State) : Host.Outcome State Fault Refusal :=
  .next (s.act (fun c => c.recv p.val h 0x01 h.len (fun c => c.farDataOut h)))

/-- DATA_IN (R358). -/
def execDataIn (p : Fin 2) (h : FrameHdr) (off : Nat) (s : State) : Host.Outcome State Fault Refusal :=
  .next (s.act (fun c => c.recv p.val h 0x02 off (fun c => c.farDataIn h off)))

/-- RESULT (R358, R359). -/
def execResult (p : Fin 2) (h : FrameHdr) (code : Byte) (moved elem : Nat) (mf : Option (BitVec 16))
    (s : State) : Host.Outcome State Fault Refusal :=
  .next (s.act (fun c => c.recv p.val h 0x03 code.toNat (fun c => c.farResult h code moved elem mf)))

/-- COMMAND (R357). -/
def execCommand (p : Fin 2) (h : FrameHdr) (k : FarCmd) (tag : BitVec 16) (par : BitVec 192)
    (s : State) : Host.Outcome State Fault Refusal :=
  .next (s.act (fun c => c.recv p.val h 0x04 tag.toNat (fun c => c.farCommand h k tag par)))

/-- REPLY (R357). -/
def execReply (p : Fin 2) (h : FrameHdr) (tag : BitVec 16) (code : Byte) (result : BitVec 24) (data : List Byte)
    (s : State) : Host.Outcome State Fault Refusal :=
  .next (s.act (fun c => c.recv p.val h 0x05 tag.toNat (fun c => c.farReply h.src.toNat tag.toNat code result.toNat data)))

/-- EVENT (R357). -/
def execEvent (p : Fin 2) (h : FrameHdr) (e : FarEvent) (s : State) : Host.Outcome State Fault Refusal :=
  .next (s.act (fun c => c.recv p.val h 0x06 h.inst.toNat (fun c => c.farEvent h.inst.toNat e)))

/-- CARRY (R361): the transfer reaches its node. The row carries an address in space 2 and no bytes, so what a write leaves there is
not known to the model (log entry 21). -/
def execCarry (p : Fin 2) (h : FrameHdr) (space2 : BitVec 64) (s : State) : Host.Outcome State Fault Refusal :=
  .next (s.act (fun c => c.recv p.val h 0x07 space2.toNat (fun c => c)))

/-- PROTOCOL (R350, R362 to R369). -/
def execProtocol (p : Fin 2) (h : FrameHdr) (m : ProtoMsg) (s : State) : Host.Outcome State Fault Refusal :=
  .next (s.act (fun c => c.recv p.val h 0x08 0 (fun c => Chip.protocol c p.val m)))

/-- E2E_ACK (R358). -/
def execE2eAck (p : Fin 2) (h : FrameHdr) (s : State) : Host.Outcome State Fault Refusal :=
  .next (s.act (fun c => c.recv p.val h 0x09 h.tdid.toNat (fun c => c.farAcked h)))

/-- FAB_REPLAY_TIMEOUT (R346, R362). -/
def execFabReplayTimeout (p : Fin 2) (s : State) : Host.Outcome State Fault Refusal :=
  .next (s.act (fun c => c.replayFab p.val))

/-- FAB_SIGNAL_LOSS (R362). -/
def execFabSignalLoss (p : Fin 2) (s : State) : Host.Outcome State Fault Refusal :=
  .next (s.act (fun c => c.fabSignalGone p.val))

/-- HELLO_LOSS_TIMEOUT (R362). -/
def execHelloLossTimeout (p : Fin 2) (s : State) : Host.Outcome State Fault Refusal :=
  .next (s.act (fun c => c.helloLost p.val))

/-- CAPTAIN_DECLARE (R350). -/
def execCaptainDeclare (s : State) : Host.Outcome State Fault Refusal :=
  .next (s.act (fun c => c.declare))

/-- TOPO_INSTALL (R350). -/
def execTopoInstall (s : State) : Host.Outcome State Fault Refusal :=
  .next (s.act (fun c => Chip.topoInstall c))

/-- SLEEP_GRANT_LAPSE (R369). -/
def execSleepGrantLapse (s : State) : Host.Outcome State Fault Refusal :=
  .next (s.act (fun c => c.grantLapse))

/-- TAP_SEEN (R368, R384). -/
def execTapSeen (p : Fin 2) (slTime : Word) (s : State) : Host.Outcome State Fault Refusal :=
  .next (s.act (fun c => Chip.tapSeen c p slTime))

end Sys2Proof.Machine
end

