-- ==== Sys2Proof/Machine/ExecFirmware.lean ====
section
/-! DEFINITION. Meanings: the firmware loader and live swap (R36 to R47). -/

namespace Sys2Proof.Machine

/-- FW_LOAD (R36, R38). -/
def execFwLoad (w : Writer) (s : State) : Host.Outcome State Fault Refusal :=
  .next (s.act (fun c => c.spinBreak.fwLoad w))

/-- FW_SWAP (R43, R46). -/
def execFwSwap (w : Writer) (s : State) : Host.Outcome State Fault Refusal :=
  .next (s.act (fun c => c.spinBreak.fwSwap s.stage w))

/-- FW_FETCH_DONE (R37, R38). -/
def execFwFetchDone (r : ReadEnd) (image : List Byte) (s : State) : Host.Outcome State Fault Refusal :=
  .next { s with stage := s.chip.fetchedStage s.stage r image, chip := (s.chip.fetched r).pump }

/-- FW_VERIFY_DONE (R34, R38, R40, R43). -/
def execFwVerifyDone (keyOk sigOk : Bool) (s : State) : Host.Outcome State Fault Refusal :=
  .next (s.act (fun c => c.verified s.stage keyOk sigOk))

/-- FW_START_TIMEOUT (R40, R43). -/
def execFwStartTimeout (f : Fin 12) (s : State) : Host.Outcome State Fault Refusal :=
  .next (s.act (fun c => c.startTimeout f.val))

/-- SWAP_DRAIN_DONE (R43 step d). -/
def execSwapDrainDone (s : State) : Host.Outcome State Fault Refusal :=
  .next (s.act (fun c => c.drained2))

/-- DRAIN_TIMEOUT (R45). -/
def execDrainTimeout (s : State) : Host.Outcome State Fault Refusal :=
  .next (s.act (fun c => c.drainLate))

/-- FUSE_BLOWN (R39). -/
def execFuseBlown (s : State) : Host.Outcome State Fault Refusal :=
  .next (s.act (fun c => Chip.fuseBlown c))

/-- FW_DISCARD (R37, R42). -/
def execFwDiscard (w : Writer) (s : State) : Host.Outcome State Fault Refusal :=
  .next (s.act (fun c => c.setup w Chip.fwDiscard))

/-- SWAP_COPY_DONE (R43). -/
def execSwapCopyDone (s : State) : Host.Outcome State Fault Refusal :=
  .next (s.act (fun c => c.swapCopied s.stage))

end Sys2Proof.Machine
end

