-- ==== Sys2Proof/Machine/ExecHub.lean ====
section
/-! DEFINITION. Meanings: Pass mode and its hub pair (R224 to R231). -/

namespace Sys2Proof.Machine

/-- UFP_VBUS_CHANGE (R225, R226). -/
def execUfpVbusChange (high : Bool) (s : State) : Host.Outcome State Fault Refusal :=
  .next (s.act (fun c => c.ufpVbus high))

/-- PASS_CTL_WRITE (R224, R226). -/
def execPassCtlWrite (w : Writer) (val : Word) (s : State) : Host.Outcome State Fault Refusal :=
  .next (s.act (fun c => c.setup w (fun c => c.passCtl val)))

/-- HUB_GET_HUB_STATUS (R229). -/
def execHubGetHubStatus (ss : Bool) (s : State) : Host.Outcome State Fault Refusal :=
  .next (s.act (fun c => c.hubGetStatus ss))

/-- HUB_GET_PORT_STATUS (R229). -/
def execHubGetPortStatus (ss : Bool) (port : Fin 24) (s : State) : Host.Outcome State Fault Refusal :=
  .next (s.act (fun c => c.hubGetPort ss port.val))

/-- HUB_GET_HUB_DESCRIPTOR (R228, R229). -/
def execHubGetHubDescriptor (ss : Bool) (s : State) : Host.Outcome State Fault Refusal :=
  .next (s.act (fun c => c.hubGetDesc ss))

/-- HUB_CLEAR_HUB_FEATURE (R229). -/
def execHubClearHubFeature (ss : Bool) (f : HubFeature) (s : State) : Host.Outcome State Fault Refusal :=
  .next (s.act (fun c => c.hubClearHub ss f))

/-- HUB_CLEAR_PORT_FEATURE (R229). -/
def execHubClearPortFeature (ss : Bool) (port : Fin 24) (f : HubFeature) (s : State) : Host.Outcome State Fault Refusal :=
  .next (s.act (fun c => c.hubClearPort ss port.val f))

/-- HUB_SET_PORT_FEATURE (R229). -/
def execHubSetPortFeature (ss : Bool) (port : Fin 24) (f : HubFeature) (sel : Byte)
    (s : State) : Host.Outcome State Fault Refusal :=
  .next (s.act (fun c => c.hubSetPort ss port.val f sel))

/-- HUB_CLEAR_TT_BUFFER (R229). -/
def execHubClearTtBuffer (_port : Fin 24) (s : State) : Host.Outcome State Fault Refusal :=
  .next (s.act (fun c => c.hubTt))

/-- HUB_RESET_TT (R229). -/
def execHubResetTt (_port : Fin 24) (s : State) : Host.Outcome State Fault Refusal :=
  .next (s.act (fun c => Chip.hubTt c))

/-- HUB_SET_HUB_DEPTH (R229). -/
def execHubSetHubDepth (depth : Byte) (s : State) : Host.Outcome State Fault Refusal :=
  .next (s.act (fun c => Chip.hubDepth c depth))

/-- HUB_GET_PORT_ERROR_COUNT (R229). -/
def execHubGetPortErrorCount (_port : Fin 8) (s : State) : Host.Outcome State Fault Refusal :=
  .next (s.act (fun c => c.hubErrors))

/-- HUB_STANDARD_REQUEST (R229). -/
def execHubStandardRequest (ss : Bool) (r : StdReq) (s : State) : Host.Outcome State Fault Refusal :=
  .next (s.act (fun c => c.hubStd ss r))

/-- HUB_REQUEST_STALLED (R229). -/
def execHubRequestStalled (ss : Bool) (_req : Byte) (s : State) : Host.Outcome State Fault Refusal :=
  .next (s.act (fun c => c.hubStalled ss))

/-- UPSTREAM_RESET (R230). -/
def execUpstreamReset (warm : Bool) (s : State) : Host.Outcome State Fault Refusal :=
  .next (s.act (fun c => c.upReset warm))

/-- UPSTREAM_HOT_RESET (R230). -/
def execUpstreamHotReset (s : State) : Host.Outcome State Fault Refusal :=
  .next (s.act (fun c => c.upHotReset))

/-- UPSTREAM_SUSPEND (R231). -/
def execUpstreamSuspend (ss : Bool) (port : Option (Fin 24)) (s : State) : Host.Outcome State Fault Refusal :=
  .next (s.act (fun c => c.upSuspend ss (port.map (fun p => p.val))))

/-- UPSTREAM_RESUME (R231). -/
def execUpstreamResume (ss : Bool) (port : Option (Fin 24)) (s : State) : Host.Outcome State Fault Refusal :=
  .next (s.act (fun c => c.upResume ss (port.map (fun p => p.val))))

/-- UPSTREAM_TRANSACTION (R227). -/
def execUpstreamTransaction (x : UpXact) (s : State) : Host.Outcome State Fault Refusal :=
  .next (s.act (fun c => c.upXact x))

end Sys2Proof.Machine
end

