-- ==== Sys2Proof/Machine/ExecLink.lean ====
section
/-! DEFINITION. Meanings: the PCIe links and what their hosts do to instances (R22, R27 to R29, R236, R250, R258, R278). -/

namespace Sys2Proof.Machine

/-- PERST_ASSERT (R22). -/
def execPerstAssert (link : Fin 2) (s : State) : Host.Outcome State Fault Refusal :=
  .next (s.act (fun c => c.perstLow link.val))

/-- PERST_RELEASE (R27). -/
def execPerstRelease (link : Fin 2) (s : State) : Host.Outcome State Fault Refusal :=
  .next (s.act (fun c => c.perstHigh link.val))

/-- HOT_RESET (R22): as the link's PERST#. -/
def execHotReset (link : Fin 2) (s : State) : Host.Outcome State Fault Refusal :=
  .next (s.act (fun c => Chip.hotReset c link.val))

/-- FLR (R250). -/
def execFlr (inst : Fin 128) (s : State) : Host.Outcome State Fault Refusal :=
  .next (s.act (fun c => Chip.flr c inst.val))

/-- LINK_TRAIN_START (R27). -/
def execLinkTrainStart (link : Fin 2) (s : State) : Host.Outcome State Fault Refusal :=
  .next (s.act (fun c => c.trainStart link.val))

/-- LINK_REACHES_L0 (R29, R258). -/
def execLinkReachesL0 (link : Fin 2) (s : State) : Host.Outcome State Fault Refusal :=
  .next (s.act (fun c => c.linkL0 link.val))

/-- PASS_FALLBACK_TIMEOUT (R29). -/
def execPassFallbackTimeout (s : State) : Host.Outcome State Fault Refusal :=
  .next (s.act (fun c => c.passFallback))

/-- LINK_PM_STATE_CHANGE (R278). -/
def execLinkPmStateChange (link : Fin 2) (pm : LinkPm) (s : State) : Host.Outcome State Fault Refusal :=
  .next (s.act (fun c => c.linkPm link.val pm))

/-- LINK_LOST (R258). -/
def execLinkLost (link : Fin 2) (s : State) : Host.Outcome State Fault Refusal :=
  .next (s.act (fun c => c.lostLink link.val))

/-- HOST_LINK_DELAY_EXPIRY (R258). -/
def execHostLinkDelayExpiry (link : Fin 2) (s : State) : Host.Outcome State Fault Refusal :=
  .next (s.act (fun c => c.delayEnd link.val))

/-- VF_ENABLE (R236). -/
def execVfEnable (inst : Fin 128) (s : State) : Host.Outcome State Fault Refusal :=
  .next (s.act (fun c => Chip.vfEnable c inst.val))

/-- VF_DISABLE (R236). -/
def execVfDisable (inst : Fin 128) (s : State) : Host.Outcome State Fault Refusal :=
  .next (s.act (fun c => Chip.vfDisable c inst.val))

/-- INST_RESET_ESCALATION (R250). -/
def execInstResetEscalation (inst : Fin 128) (s : State) : Host.Outcome State Fault Refusal :=
  .next (s.act (fun c => c.escalate inst.val))

end Sys2Proof.Machine
end

