-- ==== Sys2Proof/Machine/ExecManager.lean ====
section
/-! DEFINITION. Meanings: the manager commands (R115 to R119, R242, R246 to R255). A row is the write of its opcode to
MGR_CMD, with the arguments that MGR_ARG0 to MGR_ARG3 hold. -/

namespace Sys2Proof.Machine

/-- INST_CREATE (R246). -/
def execInstCreate (w : Writer) (s : State) : Host.Outcome State Fault Refusal :=
  .next (s.act (fun c => c.spinBreak.mgrCreate w))

/-- INST_RESIZE (R247). -/
def execInstResize (w : Writer) (s : State) : Host.Outcome State Fault Refusal :=
  .next (s.act (fun c => c.spinBreak.mgrResize w))

/-- INST_DESTROY (R248). -/
def execInstDestroy (w : Writer) (s : State) : Host.Outcome State Fault Refusal :=
  .next (s.act (fun c => c.spinBreak.mgrDestroy w))

/-- INST_RESET (R250). -/
def execInstReset (w : Writer) (s : State) : Host.Outcome State Fault Refusal :=
  .next (s.act (fun c => c.spinBreak.mgrReset w))

/-- ASSIGN_PORT (R252). -/
def execAssignPort (w : Writer) (s : State) : Host.Outcome State Fault Refusal :=
  .next (s.act (fun c => c.spinBreak.mgrAssignPort w))

/-- ASSIGN_DEVICE (R253). -/
def execAssignDevice (w : Writer) (s : State) : Host.Outcome State Fault Refusal :=
  .next (s.act (fun c => c.spinBreak.mgrAssignDevice w))

/-- SET_RATES (R183). -/
def execSetRates (w : Writer) (s : State) : Host.Outcome State Fault Refusal :=
  .next (s.act (fun c => c.spinBreak.mgrRates w))

/-- SET_WEIGHT (R177). -/
def execSetWeight (w : Writer) (s : State) : Host.Outcome State Fault Refusal :=
  .next (s.act (fun c => c.spinBreak.mgrWeight w))

/-- FREEZE (R119): the write of opcode 0x0B; MGR_ARG0 [8] says whether it thaws (log entry 23). -/
def execFreeze (w : Writer) (s : State) : Host.Outcome State Fault Refusal :=
  .next (s.act (fun c => c.spinBreak.mgrFreeze w))

/-- THAW (R119): the write of opcode 0x0B with MGR_ARG0 [8] set; the bit as MGR_ARG0 holds it decides (log entry 23). -/
def execThaw (w : Writer) (s : State) : Host.Outcome State Fault Refusal :=
  .next (s.act (fun c => c.spinBreak.mgrFreeze w))

/-- CHIP_RESET (R22, R116, R118). -/
def execChipReset (w : Writer) (s : State) : Host.Outcome State Fault Refusal :=
  .next (s.actReset (fun c => c.spinBreak.mgrChipReset w))

/-- MGR_RESERVED_OPCODE (R116): an opcode that has a row of its own is not reserved (`Instr.wf`). -/
def execMgrReservedOpcode (w : Writer) (_op : Byte) (s : State) : Host.Outcome State Fault Refusal :=
  .next (s.act (fun c => c.spinBreak.mgrReserved w))

end Sys2Proof.Machine
end

