-- ==== Sys2Proof/Machine/ExecPort.lean ====
section
/-! DEFINITION. Meanings: root ports, SuperSpeed companions, over-current and charging (R198 to R223). -/

namespace Sys2Proof.Machine

/-- OC_MAP_WRITE (R219). -/
def execOcMapWrite (w : Writer) (k : Fin 6) (val : Word) (s : State) : Host.Outcome State Fault Refusal :=
  .next (s.act (fun c => c.setup w (fun c => c.ocMap k.val val)))

/-- POC_FALL (R221). -/
def execPocFall (n : Fin 24) (s : State) : Host.Outcome State Fault Refusal :=
  .next (s.act (fun c => c.pocFalls n.val))

/-- OC_TRIP_QUALIFIED (R221, R383). -/
def execOcTripQualified (n : Fin 24) (s : State) : Host.Outcome State Fault Refusal :=
  .next (s.act (fun c => c.tripped n.val))

/-- POC_RISE (R222). -/
def execPocRise (n : Fin 24) (s : State) : Host.Outcome State Fault Refusal :=
  .next (s.act (fun c => c.pocRises n.val))

/-- PORT_POWER_ON_WAIT_END (R207, R208). -/
def execPortPowerOnWaitEnd (port : Fin 24) (s : State) : Host.Outcome State Fault Refusal :=
  .next (s.act (fun c => c.powerWaitEnd port.val))

/-- PULLUP_SEEN (R207). -/
def execPullupSeen (port : Fin 24) (low : Bool) (s : State) : Host.Outcome State Fault Refusal :=
  .next (s.act (fun c => c.pullup port.val low))

/-- PULLUP_LOST_IN_DEBOUNCE (R207). -/
def execPullupLostInDebounce (port : Fin 24) (s : State) : Host.Outcome State Fault Refusal :=
  .next (s.act (fun c => c.pullupLost port.val))

/-- DEBOUNCE_END (R207, R208). -/
def execDebounceEnd (port : Fin 24) (s : State) : Host.Outcome State Fault Refusal :=
  .next (s.act (fun c => c.debounced port.val))

/-- RESET_SE0_END (R207, R208). -/
def execResetSe0End (port : Fin 24) (chirp : Bool) (s : State) : Host.Outcome State Fault Refusal :=
  .next (s.act (fun c => c.se0End port.val chirp))

/-- RESET_RECOVERY_END (R207, R208). -/
def execResetRecoveryEnd (port : Fin 24) (s : State) : Host.Outcome State Fault Refusal :=
  .next (s.act (fun c => c.resetRecovered port.val))

/-- SUSPEND_ENTRY_TIMER (R207, R214). -/
def execSuspendEntryTimer (port : Fin 24) (s : State) : Host.Outcome State Fault Refusal :=
  .next (s.act (fun c => c.suspendEntered port.val))

/-- DEVICE_RESUME_K (R215). -/
def execDeviceResumeK (port : Fin 24) (s : State) : Host.Outcome State Fault Refusal :=
  .next (s.act (fun c => c.deviceK port.val))

/-- RESUME_K_END (R207, R208). -/
def execResumeKEnd (port : Fin 24) (s : State) : Host.Outcome State Fault Refusal :=
  .next (s.act (fun c => Chip.resumeKEnd c port.val))

/-- RESUME_RECOVERY_END (R208, R215). -/
def execResumeRecoveryEnd (port : Fin 24) (s : State) : Host.Outcome State Fault Refusal :=
  .next (s.act (fun c => c.resumeRecovered port.val))

/-- USB2_DISCONNECT (R207). -/
def execUsb2Disconnect (port : Fin 24) (s : State) : Host.Outcome State Fault Refusal :=
  .next (s.act (fun c => c.disconnect port.val))

/-- SS_RX_DETECT_POLL (R211). -/
def execSsRxDetectPoll (ssp : Fin 8) (found : Bool) (s : State) : Host.Outcome State Fault Refusal :=
  .next (s.act (fun c => c.rxDetect ssp.val found))

/-- SS_POLLING_U0 (R211). -/
def execSsPollingU0 (ssp : Fin 8) (speed : BitVec 4) (s : State) : Host.Outcome State Fault Refusal :=
  .next (s.act (fun c => c.reachU0 ssp.val speed))

/-- SS_POLLING_TIMEOUT (R211). -/
def execSsPollingTimeout (ssp : Fin 8) (s : State) : Host.Outcome State Fault Refusal :=
  .next (s.act (fun c => c.pollingTimeout ssp.val))

/-- SS_IDLE_TIMEOUT (R205, R211). -/
def execSsIdleTimeout (ssp : Fin 8) (u2 : Bool) (s : State) : Host.Outcome State Fault Refusal :=
  .next (s.act (fun c => c.idleTimeout ssp.val u2))

/-- SS_LINK_ERROR (R211). -/
def execSsLinkError (ssp : Fin 8) (recovered : Bool) (s : State) : Host.Outcome State Fault Refusal :=
  .next (s.act (fun c => c.linkError ssp.val recovered))

/-- SS_TERMINATION_LOST (R211). -/
def execSsTerminationLost (ssp : Fin 8) (s : State) : Host.Outcome State Fault Refusal :=
  .next (s.act (fun c => c.termLost ssp.val))

/-- SS_WAKE_LFPS (R211, R215). -/
def execSsWakeLfps (ssp : Fin 8) (s : State) : Host.Outcome State Fault Refusal :=
  .next (s.act (fun c => c.wakeLfps ssp.val))

/-- U3_EXIT_RETRY_TIMEOUT (R215). -/
def execU3ExitRetryTimeout (ssp : Fin 8) (s : State) : Host.Outcome State Fault Refusal :=
  .next (s.act (fun c => c.u3Retry ssp.val))

/-- U3_EXIT_U0 (R215). -/
def execU3ExitU0 (ssp : Fin 8) (s : State) : Host.Outcome State Fault Refusal :=
  .next (s.act (fun c => c.u3Out ssp.val))

/-- DEVICE_INITIATED_U1_U2 (R139, R205). -/
def execDeviceInitiatedU1U2 (ssp : Fin 8) (u2 : Bool) (s : State) : Host.Outcome State Fault Refusal :=
  .next (s.act (fun c => c.deviceU ssp.val u2))

/-- BC_POWER_CYCLE_END (R223). -/
def execBcPowerCycleEnd (port : Fin 24) (s : State) : Host.Outcome State Fault Refusal :=
  .next (s.act (fun c => c.cycleEnd port.val))

/-- SVC_PORT_WRITE (R263). -/
def execSvcPortWrite (w : Writer) (port : Fin 24) (val : Word) (s : State) : Host.Outcome State Fault Refusal :=
  .next (s.act (fun c => c.setup w (fun c => c.svcPort port.val val)))

end Sys2Proof.Machine
end

