-- ==== Sys2Proof/Machine/ExecPower.lean ====
section
/-! DEFINITION. Meanings: power modes, wakes, DVFS and the thermal limits (R371 to R394). -/

namespace Sys2Proof.Machine

/-- PWR_MODE_WRITE (R369, R372). -/
def execPwrModeWrite (w : Writer) (val : Word) (s : State) : Host.Outcome State Fault Refusal :=
  .next (s.act (fun c => c.setup w (fun c => (c.pwrMode w val).askSleep)))

/-- DOZE_ENTRY (R375). -/
def execDozeEntry (s : State) : Host.Outcome State Fault Refusal :=
  .next (s.act (fun c => c.doze))

/-- SCRUM_START (R376). -/
def execScrumStart (s : State) : Host.Outcome State Fault Refusal :=
  .next (s.act (fun c => c.scrum))

/-- SCRUM_PHASE1_DONE (R376). -/
def execScrumPhase1Done (s : State) : Host.Outcome State Fault Refusal :=
  .next (s.act (fun c => c.scrum1))

/-- SCRUM_STOP_STEP (R376). -/
def execScrumStopStep (s : State) : Host.Outcome State Fault Refusal :=
  .next (s.act (fun c => c.scrum2))

/-- FIELDER_STATE_SAVED (R377). -/
def execFielderStateSaved (s : State) : Host.Outcome State Fault Refusal :=
  .next (s.act (fun c => c.saved))

/-- SRAM_RETENTION_DONE (R377). -/
def execSramRetentionDone (s : State) : Host.Outcome State Fault Refusal :=
  .next (s.act (fun c => c.retained))

/-- CLOCK_STOP_DONE (R377). -/
def execClockStopDone (s : State) : Host.Outcome State Fault Refusal :=
  .next (s.act (fun c => c.clockStop))

/-- POWER_ENTRY_COMPLETE (R377, R379). -/
def execPowerEntryComplete (s : State) : Host.Outcome State Fault Refusal :=
  .next (s.actReset (fun c => c.entryDone))

/-- WAKE_SOURCE (R378, R384). -/
def execWakeSource (e : WakeEvent) (slTime : Word) (s : State) : Host.Outcome State Fault Refusal :=
  .next (s.act (fun c => c.wakeEvent e slTime))

/-- VRDY_RISE (R386, R392). -/
def execVrdyRise (s : State) : Host.Outcome State Fault Refusal :=
  .next (s.act (fun c => c.vrdy))

/-- VRDY_WAIT_TIMEOUT (R388). -/
def execVrdyWaitTimeout (s : State) : Host.Outcome State Fault Refusal :=
  .next (s.act (fun c => c.vrdyLate))

/-- PAD_RELEASE (R389). -/
def execPadRelease (w : Writer) (val : Word) (s : State) : Host.Outcome State Fault Refusal :=
  .next (s.act (fun c => c.setup w (fun c => Chip.padRelease c val)))

/-- DVFS_CTL_WRITE (R391, R392). -/
def execDvfsCtlWrite (w : Writer) (val : Word) (s : State) : Host.Outcome State Fault Refusal :=
  .next (s.act (fun c => c.setup w (fun c => c.dvfsCtl val)))

/-- DVFS_SETTLE_END (R392). -/
def execDvfsSettleEnd (s : State) : Host.Outcome State Fault Refusal :=
  .next (s.act (fun c => c.dvfsSettle))

/-- DVFS_VRDY_TIMEOUT (R392). -/
def execDvfsVrdyTimeout (s : State) : Host.Outcome State Fault Refusal :=
  .next (s.act (fun c => c.dvfsLate))

/-- THERMAL_SAMPLE (R394, R395). -/
def execThermalSample (temp : Int) (s : State) : Host.Outcome State Fault Refusal :=
  .next (s.actReset (fun c => c.thermal temp))

/-- THROTTLE_STEP (R394). -/
def execThrottleStep (s : State) : Host.Outcome State Fault Refusal :=
  .next (s.act (fun c => c.throttle))

/-- SL_TIMER_EXPIRY (R373, R384). -/
def execSlTimerExpiry (s : State) : Host.Outcome State Fault Refusal :=
  .next (s.act (fun c => c.slTimerEnd))

end Sys2Proof.Machine
end

