-- ==== Sys2Proof/Machine/Smb.lean ====
section
/-! DEFINITION. The SMBus target (R243, R244), its escape (R245), the fault log on it (R413), and what the Sideline answers
while the core is off (R382). -/

namespace Sys2Proof.Machine

/-- A command code that the Sideline does not answer itself: not acknowledged before GSTS.READY (R41), nor while the core domain is
off or its clocks are stopped (R382). -/
def State.smbCore (s : State) (act : State → State) : State :=
  if s.chip.clocked && s.chip.boot.ready then act s else { s with chip := s.chip.emit .smbNack }

/-- A transaction that sends bytes to the chip: with a bad PEC or a wrong byte count it is not acknowledged at its first wrong byte and
has no effect (R243). One with an unknown command code is no row of the table, and acts as `smbBad` does. -/
def smbChecked {σ α : Type} (nack : σ → σ) (v : Sent α) (act : α → σ → σ) (s : σ) : σ :=
  match v with
  | .good v => act v s
  | .bad => nack s

def Chip.smbBad (c : Chip) : Chip := c.emit .smbNack
def State.smbBad (s : State) : State := { s with chip := s.chip.smbBad }

/-- The event that leaves, as a native event record (R69, R243): dword3 holds the micro-frame of its queueing, GEN 0 and
bit 31 zero. -/
def smbEvent (mf : BitVec 16) (r : Rec) : List Byte :=
  let d := r.native 0 mf false
  leBytes 4 d.1.toNat ++ leBytes 4 d.2.1.toNat ++ leBytes 4 d.2.2.1.toNat ++ leBytes 4 (fld d.2.2.2 30 0)

/-- SMB_REG_WRITE: PF BAR0 at a 32-bit offset, from an SMBus manager only. -/
def State.smbWrite (s : State) (off : BitVec 16) (v : Word) : State :=
  s.smbCore (fun s =>
    if s.chip.straps.mgrSel ≠ 1 ∨ off.toNat % 4 ≠ 0 then s else s.setupWrite .smbus off.toNat v)

/-- SMB_REG_ADDR. -/
def State.smbAddr (s : State) (off : BitVec 16) : State :=
  s.smbCore (fun s =>
    if off.toNat % 4 ≠ 0 then { s with chip := s.chip.emit .smbNack }
    else { s with chip := { s.chip with smb := { s.chip.smb with readOff := off } } })

/-- SMB_REG_READ: the four bytes at the read offset, which then advances by 4. -/
def State.smbRead (s : State) : State :=
  s.smbCore (fun s =>
    let c := s.chip
    let c := c.emit (.smb (leBytes 4 (s.setupWord c.smb.readOff.toNat)))
    { s with chip := { c with smb := { c.smb with readOff := c.smb.readOff + 4 } } })

/-- SMB_EVT_READ. -/
def State.smbEvt (s : State) : State :=
  s.smbCore (fun s =>
    let c := s.chip
    match c.smb.events with
    | [] => { s with chip := c.emit (.smb (List.replicate 16 0)) }
    | (mf, r) :: rest =>
      let c := c.emit (.smb (smbEvent mf r))
      { s with chip := { c with smb := { c.smb with events := rest } } })

/-- A change bit of LINK_STS is set (R257). -/
def Chip.linkChanged (c : Chip) : Bool := c.link0.chg || c.link1.chg || c.link0.acted || c.link1.acted

/-- SMB_STATUS; reading it clears EVT_OVF. -/
def Chip.smbStatus (c : Chip) : Chip :=
  let b := flagAt (!c.smb.events.isEmpty) 0 + flagAt c.mgr.done 1 + flagAt c.linkChanged 2 + flagAt c.smb.evtOvf 3
  let c := c.emit (.smb [BitVec.ofNat 8 b])
  { c with smb := { c.smb with evtOvf := false } }

/-- SMB_ALERT# is low (R244). -/
def Chip.smbAlert (c : Chip) : Bool :=
  !c.smb.events.isEmpty || (c.mgr.done && c.mgr.ie) || (c.linkChanged && c.cap.linkIe)

/-- SMB_ALERT_RESPONSE: the chip that holds the line low answers with its address. -/
def State.smbAlertAnswer (s : State) : State :=
  s.smbCore (fun s =>
    { s with chip := s.chip.emit (if s.chip.smbAlert then .smb [BitVec.ofNat 8 (0x58 + s.chip.straps.smb.toNat)] else .smbNack) })

/-- SMB_ESCAPE (R245). While the core domain is off, CHIP_RESET acts at once and FREEZE is recorded for the end of the next
exit (R382). -/
def Chip.smbEscape (c : Chip) (key : Word) (op target flags : Byte) : Chip :=
  let thaw := bitAt flags 0
  let clean := fld flags 7 1 == 0
  if key ≠ Config.escKey then c.escEnd false
  else if c.clocked ∨ op ≠ 0x0B then c.escape op.toNat target.toNat thaw clean false
  else if (target = 0xFF ∨ target.toNat ≤ 127) then
    let c := c.log 0x15 0x0A (op.toNat + 2 ^ 8 * target.toNat) 1 0 0
    ({ c with smb := { c.smb with deferred := some (target, thaw) } } : Chip).escEnd true
  else c.escEnd false

/-- SMB_FLOG_STATUS. -/
def Chip.smbFlogStatus (c : Chip) : Chip := c.emit (.smb (leBytes 4 c.flogSts.toNat))

/-- SMB_FLOG_READ: the oldest unread entry. -/
def Chip.smbFlogRead (c : Chip) : Chip :=
  c.emit (.smb (if c.rel.unread = 0 then List.replicate 32 0 else (c.flog c.rel.oldest).bytes))

/-- SMB_FLOG_SEEK: a slot that does not exist sets nothing. -/
def Chip.smbFlogSeek (c : Chip) (slot : Nat) : Chip :=
  if 63 < slot then c else { c with smb := { c.smb with peek := slot } }

/-- SMB_FLOG_PEEK: the entry in the peek slot, which advances with wrap. -/
def Chip.smbFlogPeek (c : Chip) : Chip :=
  let c := c.emit (.smb (c.flog c.smb.peek).bytes)
  { c with smb := { c.smb with peek := (c.smb.peek + 1) % 64 } }

end Sys2Proof.Machine
end

