-- ==== Sys2Proof/Machine/ExecRegister.lean ====
section
/-! DEFINITION. Meanings: register writes, doorbells and what host memory answers to the ring front end (R3 to R7, R49 to R56,
R78 to R84). -/

namespace Sys2Proof.Machine

/-- REGISTER_WRITE (R3 to R7, R234, R242, R312): a write to any register, by offset. A Fielder names its own address space,
or, with BAR 1, a CSR by its number (R314, R316; log entry 47); an address that no BAR of the function has does not exist. -/
def execRegisterWrite (w : Writer) (bar : BitVec 3) (off : Word) (val : BitVec 64) (size : Nat)
    (s : State) : Host.Outcome State Fault Refusal :=
  match w with
  | .fn n =>
    if s.chip.barSize n.val bar.toNat ≤ off.toNat then .fault .noSuchAddress
    else .next (s.hostWrite n bar.toNat off.toNat val size).settled
  | .smbus =>
    if bar ≠ 0 ∨ 2 ^ 16 ≤ off.toNat then .fault .noSuchAddress
    else .next (if size = 4 then s.smbWrite (BitVec.ofNat 16 off.toNat) (BitVec.ofNat 32 val.toNat) else s).settled
  | .fielder f =>
    .next (if bar = 1 then s.fielderCsr f off.toNat (BitVec.ofNat 32 val.toNat)
      else s.fielderStore f off.toNat (BitVec.ofNat 32 val.toNat) size).settled

/-- CMD_RING_SIZE_WRITE (R50, R51). -/
def execCmdRingSizeWrite (inst : Fin 128) (val : Word) (s : State) : Host.Outcome State Fault Refusal :=
  .next (s.act (fun c => c.page inst.val (fun c => c.cmdSize inst.val val)))

/-- CRING0_SIZE_WRITE (R50, R51). -/
def execCring0SizeWrite (inst : Fin 128) (val : Word) (s : State) : Host.Outcome State Fault Refusal :=
  .next (s.act (fun c => c.page inst.val (fun c => c.cringSize inst.val val)))

/-- INST_CTL_WRITE (R84). -/
def execInstCtlWrite (inst : Fin 128) (val : Word) (s : State) : Host.Outcome State Fault Refusal :=
  .next (s.act (fun c => c.page inst.val (fun c => c.instCtl inst.val val)))

/-- DOORBELL_PRODUCER (R52, R53, R55). -/
def execDoorbellProducer (inst : Fin 128) (ring : BitVec 15) (idx : BitVec 16) (s : State) : Host.Outcome State Fault Refusal :=
  .next (s.act (fun c => Chip.doorbellP c inst.val ring.toNat idx.toNat))

/-- DOORBELL_CONSUMER (R52, R54, R55). -/
def execDoorbellConsumer (inst : Fin 128) (ring : BitVec 15) (idx : BitVec 16) (s : State) : Host.Outcome State Fault Refusal :=
  .next (s.act (fun c => Chip.doorbellC c inst.val ring.toNat idx.toNat))

/-- ELEMENT_FETCH_DONE (R56, R57, R71); ring 0 is the command ring. -/
def execElementFetchDone (inst : Fin 128) (ring : BitVec 15) (r : ReadEnd) (raw : List Byte)
    (s : State) : Host.Outcome State Fault Refusal :=
  .next (s.act (fun c => c.fetchDone inst.val ring.toNat r raw))

/-- CONFIRM_READ_DONE (R14, R284, R285). -/
def execConfirmReadDone (slot : BitVec 12) (ep : Fin 32) (r : ReadEnd) (s : State) : Host.Outcome State Fault Refusal :=
  .next (s.act (fun c => c.confirmDone (epKey (c.slotKey slot.toNat) ep.val) r))

/-- OUT_DATA_READ_DONE (R13, R285). -/
def execOutDataReadDone (slot : BitVec 12) (ep : Fin 32) (r : ReadEnd) (s : State) : Host.Outcome State Fault Refusal :=
  .next (s.act (fun c => c.outRead (epKey (c.slotKey slot.toNat) ep.val) r))

/-- HUDDLE_TIMER_EXPIRY (R82). -/
def execHuddleTimerExpiry (inst : Fin 128) (ring : Fin 64) (s : State) : Host.Outcome State Fault Refusal :=
  .next (s.act (fun c => c.huddleTimer inst.val ring.val))

/-- HUDDLE_CTL_WRITE (R81, R82). -/
def execHuddleCtlWrite (inst : Fin 128) (ring : Fin 64) (val : Word) (s : State) : Host.Outcome State Fault Refusal :=
  .next (s.act (fun c => c.page inst.val (fun c => c.huddleCtl inst.val ring.val val)))

/-- CRING_READBACK_DONE (R78, R446). -/
def execCringReadbackDone (inst : Fin 128) (ring : Fin 64) (r : ReadEnd) (s : State) : Host.Outcome State Fault Refusal :=
  .next (s.act (fun c => c.readback inst.val ring.val r))

/-- MSIX_UNMASK (R83). -/
def execMsixUnmask (inst : Fin 128) (entry : Option (Fin 64)) (s : State) : Host.Outcome State Fault Refusal :=
  .next (s.act (fun c => c.unmask inst.val (entry.map (fun k => k.val))))

end Sys2Proof.Machine
end

