-- ==== Sys2Proof/Machine/ExecRel.lean ====
section
/-! DEFINITION. Meanings: replay checks, scrubbing, repair and the Spin registers (R396 to R421). -/

namespace Sys2Proof.Machine

/-- REPLAY_CHECK_START (R400). -/
def execReplayCheckStart (s : State) : Host.Outcome State Fault Refusal :=
  .next (s.act (fun c => c.startCheck))

/-- SRAM_SHADOW_COPY_DONE (R402). -/
def execSramShadowCopyDone (bank : Fin 16) (s : State) : Host.Outcome State Fault Refusal :=
  .next (s.act (fun c => c.shadowDone bank.val))

/-- SRAM_CHECK_DONE (R402, R403). -/
def execSramCheckDone (bank : Fin 16) (r : CheckEnd) (bits us : BitVec 16) (s : State) : Host.Outcome State Fault Refusal :=
  .next (s.act (fun c => c.sramDone bank.val r bits us))

/-- FIELDER_CHECK_DONE (R401). -/
def execFielderCheckDone (f : Fin 12) (r : CheckEnd) (s : State) : Host.Outcome State Fault Refusal :=
  .next (s.act (fun c => c.fielderDone f.val r))

/-- LANE_ERROR (R400). -/
def execLaneError (lane : Fin 20) (kind : BitVec 3) (s : State) : Host.Outcome State Fault Refusal :=
  .next (s.act (fun c => Chip.laneError c lane.val kind))

/-- LANE_CHECK_DONE (R407). -/
def execLaneCheckDone (lane : Fin 20) (r : CheckEnd) (s : State) : Host.Outcome State Fault Refusal :=
  .next (s.act (fun c => c.laneDone lane.val r))

/-- OTP_COMMIT_DONE (R403). -/
def execOtpCommitDone (s : State) : Host.Outcome State Fault Refusal :=
  .next (s.act (fun c => c.otpDone))

/-- SCRUB_ROW (R396 to R399). -/
def execScrubRow (find : ScrubFind) (s : State) : Host.Outcome State Fault Refusal :=
  .next (s.act (fun c => c.scrub find))

/-- SIDELINE_SCRUB (R396). -/
def execSidelineScrub (corrected bad : Bool) (s : State) : Host.Outcome State Fault Refusal :=
  .next (s.act (fun c => Chip.sidelineScrub c corrected bad))

/-- SPIN_KEY_WRITE (R419): `late` says that more than 100 µs have passed since the first key. -/
def execSpinKeyWrite (w : Writer) (val : Word) (late : Bool) (s : State) : Host.Outcome State Fault Refusal :=
  .next (s.act (fun c => c.byMgr w (fun c => c.spinKey val late)))

/-- SPIN_LOCK (R419). -/
def execSpinLock (w : Writer) (s : State) : Host.Outcome State Fault Refusal :=
  .next (s.act (fun c => c.setup w Chip.spinLock))

/-- SPIN_ECC_ARM (R420, R421). -/
def execSpinEccArm (w : Writer) (s : State) : Host.Outcome State Fault Refusal :=
  .next (s.act (fun c => c.setup w Chip.spinArm))

/-- SPIN_PERTURBATION_END (R420). -/
def execSpinPerturbationEnd (x : SpinTimed) (s : State) : Host.Outcome State Fault Refusal :=
  .next (s.act (fun c => c.spinEnd x))

end Sys2Proof.Machine
end

