-- ==== Sys2Proof/Machine/ExecService.lean ====
section
/-! DEFINITION. Meanings: managed enumeration, shared HID and the mailbox (R261 to R283). -/

namespace Sys2Proof.Machine

/-- ENUM_STEP_COMPLETE (R265 to R267): `job` is 2^20 × bus + ROUTE (log entry 24). -/
def execEnumStepComplete (job : Nat) (r : EnumEnd) (s : State) : Host.Outcome State Fault Refusal :=
  .next (s.act (fun c => c.enumStep job r))

/-- HUB_PORT_CHANGE (R270, R271). -/
def execHubPortChange (slot : Fin 256) (port : BitVec 8) (e : HubPortEvent) (s : State) : Host.Outcome State Fault Refusal :=
  .next (s.act (fun c => c.hubPort slot.val port.toNat e))

/-- SHARED_HID_REPORT (R276, R277). -/
def execSharedHidReport (slot : Fin 256) (ep : Fin 32) (report : List Byte) (s : State) : Host.Outcome State Fault Refusal :=
  .next (s.act (fun c => c.hidReport (epKey slot.val ep.val) report))

/-- SHARE_CTL_WRITE (R272, R274). -/
def execShareCtlWrite (w : Writer) (g : Fin 8) (val : Word) (s : State) : Host.Outcome State Fault Refusal :=
  .next (s.act (fun c => c.setup w (fun c => c.shareCtl g.val val)))

/-- SHARE_MEM_WRITE (R272, R274). -/
def execShareMemWrite (w : Writer) (g : Fin 8) (hi : Bool) (val : Word) (s : State) : Host.Outcome State Fault Refusal :=
  .next (s.act (fun c => c.setup w (fun c => c.shareMem g.val hi val)))

/-- SHARED_EP0_REQUEST (R275). -/
def execSharedEp0Request (inst : Fin 128) (slot : Fin 256) (r : ShareAsk) (s : State) : Host.Outcome State Fault Refusal :=
  .next (s.act (fun c => c.shareReq inst.val slot.val r.req r.dev))

/-- MBOX_DEV_DESC (R280, R281). -/
def execMboxDevDesc (inst : Fin 128) (s : State) : Host.Outcome State Fault Refusal :=
  .next (s.act (fun c => c.page inst.val (fun c => Chip.mboxDevDesc c inst.val)))

/-- MBOX_CFG_DESC (R280, R281). -/
def execMboxCfgDesc (inst : Fin 128) (s : State) : Host.Outcome State Fault Refusal :=
  .next (s.act (fun c => c.page inst.val (fun c => Chip.mboxCfgDesc c inst.val)))

/-- MBOX_TOPOLOGY (R280, R281). -/
def execMboxTopology (inst : Fin 128) (s : State) : Host.Outcome State Fault Refusal :=
  .next (s.act (fun c => c.page inst.val (fun c => Chip.mboxTopology c inst.val)))

/-- MBOX_RESCAN (R268, R281). -/
def execMboxRescan (inst : Fin 128) (s : State) : Host.Outcome State Fault Refusal :=
  .next (s.act (fun c => c.page inst.val (fun c => Chip.mboxRescan c inst.val)))

/-- MBOX_ENUM_FAIL (R281). -/
def execMboxEnumFail (inst : Fin 128) (s : State) : Host.Outcome State Fault Refusal :=
  .next (s.act (fun c => c.page inst.val (fun c => Chip.mboxEnumFail c inst.val)))

/-- MBOX_SHARE_INFO (R281). -/
def execMboxShareInfo (inst : Fin 128) (s : State) : Host.Outcome State Fault Refusal :=
  .next (s.act (fun c => c.page inst.val (fun c => Chip.mboxShareInfo c inst.val)))

/-- MBOX_CHARGE_INFO (R281). -/
def execMboxChargeInfo (inst : Fin 128) (s : State) : Host.Outcome State Fault Refusal :=
  .next (s.act (fun c => c.page inst.val (fun c => Chip.mboxChargeInfo c inst.val)))

/-- MBOX_RESERVED_OPCODE (R280). -/
def execMboxReservedOpcode (inst : Fin 128) (op : Byte) (s : State) : Host.Outcome State Fault Refusal :=
  .next (s.act (fun c => c.page inst.val (fun c => c.mboxReserved inst.val op.toNat)))

end Sys2Proof.Machine
end

