-- ==== Sys2Proof/Machine/ExecSmb.lean ====
section
/-! DEFINITION. Meanings: the SMBus target and the escapes (R243 to R245, R382, R413). -/

namespace Sys2Proof.Machine

/-- SMB_REG_WRITE (R243). -/
def execSmbRegWrite (off : BitVec 16) (val : Sent Word) (s : State) : Host.Outcome State Fault Refusal :=
  .next (smbChecked State.smbBad val (fun v s => s.smbWrite off v) s).settled

/-- SMB_REG_ADDR (R243). -/
def execSmbRegAddr (off : Sent (BitVec 16)) (s : State) : Host.Outcome State Fault Refusal :=
  .next (smbChecked State.smbBad off (fun off s => s.smbAddr off) s).settled

/-- SMB_REG_READ (R243). -/
def execSmbRegRead (s : State) : Host.Outcome State Fault Refusal :=
  .next (s.smbRead).settled

/-- SMB_EVT_READ (R243, R244). -/
def execSmbEvtRead (s : State) : Host.Outcome State Fault Refusal :=
  .next (s.smbEvt).settled

/-- SMB_STATUS (R243). -/
def execSmbStatus (s : State) : Host.Outcome State Fault Refusal :=
  .next (s.act (fun c => Chip.smbStatus c))

/-- SMB_ESCAPE (R245, R382). -/
def execSmbEscape (key : Sent Word) (op target flags : Byte) (s : State) : Host.Outcome State Fault Refusal :=
  .next (s.actReset (smbChecked Chip.smbBad key (fun key c => c.smbEscape key op target flags)))

/-- ESC_CMD_WRITE (R245). -/
def execEscCmdWrite (val : Word) (s : State) : Host.Outcome State Fault Refusal :=
  .next (s.actReset (fun c => c.escCmd val))

/-- SMB_ALERT_RESPONSE (R244). -/
def execSmbAlertResponse (s : State) : Host.Outcome State Fault Refusal :=
  .next (s.smbAlertAnswer).settled

/-- SMB_FLOG_STATUS (R413). -/
def execSmbFlogStatus (s : State) : Host.Outcome State Fault Refusal :=
  .next (s.act (fun c => Chip.smbFlogStatus c))

/-- SMB_FLOG_READ (R413). -/
def execSmbFlogRead (s : State) : Host.Outcome State Fault Refusal :=
  .next (s.act (fun c => Chip.smbFlogRead c))

/-- SMB_FLOG_ACK (R409, R413): in any manager mode. -/
def execSmbFlogAck (count : Sent Byte) (s : State) : Host.Outcome State Fault Refusal :=
  .next (s.act (smbChecked Chip.smbBad count (fun n c => c.flogAck n.toNat)))

/-- SMB_FLOG_SEEK (R413). -/
def execSmbFlogSeek (slot : Sent Byte) (s : State) : Host.Outcome State Fault Refusal :=
  .next (s.act (smbChecked Chip.smbBad slot (fun n c => c.smbFlogSeek n.toNat)))

/-- SMB_FLOG_PEEK (R413). -/
def execSmbFlogPeek (s : State) : Host.Outcome State Fault Refusal :=
  .next (s.act (fun c => Chip.smbFlogPeek c))

/-- FLOG_ACK_WRITE (R409). -/
def execFlogAckWrite (w : Writer) (val : Word) (s : State) : Host.Outcome State Fault Refusal :=
  .next (s.act (fun c => c.setup w (fun c => c.flogAck (fld val 6 0))))

end Sys2Proof.Machine
end

