-- ==== Sys2Proof/Machine/ExecWhistle.lean ====
section
/-! DEFINITION. Meanings: the Whistle and the Fielders (R311 to R337, R404 to R406). -/

namespace Sys2Proof.Machine

/-- WHISTLE_LINE_CHANGE (R328). -/
def execWhistleLineChange (src : Fin 512) (level : Bool) (s : State) : Host.Outcome State Fault Refusal :=
  .next (s.act (fun c => c.lineChange src.val level))

/-- WHISTLE_DELIVERY_COMMIT (R332, R335). -/
def execWhistleDeliveryCommit (f : Fin 12) (nextPc : Word) (s : State) : Host.Outcome State Fault Refusal :=
  .next (s.act (fun c => c.commit f.val nextPc))

/-- FIELDER_WFI (R323). -/
def execFielderWfi (f : Fin 12) (pc : Word) (s : State) : Host.Outcome State Fault Refusal :=
  .next (s.act (fun c => c.wfi f.val pc))

/-- WFI_WAKE (R323, R324). -/
def execWfiWake (f : Fin 12) (s : State) : Host.Outcome State Fault Refusal :=
  .next (s.act (fun c => Chip.wfiWake c f.val))

/-- WDONE_WRITE (R334). -/
def execWdoneWrite (f : Fin 12) (val : Word) (s : State) : Host.Outcome State Fault Refusal :=
  .next (s.act (fun c => c.wdone f.val val))

/-- WTHRESH_WRITE (R333). -/
def execWthreshWrite (f : Fin 12) (val : Word) (s : State) : Host.Outcome State Fault Refusal :=
  .next (s.act (fun c => c.wthresh f.val val))

/-- MIE_WRITE (R333). -/
def execMieWrite (f : Fin 12) (mie meie : Bool) (s : State) : Host.Outcome State Fault Refusal :=
  .next (s.act (fun c => c.mieSet f.val mie meie))

/-- FIELDER_EXCEPTION (R315, R319). -/
def execFielderException (f : Fin 12) (cause : BitVec 5) (pc tval : Word) (s : State) : Host.Outcome State Fault Refusal :=
  .next (s.act (fun c => c.trap f.val cause pc tval))

/-- WSRC_CFG_WRITE (R326, R333). -/
def execWsrcCfgWrite (f : Fin 12) (src : Fin 512) (val : Word) (s : State) : Host.Outcome State Fault Refusal :=
  .next (s.act (fun c => c.wsrcCfg f.val src.val val))

/-- WPEND_SET_WRITE (R328). -/
def execWpendSetWrite (f : Fin 12) (k : Fin 16) (val : Word) (s : State) : Host.Outcome State Fault Refusal :=
  .next (s.act (fun c => c.wpendSet f.val k.val val))

/-- WPEND_CLR_WRITE (R328). -/
def execWpendClrWrite (f : Fin 12) (k : Fin 16) (val : Word) (s : State) : Host.Outcome State Fault Refusal :=
  .next (s.act (fun c => c.wpendClr f.val k.val val))

/-- WVEC_WRITE (R337). -/
def execWvecWrite (f : Fin 12) (bank : Bool) (src : Fin 512) (val : Word) (s : State) : Host.Outcome State Fault Refusal :=
  .next (s.act (fun c => c.wvec f.val bank src.val val))

/-- HOLDOFF_EXPIRY (R336). -/
def execHoldoffExpiry (g : Fin 32) (s : State) : Host.Outcome State Fault Refusal :=
  .next (s.act (fun c => c.holdoffEnd g.val))

/-- FTIMER_WRITE (R320). -/
def execFtimerWrite (f : Fin 12) (val : Word) (s : State) : Host.Outcome State Fault Refusal :=
  .next (s.act (fun c => c.ftimerSet f.val val))

/-- FTIMER_EXPIRY (R320). -/
def execFtimerExpiry (f : Fin 12) (s : State) : Host.Outcome State Fault Refusal :=
  .next (s.act (fun c => c.ftimerEnd f.val))

/-- FWDOG_WRITE (R321). -/
def execFwdogWrite (f : Fin 12) (val : Word) (s : State) : Host.Outcome State Fault Refusal :=
  .next (s.act (fun c => c.fwdogSet f.val val))

/-- FWDOG_EXPIRY (R321). -/
def execFwdogExpiry (f : Fin 12) (s : State) : Host.Outcome State Fault Refusal :=
  .next (s.act (fun c => c.fwdogEnd f.val))

/-- FREADY_WRITE (R318). -/
def execFreadyWrite (f : Fin 12) (val : Word) (s : State) : Host.Outcome State Fault Refusal :=
  .next (s.act (fun c => c.fready f.val val))

/-- FLOCK_READ (R322). -/
def execFlockRead (f : Fin 12) (i : Fin 64) (s : State) : Host.Outcome State Fault Refusal :=
  .next (s.act (fun c => Chip.flockRead c f.val i.val))

/-- FLOCK_FREE_WRITE (R322). -/
def execFlockFreeWrite (f : Fin 12) (val : Word) (s : State) : Host.Outcome State Fault Refusal :=
  .next (s.act (fun c => c.flockFree f.val val))

/-- FIELDER_FAULT (R319, R404, R412). -/
def execFielderFault (f : Fin 12) (k : FaultKind) (s : State) : Host.Outcome State Fault Refusal :=
  .next (s.act (fun c => c.fault f.val k))

/-- TAKEOVER_COPY_DONE (R404). -/
def execTakeoverCopyDone (f : Fin 12) (s : State) : Host.Outcome State Fault Refusal :=
  .next (s.act (fun c => c.copyDone f.val))

/-- ROLE_SUSPEND (R406). -/
def execRoleSuspend (f : Fin 12) (s : State) : Host.Outcome State Fault Refusal :=
  .next (s.act (fun c => Chip.roleSuspend c f.val))

end Sys2Proof.Machine
end

