-- ==== Sys2Proof/Machine/Dispatch.lean ====
section
/-! DEFINITION. The dispatch: one arm for each command, one direct call of its meaning. -/

namespace Sys2Proof.Machine

def exec (i : Instr) (s : State) : Host.Outcome State Fault Refusal :=
  match i with
  | .powerOn straps => Sys2Proof.Machine.execPowerOn straps s
  | .resetAssert => Sys2Proof.Machine.execResetAssert s
  | .resetRelease straps => Sys2Proof.Machine.execResetRelease straps s
  | .pwrgdInLow => Sys2Proof.Machine.execPwrgdInLow s
  | .crystalStable => Sys2Proof.Machine.execCrystalStable s
  | .pllLock => Sys2Proof.Machine.execPllLock s
  | .sramRdy => Sys2Proof.Machine.execSramRdy s
  | .logicRdy => Sys2Proof.Machine.execLogicRdy s
  | .bootSelfTestDone f pass => Sys2Proof.Machine.execBootSelfTestDone f pass s
  | .perstAssert link => Sys2Proof.Machine.execPerstAssert link s
  | .perstRelease link => Sys2Proof.Machine.execPerstRelease link s
  | .hotReset link => Sys2Proof.Machine.execHotReset link s
  | .flr inst => Sys2Proof.Machine.execFlr inst s
  | .linkTrainStart link => Sys2Proof.Machine.execLinkTrainStart link s
  | .linkReachesL0 link => Sys2Proof.Machine.execLinkReachesL0 link s
  | .passFallbackTimeout => Sys2Proof.Machine.execPassFallbackTimeout s
  | .linkPmStateChange link pm => Sys2Proof.Machine.execLinkPmStateChange link pm s
  | .linkLost link => Sys2Proof.Machine.execLinkLost link s
  | .hostLinkDelayExpiry link => Sys2Proof.Machine.execHostLinkDelayExpiry link s
  | .vfEnable inst => Sys2Proof.Machine.execVfEnable inst s
  | .vfDisable inst => Sys2Proof.Machine.execVfDisable inst s
  | .instCreate w => Sys2Proof.Machine.execInstCreate w s
  | .instResize w => Sys2Proof.Machine.execInstResize w s
  | .instDestroy w => Sys2Proof.Machine.execInstDestroy w s
  | .instReset w => Sys2Proof.Machine.execInstReset w s
  | .instResetEscalation inst => Sys2Proof.Machine.execInstResetEscalation inst s
  | .assignPort w => Sys2Proof.Machine.execAssignPort w s
  | .assignDevice w => Sys2Proof.Machine.execAssignDevice w s
  | .setRates w => Sys2Proof.Machine.execSetRates w s
  | .setWeight w => Sys2Proof.Machine.execSetWeight w s
  | .freeze w => Sys2Proof.Machine.execFreeze w s
  | .thaw w => Sys2Proof.Machine.execThaw w s
  | .chipReset w => Sys2Proof.Machine.execChipReset w s
  | .mgrReservedOpcode w op => Sys2Proof.Machine.execMgrReservedOpcode w op s
  | .fwLoad w => Sys2Proof.Machine.execFwLoad w s
  | .fwSwap w => Sys2Proof.Machine.execFwSwap w s
  | .fwFetchDone r image => Sys2Proof.Machine.execFwFetchDone r image s
  | .fwVerifyDone keyOk sigOk => Sys2Proof.Machine.execFwVerifyDone keyOk sigOk s
  | .fwStartTimeout f => Sys2Proof.Machine.execFwStartTimeout f s
  | .swapDrainDone => Sys2Proof.Machine.execSwapDrainDone s
  | .drainTimeout => Sys2Proof.Machine.execDrainTimeout s
  | .fuseBlown => Sys2Proof.Machine.execFuseBlown s
  | .fwDiscard w => Sys2Proof.Machine.execFwDiscard w s
  | .registerWrite w bar off val size => Sys2Proof.Machine.execRegisterWrite w bar off val size s
  | .cmdRingSizeWrite inst val => Sys2Proof.Machine.execCmdRingSizeWrite inst val s
  | .cring0SizeWrite inst val => Sys2Proof.Machine.execCring0SizeWrite inst val s
  | .instCtlWrite inst val => Sys2Proof.Machine.execInstCtlWrite inst val s
  | .doorbellProducer inst ring idx => Sys2Proof.Machine.execDoorbellProducer inst ring idx s
  | .doorbellConsumer inst ring idx => Sys2Proof.Machine.execDoorbellConsumer inst ring idx s
  | .elementFetchDone inst ring r raw => Sys2Proof.Machine.execElementFetchDone inst ring r raw s
  | .confirmReadDone slot ep r => Sys2Proof.Machine.execConfirmReadDone slot ep r s
  | .outDataReadDone slot ep r => Sys2Proof.Machine.execOutDataReadDone slot ep r s
  | .huddleTimerExpiry inst ring => Sys2Proof.Machine.execHuddleTimerExpiry inst ring s
  | .huddleCtlWrite inst ring val => Sys2Proof.Machine.execHuddleCtlWrite inst ring val s
  | .cringReadbackDone inst ring r => Sys2Proof.Machine.execCringReadbackDone inst ring r s
  | .msixUnmask inst entry => Sys2Proof.Machine.execMsixUnmask inst entry s
  | .enableSlot inst tag par => Sys2Proof.Machine.execEnableSlot inst tag par s
  | .addressDevice inst tag par => Sys2Proof.Machine.execAddressDevice inst tag par s
  | .configureEp inst tag par => Sys2Proof.Machine.execConfigureEp inst tag par s
  | .resetEp inst tag par => Sys2Proof.Machine.execResetEp inst tag par s
  | .stopEp inst tag par => Sys2Proof.Machine.execStopEp inst tag par s
  | .setDequeue inst tag par => Sys2Proof.Machine.execSetDequeue inst tag par s
  | .disableSlot inst tag par => Sys2Proof.Machine.execDisableSlot inst tag par s
  | .createRing inst tag par => Sys2Proof.Machine.execCreateRing inst tag par s
  | .destroyRing inst tag par => Sys2Proof.Machine.execDestroyRing inst tag par s
  | .portReset inst tag par => Sys2Proof.Machine.execPortReset inst tag par s
  | .portSuspend inst tag par => Sys2Proof.Machine.execPortSuspend inst tag par s
  | .portResume inst tag par => Sys2Proof.Machine.execPortResume inst tag par s
  | .portPower inst tag par => Sys2Proof.Machine.execPortPower inst tag par s
  | .getScorebook inst tag par => Sys2Proof.Machine.execGetScorebook inst tag par s
  | .noop inst tag par => Sys2Proof.Machine.execNoop inst tag par s
  | .microframeTick => Sys2Proof.Machine.execMicroframeTick s
  | .busMicroframeStart bus => Sys2Proof.Machine.execBusMicroframeStart bus s
  | .isochStageDeadline slot ep => Sys2Proof.Machine.execIsochStageDeadline slot ep s
  | .usb2TransactionEnd bus r pos us => Sys2Proof.Machine.execUsb2TransactionEnd bus r pos us s
  | .ssBurstEnd ssp r us => Sys2Proof.Machine.execSsBurstEnd ssp r us s
  | .erdyReceived slot ep stream numP => Sys2Proof.Machine.execErdyReceived slot ep stream numP s
  | .rallyReady slot ep => Sys2Proof.Machine.execRallyReady slot ep s
  | .scorebookSample => Sys2Proof.Machine.execScorebookSample s
  | .sbClear w => Sys2Proof.Machine.execSbClear w s
  | .sbSelWrite w val => Sys2Proof.Machine.execSbSelWrite w val s
  | .refSelWrite w val => Sys2Proof.Machine.execRefSelWrite w val s
  | .poolSelWrite w val => Sys2Proof.Machine.execPoolSelWrite w val s
  | .carrySelWrite w val => Sys2Proof.Machine.execCarrySelWrite w val s
  | .ocMapWrite w k val => Sys2Proof.Machine.execOcMapWrite w k val s
  | .pocFall n => Sys2Proof.Machine.execPocFall n s
  | .ocTripQualified n => Sys2Proof.Machine.execOcTripQualified n s
  | .pocRise n => Sys2Proof.Machine.execPocRise n s
  | .portPowerOnWaitEnd port => Sys2Proof.Machine.execPortPowerOnWaitEnd port s
  | .pullupSeen port low => Sys2Proof.Machine.execPullupSeen port low s
  | .pullupLostInDebounce port => Sys2Proof.Machine.execPullupLostInDebounce port s
  | .debounceEnd port => Sys2Proof.Machine.execDebounceEnd port s
  | .resetSe0End port chirp => Sys2Proof.Machine.execResetSe0End port chirp s
  | .resetRecoveryEnd port => Sys2Proof.Machine.execResetRecoveryEnd port s
  | .suspendEntryTimer port => Sys2Proof.Machine.execSuspendEntryTimer port s
  | .deviceResumeK port => Sys2Proof.Machine.execDeviceResumeK port s
  | .resumeKEnd port => Sys2Proof.Machine.execResumeKEnd port s
  | .resumeRecoveryEnd port => Sys2Proof.Machine.execResumeRecoveryEnd port s
  | .usb2Disconnect port => Sys2Proof.Machine.execUsb2Disconnect port s
  | .ssRxDetectPoll ssp found => Sys2Proof.Machine.execSsRxDetectPoll ssp found s
  | .ssPollingU0 ssp speed => Sys2Proof.Machine.execSsPollingU0 ssp speed s
  | .ssPollingTimeout ssp => Sys2Proof.Machine.execSsPollingTimeout ssp s
  | .ssIdleTimeout ssp u2 => Sys2Proof.Machine.execSsIdleTimeout ssp u2 s
  | .ssLinkError ssp recovered => Sys2Proof.Machine.execSsLinkError ssp recovered s
  | .ssTerminationLost ssp => Sys2Proof.Machine.execSsTerminationLost ssp s
  | .ssWakeLfps ssp => Sys2Proof.Machine.execSsWakeLfps ssp s
  | .u3ExitRetryTimeout ssp => Sys2Proof.Machine.execU3ExitRetryTimeout ssp s
  | .bcPowerCycleEnd port => Sys2Proof.Machine.execBcPowerCycleEnd port s
  | .ufpVbusChange high => Sys2Proof.Machine.execUfpVbusChange high s
  | .passCtlWrite w val => Sys2Proof.Machine.execPassCtlWrite w val s
  | .hubGetHubStatus ss => Sys2Proof.Machine.execHubGetHubStatus ss s
  | .hubGetPortStatus ss port => Sys2Proof.Machine.execHubGetPortStatus ss port s
  | .hubGetHubDescriptor ss => Sys2Proof.Machine.execHubGetHubDescriptor ss s
  | .hubClearHubFeature ss f => Sys2Proof.Machine.execHubClearHubFeature ss f s
  | .hubClearPortFeature ss port f => Sys2Proof.Machine.execHubClearPortFeature ss port f s
  | .hubSetPortFeature ss port f sel => Sys2Proof.Machine.execHubSetPortFeature ss port f sel s
  | .hubClearTtBuffer port => Sys2Proof.Machine.execHubClearTtBuffer port s
  | .hubResetTt port => Sys2Proof.Machine.execHubResetTt port s
  | .hubSetHubDepth depth => Sys2Proof.Machine.execHubSetHubDepth depth s
  | .hubGetPortErrorCount port => Sys2Proof.Machine.execHubGetPortErrorCount port s
  | .hubStandardRequest ss r => Sys2Proof.Machine.execHubStandardRequest ss r s
  | .hubRequestStalled ss req => Sys2Proof.Machine.execHubRequestStalled ss req s
  | .upstreamReset warm => Sys2Proof.Machine.execUpstreamReset warm s
  | .upstreamHotReset => Sys2Proof.Machine.execUpstreamHotReset s
  | .upstreamSuspend ss port => Sys2Proof.Machine.execUpstreamSuspend ss port s
  | .upstreamResume ss port => Sys2Proof.Machine.execUpstreamResume ss port s
  | .svcPortWrite w port val => Sys2Proof.Machine.execSvcPortWrite w port val s
  | .enumStepComplete job r => Sys2Proof.Machine.execEnumStepComplete job r s
  | .hubPortChange slot port e => Sys2Proof.Machine.execHubPortChange slot port e s
  | .sharedHidReport slot ep report => Sys2Proof.Machine.execSharedHidReport slot ep report s
  | .shareCtlWrite w g val => Sys2Proof.Machine.execShareCtlWrite w g val s
  | .shareMemWrite w g hi val => Sys2Proof.Machine.execShareMemWrite w g hi val s
  | .sharedEp0Request inst slot r => Sys2Proof.Machine.execSharedEp0Request inst slot r s
  | .mboxDevDesc inst => Sys2Proof.Machine.execMboxDevDesc inst s
  | .mboxCfgDesc inst => Sys2Proof.Machine.execMboxCfgDesc inst s
  | .mboxTopology inst => Sys2Proof.Machine.execMboxTopology inst s
  | .mboxRescan inst => Sys2Proof.Machine.execMboxRescan inst s
  | .mboxEnumFail inst => Sys2Proof.Machine.execMboxEnumFail inst s
  | .mboxShareInfo inst => Sys2Proof.Machine.execMboxShareInfo inst s
  | .mboxChargeInfo inst => Sys2Proof.Machine.execMboxChargeInfo inst s
  | .mboxReservedOpcode inst op => Sys2Proof.Machine.execMboxReservedOpcode inst op s
  | .smbRegWrite off val => Sys2Proof.Machine.execSmbRegWrite off val s
  | .smbRegAddr off => Sys2Proof.Machine.execSmbRegAddr off s
  | .smbRegRead => Sys2Proof.Machine.execSmbRegRead s
  | .smbEvtRead => Sys2Proof.Machine.execSmbEvtRead s
  | .smbStatus => Sys2Proof.Machine.execSmbStatus s
  | .smbEscape key op target flags => Sys2Proof.Machine.execSmbEscape key op target flags s
  | .escCmdWrite val => Sys2Proof.Machine.execEscCmdWrite val s
  | .smbAlertResponse => Sys2Proof.Machine.execSmbAlertResponse s
  | .smbFlogStatus => Sys2Proof.Machine.execSmbFlogStatus s
  | .smbFlogRead => Sys2Proof.Machine.execSmbFlogRead s
  | .smbFlogAck count => Sys2Proof.Machine.execSmbFlogAck count s
  | .smbFlogSeek slot => Sys2Proof.Machine.execSmbFlogSeek slot s
  | .smbFlogPeek => Sys2Proof.Machine.execSmbFlogPeek s
  | .flogAckWrite w val => Sys2Proof.Machine.execFlogAckWrite w val s
  | .chStart inst c => Sys2Proof.Machine.execChStart inst c s
  | .chResume inst c => Sys2Proof.Machine.execChResume inst c s
  | .chSkip inst c => Sys2Proof.Machine.execChSkip inst c s
  | .chAbort inst c => Sys2Proof.Machine.execChAbort inst c s
  | .chCmdRefused inst c val => Sys2Proof.Machine.execChCmdRefused inst c val s
  | .carryDescFetchDone ch r raw => Sys2Proof.Machine.execCarryDescFetchDone ch r raw s
  | .carryFetchTimeout ch => Sys2Proof.Machine.execCarryFetchTimeout ch s
  | .carryBurstReadDone ch r => Sys2Proof.Machine.execCarryBurstReadDone ch r s
  | .carryConfirmDone ch r => Sys2Proof.Machine.execCarryConfirmDone ch r s
  | .whistleLineChange src level => Sys2Proof.Machine.execWhistleLineChange src level s
  | .whistleDeliveryCommit f nextPc => Sys2Proof.Machine.execWhistleDeliveryCommit f nextPc s
  | .fielderWfi f pc => Sys2Proof.Machine.execFielderWfi f pc s
  | .wfiWake f => Sys2Proof.Machine.execWfiWake f s
  | .wdoneWrite f val => Sys2Proof.Machine.execWdoneWrite f val s
  | .wthreshWrite f val => Sys2Proof.Machine.execWthreshWrite f val s
  | .fielderException f cause pc tval => Sys2Proof.Machine.execFielderException f cause pc tval s
  | .wsrcCfgWrite f src val => Sys2Proof.Machine.execWsrcCfgWrite f src val s
  | .wpendSetWrite f k val => Sys2Proof.Machine.execWpendSetWrite f k val s
  | .wpendClrWrite f k val => Sys2Proof.Machine.execWpendClrWrite f k val s
  | .wvecWrite f bank src val => Sys2Proof.Machine.execWvecWrite f bank src val s
  | .holdoffExpiry g => Sys2Proof.Machine.execHoldoffExpiry g s
  | .ftimerWrite f val => Sys2Proof.Machine.execFtimerWrite f val s
  | .ftimerExpiry f => Sys2Proof.Machine.execFtimerExpiry f s
  | .fwdogWrite f val => Sys2Proof.Machine.execFwdogWrite f val s
  | .fwdogExpiry f => Sys2Proof.Machine.execFwdogExpiry f s
  | .freadyWrite f val => Sys2Proof.Machine.execFreadyWrite f val s
  | .flockRead f lock => Sys2Proof.Machine.execFlockRead f lock s
  | .flockFreeWrite f val => Sys2Proof.Machine.execFlockFreeWrite f val s
  | .fielderFault f k => Sys2Proof.Machine.execFielderFault f k s
  | .takeoverCopyDone f => Sys2Proof.Machine.execTakeoverCopyDone f s
  | .roleSuspend f => Sys2Proof.Machine.execRoleSuspend f s
  | .pwrModeWrite w val => Sys2Proof.Machine.execPwrModeWrite w val s
  | .dozeEntry => Sys2Proof.Machine.execDozeEntry s
  | .scrumStart => Sys2Proof.Machine.execScrumStart s
  | .scrumPhase1Done => Sys2Proof.Machine.execScrumPhase1Done s
  | .scrumStopStep => Sys2Proof.Machine.execScrumStopStep s
  | .fielderStateSaved => Sys2Proof.Machine.execFielderStateSaved s
  | .sramRetentionDone => Sys2Proof.Machine.execSramRetentionDone s
  | .clockStopDone => Sys2Proof.Machine.execClockStopDone s
  | .powerEntryComplete => Sys2Proof.Machine.execPowerEntryComplete s
  | .wakeSource e slTime => Sys2Proof.Machine.execWakeSource e slTime s
  | .vrdyRise => Sys2Proof.Machine.execVrdyRise s
  | .vrdyWaitTimeout => Sys2Proof.Machine.execVrdyWaitTimeout s
  | .padRelease w val => Sys2Proof.Machine.execPadRelease w val s
  | .dvfsCtlWrite w val => Sys2Proof.Machine.execDvfsCtlWrite w val s
  | .dvfsSettleEnd => Sys2Proof.Machine.execDvfsSettleEnd s
  | .dvfsVrdyTimeout => Sys2Proof.Machine.execDvfsVrdyTimeout s
  | .thermalSample temp => Sys2Proof.Machine.execThermalSample temp s
  | .throttleStep => Sys2Proof.Machine.execThrottleStep s
  | .slTimerExpiry => Sys2Proof.Machine.execSlTimerExpiry s
  | .fabSignalDetect p => Sys2Proof.Machine.execFabSignalDetect p s
  | .fabLockHeld p lanes => Sys2Proof.Machine.execFabLockHeld p lanes s
  | .fabTrainingTimeout p => Sys2Proof.Machine.execFabTrainingTimeout p s
  | .linkInit p h => Sys2Proof.Machine.execLinkInit p h s
  | .hello p h => Sys2Proof.Machine.execHello p h s
  | .helloTxTimer p => Sys2Proof.Machine.execHelloTxTimer p s
  | .ack p seq h => Sys2Proof.Machine.execAck p seq h s
  | .nak p seq h => Sys2Proof.Machine.execNak p seq h s
  | .sync p mf offset trim h => Sys2Proof.Machine.execSync p mf offset trim h s
  | .syncEcho p delay h => Sys2Proof.Machine.execSyncEcho p delay h s
  | .element p h raw => Sys2Proof.Machine.execElement p h raw s
  | .dataOut p h => Sys2Proof.Machine.execDataOut p h s
  | .dataIn p h off => Sys2Proof.Machine.execDataIn p h off s
  | .result p h code moved elem mf => Sys2Proof.Machine.execResult p h code moved elem mf s
  | .command p h k tag par => Sys2Proof.Machine.execCommand p h k tag par s
  | .reply p h tag code result data => Sys2Proof.Machine.execReply p h tag code result data s
  | .event p h e => Sys2Proof.Machine.execEvent p h e s
  | .carry p h space2 => Sys2Proof.Machine.execCarry p h space2 s
  | .protocol p h m => Sys2Proof.Machine.execProtocol p h m s
  | .e2eAck p h => Sys2Proof.Machine.execE2eAck p h s
  | .fabReplayTimeout p => Sys2Proof.Machine.execFabReplayTimeout p s
  | .fabSignalLoss p => Sys2Proof.Machine.execFabSignalLoss p s
  | .helloLossTimeout p => Sys2Proof.Machine.execHelloLossTimeout p s
  | .captainDeclare => Sys2Proof.Machine.execCaptainDeclare s
  | .topoInstall => Sys2Proof.Machine.execTopoInstall s
  | .sleepGrantLapse => Sys2Proof.Machine.execSleepGrantLapse s
  | .tapSeen p slTime => Sys2Proof.Machine.execTapSeen p slTime s
  | .replayCheckStart => Sys2Proof.Machine.execReplayCheckStart s
  | .sramShadowCopyDone bank => Sys2Proof.Machine.execSramShadowCopyDone bank s
  | .sramCheckDone bank r bits us => Sys2Proof.Machine.execSramCheckDone bank r bits us s
  | .fielderCheckDone f r => Sys2Proof.Machine.execFielderCheckDone f r s
  | .laneError lane kind => Sys2Proof.Machine.execLaneError lane kind s
  | .laneCheckDone lane r => Sys2Proof.Machine.execLaneCheckDone lane r s
  | .otpCommitDone => Sys2Proof.Machine.execOtpCommitDone s
  | .scrubRow find => Sys2Proof.Machine.execScrubRow find s
  | .sidelineScrub corrected bad => Sys2Proof.Machine.execSidelineScrub corrected bad s
  | .spinKeyWrite w val late => Sys2Proof.Machine.execSpinKeyWrite w val late s
  | .spinLock w => Sys2Proof.Machine.execSpinLock w s
  | .spinEccArm w => Sys2Proof.Machine.execSpinEccArm w s
  | .pwrgdInRise straps => Sys2Proof.Machine.execPwrgdInRise straps s
  | .vddSlFall => Sys2Proof.Machine.execVddSlFall s
  | .mieWrite f mie meie => Sys2Proof.Machine.execMieWrite f mie meie s
  | .swapCopyDone => Sys2Proof.Machine.execSwapCopyDone s
  | .fabTrainingRestart p => Sys2Proof.Machine.execFabTrainingRestart p s
  | .ackTxTimer p => Sys2Proof.Machine.execAckTxTimer p s
  | .deviceInitiatedU1U2 ssp u2 => Sys2Proof.Machine.execDeviceInitiatedU1U2 ssp u2 s
  | .u3ExitU0 ssp => Sys2Proof.Machine.execU3ExitU0 ssp s
  | .upstreamTransaction x => Sys2Proof.Machine.execUpstreamTransaction x s
  | .spinPerturbationEnd x => Sys2Proof.Machine.execSpinPerturbationEnd x s

end Sys2Proof.Machine
end

