-- ==== Sys2Proof/Safety.lean ====
section
/-! DEFINITION. What counts as a sound state and a safe run, in the terms statements use. -/

namespace Sys2Proof.Machine

/-- The staging memory is in its canonical form. -/
def State.sound (s : State) : Bool := s.stage.wf

/-- Nothing waits to go on by itself: no continuation, and no command that is due to begin. -/
def Chip.calmed (c : Chip) : Bool := c.waits.isEmpty && c.insts.all (fun x => x.2.cmds.all (fun m => m.phase != .waiting))

/-- The chip becomes `c`, and everything that can go on does. -/
def State.onward (s : State) (c : Chip) : State := ({ s with chip := c }).settled

/-- What every reset of the core clears (R22): firmware, the manager's and the SMBus registers, all instances but the PFs as
reset leaves them, slots, endpoints, schedules, companions, services, Fielders and their RAM, the Whistle, the Spin registers and the
fabric. -/
def Chip.coreCleared (c : Chip) : Prop :=
  c.boot = {} ∧ c.fw = {} ∧ c.mgr = {} ∧ c.smb = {} ∧ c.cap = { compatDefault := c.straps.compat } ∧ c.mf = 0 ∧ c.us = 0
    ∧ c.insts = pfTable c.straps ∧ c.slots = [] ∧ c.eps = [] ∧ c.peps = [] ∧ c.tts = [] ∧ c.buses = [] ∧ c.queues = []
    ∧ c.rally = [] ∧ c.ssps = [] ∧ c.shares = [] ∧ c.jobs = [] ∧ c.shareWait = [] ∧ c.internals = [] ∧ c.fielders = []
    ∧ c.srcs = [] ∧ c.grps = [] ∧ c.locks = [] ∧ c.ram = [] ∧ c.spin = {} ∧ c.fab = {} ∧ c.waits = []
    ∧ c.jtag.held = []

/-- What a reset of the core leaves of the ports: the levels of the POC# balls, whose deglitch counts start again (R22, R26). -/
def Chip.portsCleared (c : Chip) : Prop := ∀ p, c.port p = { pocLow := (c.port p).pocLow }

/-- What the Sideline, OTP and the fuses keep from `c` to `d` over RESET# and CHIP_RESET (R22): the fault log and FLOG_STS, the
wake and refusal records, SL_TIME and SL_TIMER, TRIPPED, and the repairs and retirements recorded. -/
def Chip.sidelineKept (c d : Chip) : Prop :=
  d.rel.flog = c.rel.flog ∧ d.rel.oldest = c.rel.oldest ∧ d.rel.unread = c.rel.unread ∧ d.rel.lost = c.rel.lost
    ∧ d.rel.seq = c.rel.seq ∧ d.rel.retired = c.rel.retired ∧ d.rel.repairs = c.rel.repairs.filter (fun r => !r.injected)
    ∧ d.rel.otpLeft = c.rel.otpLeft ∧ d.rel.otpRows = c.rel.otpRows ∧ d.rel.otpFielders = c.rel.otpFielders
    ∧ d.pwr.wkBlock = c.pwr.wkBlock ∧ d.pwr.wkFrom = c.pwr.wkFrom ∧ d.pwr.wkDetail = c.pwr.wkDetail ∧ d.pwr.wkAp = c.pwr.wkAp
    ∧ d.pwr.wakeTime = c.pwr.wakeTime ∧ d.pwr.slTime = c.pwr.slTime ∧ d.pwr.slTimer = c.pwr.slTimer
    ∧ d.pwr.refuse1 = c.pwr.refuse1 ∧ d.pwr.refuse2 = c.pwr.refuse2 ∧ d.pwr.refBlock = c.pwr.refBlock
    ∧ d.pwr.refPhase = c.pwr.refPhase ∧ d.pwr.refTarget = c.pwr.refTarget ∧ d.pwr.refStep = c.pwr.refStep
    ∧ d.pwr.tripped = c.pwr.tripped ∧ d.fuse = c.fuse ∧ d.otpKey = c.otpKey

/-- Instance `n` of this node has fetched one command, which may begin: it is native and ACTIVE, the command's fields are legal, its
work is not down, and nothing else waits on the chip (R98, R99). -/
def Chip.soleCmd (c : Chip) (n : Nat) (m : Cmd) : Prop :=
  c.calmed = true ∧ (c.inst n).st = .active ∧ (c.inst n).compat = false ∧ (c.inst n).cmds = [m] ∧ m.phase = .fetched
    ∧ cmdValid m.kind m.par = true ∧ (c.boot.fwRunning && c.roleDown (cmdKinds.idxOf m.kind)) = false ∧ c.cmdNode n m = none

/-- The one command of an instance executes, in the hands of a Fielder of its role (R45). -/
def Chip.begun (c : Chip) (n : Nat) (m : Cmd) : Chip :=
  let d := c.dispatch (cmdKinds.idxOf m.kind)
  d.2.updInst n (fun x => { x with cmds := [{ m with phase := .running, holder := d.1 }] })

/-- A firmware-executed command of the manager executes, in the hands of a Fielder of its role: BUSY, DONE cleared, and the ticket under
which it ends (R45, R116, R117). -/
def Chip.mgrBegun (c : Chip) (op : Nat) : Chip :=
  let d := c.spinBreak.mgrBegin.dispatch (32 + op)
  { d.2 with mgr := { d.2.mgr with op := op, holder := d.1 } }

/-- A mailbox request executes, in the hands of a Fielder of its role: BUSY, and DONE cleared (R45, R280). -/
def Chip.mboxBegun (c : Chip) (n op : Nat) : Chip :=
  let d := c.dispatch (64 + op)
  d.2.updInst n (fun x => { x with mbox := { x.mbox with busy := true, done := false, holder := d.1 } })

/-- The one command of an instance is reported (R56, R69, R98): it leaves the ring, its record is posted on ring 0, and further
command elements may be fetched; one fetched before the ring was last enabled moves no consumer (R51). -/
def Chip.reported (c : Chip) (n : Nat) (m : Cmd) (code : Byte) (result : Nat) : Chip :=
  let next := (m.entry + 1) % 2 ^ (c.inst n).cmdLog2
  ((c.updInst n (fun x => { x with cmds := [], cmdCons := if m.old then x.cmdCons else next })).post n 0
    { body := .command code m.tag (BitVec.ofNat 24 result) next m.entry }).fetchCmds n

/-- A transfer ring with no TD begun, ended or partly consumed. -/
abbrev Ring.atEase (r : Ring) : Prop := r.td = {} ∧ r.long = false

/-- Endpoint `key`, without streams, of a slot of this node's own instances rests: nothing of it is on the bus, in flight or due, none
of its TDs waits to be reported, and its ring is at ease. -/
abbrev Chip.resting (c : Chip) (key : Nat) : Prop :=
  farKey (keySlot key) = false ∧ (c.slot (keySlot key)).far = none ∧ c.onBus key = false ∧ (c.ep key).done = []
    ∧ (c.ep key).due = 0 ∧ (c.ep key).flights = [] ∧ (c.ep key).maxStreams = 0 ∧ (c.epRing key).atEase
    ∧ ((c.epRing key).live = true → (c.epRing key).key = key)

/-- An endpoint with no TD in progress, given back its cells. -/
def Ep.unstaged (e : Ep) : Ep :=
  { e with
    cells := e.cells - (e.cells - e.unread - e.kept.sum), staged := false, staging := false, stagedLen := 0
    settled := e.asked && e.settled }

/-- The step answers a next state. -/
def State.goesOn (s : State) : Bool :=
  match step s with
  | .next _ => true
  | _ => false

end Sys2Proof.Machine
end

