-- ==== Sys2Proof/Certificates/Slice0/Obligations.lean ====
section
/-! DEFINITION. The statements about the model. Where a statement says that a command answers
`.next (s.onward c)`, the chip becomes `c` and then everything that can go on does (`Chip.pump`), which `CalmedSettles`
says is nothing on a chip where nothing waits. -/

open Sys2Proof Sys2Proof.Machine

/-- The step law: with a command at the front of the queue, a step is `exec` of it on the queue's rest. -/
def Obligations.StepRunsTheFrontCommand : Prop :=
  ∀ (s : State) (i : Instr) (rest : List Instr), s.pending = i :: rest → step s = exec i { s with pending := rest }

/-- On an empty queue the block idles (the model's choice, log entry 5). -/
def Obligations.EmptyQueueIdles : Prop := ∀ s : State, s.pending = [] → step s = .next s

/-- Every step keeps the staging memory in its canonical form, takes exactly the front command off the queue, and never refuses. -/
def Obligations.StepKeepsStagingCanonical : Prop :=
  ∀ s : State, s.sound = true →
    (∀ t, step s = .next t → t.sound = true ∧ t.pending = s.pending.tail) ∧ (∀ r, step s ≠ .refused r)

/-- Only REGISTER_WRITE can stop the block, and only for an address outside the function's BARs (R234). -/
def Obligations.OnlyBadAddressesStop : Prop :=
  ∀ (i : Instr) (s : State) (r : Fault), exec i s = .fault r →
    (∃ n bar off val size, i = .registerWrite (.fn n) bar off val size ∧ s.chip.barSize n.val bar.toNat ≤ off.toNat)
    ∨ (∃ bar off val size, i = .registerWrite .smbus bar off val size ∧ (bar ≠ 0 ∨ 2 ^ 16 ≤ off.toNat))

/-- On a calmed chip, what ends every command changes nothing: `onward` is the named change and no other. -/
def Obligations.CalmedSettles : Prop :=
  ∀ (s : State) (c : Chip), c.calmed = true → s.onward c = { s with chip := c }

/-- RESET# and what acts like it (R22, R26, R245, R395, R435): RESET_ASSERT outside power-on reset, RESET_RELEASE that ends the reset,
PWRGD_IN_LOW while it is watched, and CHIP_RESET by the manager with its key. Power-on reset (R22, R434): POWER_ON, and PWRGD_IN_RISE that
ends it, clear the Sideline too and latch the straps; VDD_SL_FALL begins it. OTP and the fuses stay, and the repairs and retirements in
OTP are what remains of those. -/
def Obligations.ResetsClearAndKeep : Prop :=
  (∀ s : State,
    (s.chip.hold.por = false →
      ∃ t, exec .resetAssert s = .next t ∧ t.chip.hold.resetN = false ∧ t.chip.straps = s.chip.straps
        ∧ t.chip.coreCleared ∧ t.chip.portsCleared ∧ s.chip.sidelineKept t.chip ∧ t.stage = [] ∧ t.pending = s.pending)
    ∧ (∀ p, s.chip.hold.resetN = false → s.chip.hold.por = false → s.chip.hold.pwrgdHold = false → s.chip.hold.trip = false →
      ∃ t, exec (.resetRelease p) s = .next t ∧ t.chip.hold.resetN = true ∧ t.chip.straps = latch p
        ∧ t.chip.boot.mode = .starting ∧ t.chip.coreCleared ∧ t.chip.portsCleared
            ∧ s.chip.sidelineKept t.chip ∧ t.stage = [] ∧ t.pending = s.pending)
    ∧ (s.chip.hold.wakeOut = true → s.chip.hold.pwrgdSeen = true → s.chip.hold.por = false → s.chip.hold.trip = false →
      ∃ t, exec .pwrgdInLow s = .next t ∧ t.chip.hold.pwrgdHold = true ∧ t.chip.straps = s.chip.straps
        ∧ t.chip.coreCleared ∧ t.chip.portsCleared ∧ s.chip.sidelineKept t.chip ∧ t.stage = [] ∧ t.pending = s.pending)
    ∧ (∀ w, s.chip.isMgr w = true → s.chip.calmed = true → s.chip.mgr.busy = false → s.chip.mgr.arg0 = Config.escKey →
      s.chip.mgr.arg1 = 0 → s.chip.mgr.arg2 = 0 → s.chip.mgr.arg3 = 0 →
      ∃ t, exec (.chipReset w) s = .next t ∧ t.chip.hold = s.chip.hold ∧ t.chip.straps = s.chip.straps
        ∧ t.chip.coreCleared ∧ t.chip.portsCleared ∧ s.chip.sidelineKept t.chip ∧ t.stage = [] ∧ t.pending = s.pending))
  ∧ (∀ s : State,
    let otp : Rel := { repairs := s.chip.rel.otpRows, retired := s.chip.rel.otpFielders, otpLeft := s.chip.rel.otpLeft
                       otpRows := s.chip.rel.otpRows, otpFielders := s.chip.rel.otpFielders }
    (∀ p, ∃ t, exec (.powerOn p) s = .next t ∧ t.chip.straps = latch p ∧ t.chip.hold = { resetN := false } ∧ t.chip.coreCleared
        ∧ t.chip.portsCleared ∧ t.chip.rel = otp ∧ t.chip.pwr = { gpio := s.chip.pwr.gpio } ∧ t.chip.fuse = s.chip.fuse
        ∧ t.chip.otpKey = s.chip.otpKey ∧ t.stage = [] ∧ t.pending = s.pending)
    ∧ (∃ t, exec .vddSlFall s = .next t ∧ t.chip.hold.por = true ∧ t.chip.hold.vddSl = false ∧ t.chip.coreCleared
        ∧ t.chip.portsCleared ∧ t.chip.rel = otp ∧ t.chip.pwr = { gpio := s.chip.pwr.gpio } ∧ t.chip.fuse = s.chip.fuse
        ∧ t.chip.otpKey = s.chip.otpKey ∧ t.stage = [] ∧ t.pending = s.pending)
    ∧ (∀ p, s.chip.hold.por = true → s.chip.hold.vddSl = true →
      ∃ t, exec (.pwrgdInRise p) s = .next t ∧ t.chip.straps = latch p ∧ t.chip.hold = { resetN := s.chip.hold.resetN }
        ∧ t.chip.coreCleared ∧ t.chip.portsCleared ∧ t.chip.rel = otp ∧ t.chip.pwr = { gpio := s.chip.pwr.gpio }
        ∧ t.chip.fuse = s.chip.fuse ∧ t.chip.otpKey = s.chip.otpKey ∧ t.stage = [] ∧ t.pending = s.pending))

/-- The steps of the bring-up (R26): each follows the one before it and sets what its row says; step 5 makes the chip READY and WAITING; a
Fielder that passes its self-test waits in WFI (R317). -/
def Obligations.BringUpSteps : Prop :=
  ∀ s : State, s.chip.up = true → s.chip.pwr.st = .run →
    (s.chip.boot.crystal = false →
      exec .crystalStable s = .next (s.onward { s.chip with
        boot := { s.chip.boot with crystal := true }
        ports := Tbl.mapv {} s.chip.ports (fun _ p => { p with deglitch := p.pocLow }) }))
    ∧ (s.chip.boot.crystal = true →
      exec .pllLock s = .next (s.onward { s.chip with boot := { s.chip.boot with pll := true } }))
    ∧ (s.chip.boot.pll = true →
      exec .sramRdy s = .next (s.onward { s.chip with boot := { s.chip.boot with sram := true } }))
    ∧ (s.chip.boot.sram = true → s.chip.boot.ready = false → s.chip.rel.retired = [] →
      exec .logicRdy s = .next (s.onward { s.chip with boot := { s.chip.boot with ready := true, mode := .waiting } }))
    ∧ (∀ f : Fin 12, s.chip.boot.ready = true → (s.chip.fielder f.val).st = .boot →
      exec (.bootSelfTestDone f true) s
        = .next (s.onward (s.chip.updFielder f.val (fun x => { x with st := .waiting, wfi := true }))))

/-- The links (R22, R27, R257, R258, R278): PERST# and hot reset take the link down or into training and reset each instance behind it;
training, L0, a change of power state, a loss and the end of the lost-host delay change the link's registers, and the charging policy
follows. A change of power state that takes the link into or out of L0 and L1 is told to the nodes that hold something of its instances;
LINK_STS.DOWN sets CHG where it changes. -/
def Obligations.LinkEventsAct : Prop :=
  ∀ (s : State) (l : Fin 2),
    let k := s.chip.link l.val
    (∀ pm, linkRunning k.pm = linkRunning pm → s.chip.setPm l.val pm = s.chip.updLink l.val (fun k => { k with pm := pm }))
    ∧ (∀ b, k.down = b → s.chip.linkDown l.val b = s.chip)
    ∧ (∀ b, k.down ≠ b → s.chip.cap.linkIe = false →
      s.chip.linkDown l.val b = s.chip.updLink l.val (fun k => { k with down := b, chg := true }))
    ∧ exec (.perstRelease l) s = .next (s.onward (s.chip.updLink l.val (fun k => { k with perstN := true })))
    ∧ (k.perstN = true →
      let d := (s.chip.setPm l.val .down).updLink l.val (fun k => { k with perstN := false, lost := false, delay := false })
      exec (.perstAssert l) s
        = .next (s.onward (((if linkRunning k.pm then d.linkDown l.val true else d).resetLink l.val).chargeAll)))
    ∧ (k.perstN = true → k.pm ≠ .down →
      exec (.hotReset l) s = .next (s.onward (((s.chip.setPm l.val .training).resetLink l.val).chargeAll)))
    ∧ (s.chip.boot.ready = true → k.perstN = true → (l = 0 ∨ s.chip.straps.bifur = true) → k.pm = .down →
      exec (.linkTrainStart l) s = .next (s.onward (s.chip.updLink l.val (fun k => { k with pm := .training }))))
    ∧ (s.chip.boot.ready = true → s.chip.boot.chosen = true → k.perstN = true → (l = 0 ∨ s.chip.straps.bifur = true) →
      let d := ((s.chip.setPm l.val .l0).updLink l.val (fun k => { k with lost := false, delay := false })).linkDown l.val false
      exec (.linkReachesL0 l) s = .next (s.onward ((if k.lost then d.linkBack l.val else d).chargeAll)))
    ∧ (∀ pm, (linkRunning k.pm = false ∨ linkRunning pm = true ∨ pm = .l2 ∨ pm = .l3) →
      exec (.linkPmStateChange l pm) s = .next (s.onward (s.chip.setPm l.val pm).chargeAll))
    ∧ (∀ pm, linkRunning k.pm = true → pm = .down ∨ pm = .training →
      exec (.linkPmStateChange l pm) s = .next (s.onward (((s.chip.linkDown l.val true).setPm l.val pm).chargeAll)))
    ∧ (∀ n x, k.perstN = true → s.chip.cap.linkIe = false → s.chip.slots = [] → s.chip.eps = [] → s.chip.insts = [(n, x)] → n < 128 →
      s.chip.instLink n = l.val → x.st = .active → x.genDue = 0 → x.portViews = [] →
      ∃ c : Chip, exec (.linkLost l) s = .next (s.onward c.chargeAll)
        ∧ (c.link l.val).pm = .down ∧ (c.link l.val).lost = true ∧ (c.link l.val).delay = true ∧ (c.link l.val).down = true
        ∧ (c.inst n).st = .linkLost ∧ (c.inst n).gen = x.gen + 1 ∧ (c.inst n).cmds = x.cmds
        ∧ c.ports = s.chip.ports ∧ c.eps = s.chip.eps ∧ c.boot = s.chip.boot)
    ∧ (k.lost = true → k.delay = true → k.policy = 0 → s.chip.cap.linkIe = false →
      exec (.hostLinkDelayExpiry l) s = .next (s.onward (s.chip.updLink l.val (fun k => { k with delay := false, acted := true }))))

/-- The choice of R29: L0 on a link before the choice gives SANDLOT_HC with PF0 as the owner of all 24 ports, and the fallback
timeout gives SANDLOT_PASS with every connector the hub's. -/
def Obligations.SandlotChoice : Prop :=
  ∀ s : State, s.chip.boot.ready = true → s.chip.boot.mode = .waiting → s.chip.boot.chosen = false →
    (s.chip.link0.perstN = true → s.chip.link0.down = false → s.chip.link0.lost = false →
      let d := s.chip.setPm 0 .l0
      exec (.linkReachesL0 0) s = .next (s.onward (forUpTo 24 (fun p (c : Chip) => c.updPort p (fun q => { q with owner := 0 }))
        { d with
          link0 := { d.link0 with lost := false, delay := false }
          boot := { d.boot with mode := .sandlotHc, chosen := true } }).chargeAll))
    ∧ (s.chip.straps.passOff = false →
      exec .passFallbackTimeout s = .next (s.onward
        (forUpTo 24 (fun p (c : Chip) => c.updPort p (fun q => { q with pass := true, owner := nobody }))
          { s.chip with
            boot := { s.chip.boot with mode := .sandlotPass, chosen := true }
            pass := { s.chip.pass with hubEn := true } }).chargeAll))

/-- Resets of one instance (R22, R236, R250): FLR of an ACTIVE instance and the disabling of an ACTIVE VF start its reset; VF
Enable takes a CREATED instance to ACTIVE, which keeps the events held for it; an escalation is recorded in the fault log. -/
def Obligations.InstanceResetTriggers : Prop :=
  ∀ (s : State) (i : Fin 128),
    let n := i.val
    ((s.chip.inst n).st = .active →
      exec (.flr i) s = .next (s.onward ((s.chip.startReset n .active).updInst n
        (fun x => if x.st = .absent then x else { x with fmask := false }))))
    ∧ (s.chip.isPf n = false → (s.chip.inst n).st = .active → (s.chip.inst n).vfOn = true →
      exec (.vfDisable i) s = .next (s.onward ((s.chip.updInst n (fun x => { x with vfOn := false })).startReset n .created)))
    ∧ (s.chip.isPf n = false → (s.chip.inst n).st = .created →
      exec (.vfEnable i) s = .next (s.onward (s.chip.updInst n (fun x =>
        { x.afterReset x.compat with
          st := .active, vfOn := true, orphans := x.orphans, evtOvf := x.evtOvf, ovfDue := x.ovfDue
          crings := if (x.cring 0).held.isEmpty then [] else [(0, { held := (x.cring 0).held })] }))))
    ∧ ((s.chip.inst n).st = .resetting →
      let c := (s.chip.updInst n (fun x => { x with escalated := true })).log 0x15 0x09 n (s.chip.inst n).gen.toNat 0 0
      exec (.instResetEscalation i) s
        = .next (s.onward (if c.waits.any (fun w => w.cont == .instReset n) then c else c.resetWork n)))

/-- What the start of an instance's reset does on a node without devices (R250 steps 1 to 3): RESETTING, the generation bumped,
commands and channels dropped; under firmware the rest follows, and without it nothing more until the escalation. -/
def Obligations.StartResetBumpsGeneration : Prop :=
  ∀ (c : Chip) (n : Nat) (back : InstSt), c.slots = [] → c.eps = [] → c.waits = [] → c.rel.suspended = 0 → (c.inst n).genDue = 0 →
    let d := c.updInst n (fun x => { x with
      st := .resetting, back := back, gen := x.gen + 1, escalated := false, cmds := [], cmdDead := x.cmdDead + x.cmdReads
      cmdReads := 0, chans := Tbl.mapv {} x.chans (fun _ h => h.reset), stsEn := false })
    c.startReset n back = if c.boot.fwRunning then { d with waits := [{ posted := false, gens := [n], cont := .instReset n }] } else d

/-- A manager command that still holds MGR_STS completes with its code and RESULT (R116): BUSY falls, DONE rises. -/
def Obligations.ManagerCompletionReports : Prop :=
  ∀ (c : Chip) (code : Byte) (r : Nat), c.mgr.busy = true → c.mgr.ie = false →
    c.mgrDone c.mgr.ticket code r
      = { c with mgr := { c.mgr with busy := false, done := true, code := code, result := BitVec.ofNat 16 r } }

/-- A write of MGR_CMD while a command is in progress is dropped and sets OVERRUN, except FREEZE and CHIP_RESET, which abort it (R116); a
write by anyone but the manager is discarded (R242). -/
def Obligations.ManagerBusyAndForeignWrites : Prop :=
  ∀ (s : State) (w : Writer),
    (s.chip.isMgr w = false →
      exec (.instCreate w) s = .next (s.onward s.chip.spinBreak) ∧ exec (.assignPort w) s = .next (s.onward s.chip.spinBreak)
      ∧ exec (.freeze w) s = .next (s.onward s.chip.spinBreak) ∧ exec (.fwLoad w) s = .next (s.onward s.chip.spinBreak))
    ∧ (s.chip.isMgr w = true → s.chip.mgr.busy = true →
      let late : Chip := { s.chip.spinBreak with mgr := { s.chip.mgr with overrun := true } }
      exec (.instCreate w) s = .next (s.onward late) ∧ exec (.instReset w) s = .next (s.onward late)
      ∧ exec (.setWeight w) s = .next (s.onward late) ∧ exec (.fwSwap w) s = .next (s.onward late)
      ∧ exec (.freeze w) s = .next (s.onward (
          let c := s.chip.spinBreak.mgrAbort.mgrBegin
          if !c.mgr.argsOk 0x1FF 0 0 0 then c.mgrDone c.mgr.ticket ccParam 0
          else match c.freezeRefused (fld c.mgr.arg0 7 0) with
            | some r => c.mgrDone c.mgr.ticket ccParam r
            | none => (c.freezeTarget (fld c.mgr.arg0 7 0) (bitAt c.mgr.arg0 8)).mgrDone c.mgr.ticket ccSuccess 0)))

/-- The firmware-executed commands about instances (R116 to R118, R246 to R250): each, given arguments that R118 and R255 accept, has its
effect, and completes SUCCESS with the instance's GEN: INST_RESIZE at once, INST_CREATE once the bump of GEN has taken effect, and
INST_DESTROY and INST_RESET when the reset they start is over; on a chip where nothing waits and no device is attached all of that happens
with the command itself. -/
def Obligations.InstanceCommandsComplete : Prop :=
  ∀ (s : State) (w : Writer), s.chip.isMgr w = true → s.chip.mgr.busy = false → s.chip.boot.fwRunning = true →
    s.chip.rel.suspended = 0 →
    let n := s.chip.mgr.inst
    let x := s.chip.inst n
    let q := s.chip.mgr.sizes
    let c (op : Nat) : Chip := s.chip.mgrBegun op
    let made : Chip := (((c 1).updInst n (fun x => { x with
      st := if x.vfOn then .active else .created
      compat := s.chip.cap.compatDefault, quota := q, told := [] })).freshQueues n).bindChans n q.chans
    let ended (t : State) (st : InstSt) : Prop :=
      (t.chip.inst n).st = st ∧ (t.chip.inst n).gen = x.gen + 1 ∧ (t.chip.inst n).cmds = [] ∧ (t.chip.inst n).cmdEn = false
        ∧ (t.chip.inst n).crings = [] ∧ (∀ m, m ≠ n → t.chip.inst m = s.chip.inst m) ∧ t.chip.ports = s.chip.ports
        ∧ t.chip.mgr.busy = false ∧ t.chip.mgr.done = true ∧ t.chip.mgr.code = ccSuccess
        ∧ t.chip.mgr.result = BitVec.ofNat 16 (x.gen + 1).toNat
    (s.chip.mgr.argsOk 0x7F 0x03FF01FF 0x1FFF0FFF 0x01FF7F7F = true → s.chip.isPf n = false → x.st = .absent →
      q.inRange = true → q.short s.chip.unreserved = none →
      exec (.instCreate w) s = .next (s.onward ((made.bumpGen n).wait { gens := [n], cont := .genDone s.chip.ids n }))
      ∧ (s.chip.calmed = true → s.chip.mgr.ie = false → x.genDue = 0 → s.chip.genCarried n (x.gen + 1) = false →
        exec (.instCreate w) s = .next { s with chip :=
          (made.updInst n (fun x => { x with gen := x.gen + 1 })).mgrDone s.chip.ids ccSuccess (x.gen + 1).toNat }))
    ∧ (s.chip.mgr.argsOk 0x7F 0x03FF01FF 0x1FFF0FFF 0x01FF7F7F = true → x.st ≠ .absent → q.inRange = true →
      ((s.chip.use n).short q) = none → x.vectorsFit q = true → (q.sub x.quota).short s.chip.unreserved = none →
      let d := ((c 2).updInst n (fun x => { x with quota := q })).bindChans n q.chans
      exec (.instResize w) s = .next (s.onward
        ((if x.quota.slots < q.slots then d.retryParked else d).mgrDone s.chip.ids ccSuccess x.gen.toNat)))
    ∧ (s.chip.mgr.argsOk 0x7F 0 0 0 = true → s.chip.isPf n = false → x.st = .active →
      exec (.instDestroy w) s = .next (s.onward (((c 3).startReset n .absent).updInst n
        (fun x => { x with joinDestroy := true, inMgr := true })))
      ∧ (s.chip.calmed = true → s.chip.mgr.ie = false → s.chip.slots = [] → s.chip.eps = [] → x.genDue = 0 →
        (∀ r ∈ x.rings, r.2.live = false) → x.portViews = [] → (∀ p < 24, s.chip.ownerOf p ≠ some n) →
        (∀ p < 24, (s.chip.port p).parked = []) → s.chip.shares = [] →
        ∃ t, exec (.instDestroy w) s = .next t ∧ ended t .absent ∧ (t.chip.inst n).quota = {} ∧ t.pending = s.pending))
    ∧ (s.chip.mgr.argsOk 0x7F 0 0 0 = true → x.st = .active →
      exec (.instReset w) s = .next (s.onward (((c 4).startReset n .active).updInst n (fun x => { x with inMgr := true })))
      ∧ (s.chip.calmed = true → s.chip.mgr.ie = false → s.chip.slots = [] → s.chip.eps = [] → x.genDue = 0 → x.joinDestroy = false →
        (∀ r ∈ x.rings, r.2.live = false) →
        ∃ t, exec (.instReset w) s = .next t ∧ ended t .active ∧ (t.chip.inst n).quota = x.quota ∧ t.pending = s.pending))

/-- The commands that assign and set (R177, R183, R252, R253): a connector and a device begin to move to an instance that is there
and has the quota; weights and rates go to the queues of the bus named, or of every bus; a rate applies from the bus's next
decision. FREEZE and THAW (R119, R236): the write of opcode 0x0B freezes an ACTIVE instance, pauses its Carry channels and tells
the home nodes of its far devices, and with MGR_ARG0 [8] set takes a FROZEN one back to ACTIVE; a reserved opcode completes
PARAM_ERR (R116). -/
def Obligations.SettingsAndFreezing : Prop :=
  (∀ (s : State) (w : Writer), s.chip.isMgr w = true → s.chip.mgr.busy = false → s.chip.boot.fwRunning = true →
    s.chip.rel.suspended = 0 → (s.chip.inst s.chip.mgr.inst).st ≠ .absent →
    let n := s.chip.mgr.inst
    let c (op : Nat) : Chip := s.chip.mgrBegun op
    (s.chip.mgr.argsOk 0xFFFF007F 0x7 0 0 = true → n ≠ 127 → bitAt s.chip.mgr.arg1 0 = false → bitAt s.chip.mgr.arg1 1 = false →
      fld s.chip.mgr.arg0 31 16 < 4096 → fld s.chip.mgr.arg0 31 16 / 256 = s.chip.nodeNo →
      ∀ b, codeBus (fld s.chip.mgr.arg0 31 16 % 256) = some b → s.chip.assigned (busPort b) n false = false →
        s.chip.portRefused (busPort b) n false (bitAt s.chip.mgr.arg1 2) = none →
        exec (.assignPort w) s = .next (s.onward ((c 5).beginMove (s.chip.connSlots (busPort b))
          (.movePort (some s.chip.ids) (busPort b) n false (bitAt s.chip.mgr.arg1 2) (s.chip.connSlots (busPort b))))))
    ∧ (s.chip.mgr.argsOk 0x7F 0xFFF 0 0 = true → fld s.chip.mgr.arg1 11 0 / 256 = s.chip.nodeNo →
      let sk := fld s.chip.mgr.arg1 11 0 % 256
      s.chip.slotRefused sk n = none → s.chip.ringHome sk ≠ n → (s.chip.slot sk).leaving = false →
      exec (.assignDevice w) s = .next (s.onward ((c 6).beginMove [sk] (.moveSlot (some s.chip.ids) sk n))))
    ∧ (s.chip.mgr.argsOk 0xFF7F 0xFFFFFFFF 0 0 = true → s.chip.mgr.arg1.toNat ≠ 0 → s.chip.mgr.arg1.toNat ≤ 1023 →
      ∀ bs, (if fld s.chip.mgr.arg0 15 8 = 0xFF then
          some (List.range 32) else (codeBus (fld s.chip.mgr.arg0 15 8)).map (fun b => [b])) = some bs →
        exec (.setWeight w) s = .next (s.onward (((bs.foldl (fun (c : Chip) b => c.updQueue (qKey b n)
          (fun q => { q with weight := BitVec.ofNat 10 s.chip.mgr.arg1.toNat })) (c 8)).sendSettings n).mgrDone s.chip.ids ccSuccess 0)))
    ∧ (s.chip.mgr.argsOk 0x1FF7F 0xFFFFFF 0xFFFFFF 0 = true →
      ∀ bs, (if fld s.chip.mgr.arg0 15 8 = 0xFF then
          some (List.range 32) else (codeBus (fld s.chip.mgr.arg0 15 8)).map (fun b => [b])) = some bs →
        let rate := BitVec.ofNat 24 s.chip.mgr.arg1.toNat
        let depth := BitVec.ofNat 24 s.chip.mgr.arg2.toNat
        exec (.setRates w) s = .next (s.onward ((((bs.foldl (fun (c : Chip) b => c.updQueue (qKey b n)
          (fun q => { q with next := some (if bitAt s.chip.mgr.arg0 16 then { q.rates with pir := rate, pbs := depth }
            else { q.rates with cir := rate, cbs := depth }) })) (c 7)).sendSettings n).kickAll).mgrDone s.chip.ids ccSuccess 0))))
  ∧ (∀ (s : State) (w : Writer) (i : Instr), (i = .freeze w ∨ i = .thaw w) → s.chip.isMgr w = true → s.chip.mgr.busy = false →
    s.chip.mgr.argsOk 0x1FF 0 0 0 = true → fld s.chip.mgr.arg0 7 0 ≤ 127 →
    let n := fld s.chip.mgr.arg0 7 0
    let c : Chip := { s.chip.spinBreak with
      mgr := { s.chip.mgr with busy := true, done := false, ticket := s.chip.ids }, ids := s.chip.ids + 1 }
    ((s.chip.inst n).st = .active → bitAt s.chip.mgr.arg0 8 = false →
      exec i s = .next (s.onward
          (((((c.updInst n (fun x => { x with st := .frozen })).pauseChans n).kickAll).farFreeze n true).mgrDone s.chip.ids ccSuccess 0)))
    ∧ ((s.chip.inst n).st = .frozen → bitAt s.chip.mgr.arg0 8 = true →
      exec i s = .next (s.onward
          ((((((c.updInst n (fun x => { x with st := .active })).fetchCmds n).stirInst n).thawChans n).farFreeze n false).mgrDone
        s.chip.ids ccSuccess 0)))
    ∧ (∀ op, exec (.mgrReservedOpcode w op) s = .next (s.onward (c.mgrDone s.chip.ids ccParam 0))))

/-- FW_LOAD and FW_SWAP begin (R36, R38, R43, R47), for an image of a permitted length: a load through the window goes to the
checks, one from host memory over link 0 in L0 reads it; a swap of a staged image under firmware, with a bench and PREV_MIN kept,
begins. Fielders that come late or leave during an installation or a swap (R40, R43 to R46): a first installation fails with ERR
0xC; an incoming Fielder goes back to the bench and the swap halts; a drained Fielder becomes the bench and the next step begins;
at the drain limit a command that the role holds completes ABORTED. -/
def Obligations.FirmwareCommandsAndLimits : Prop :=
  (∀ (s : State) (w : Writer), s.chip.isMgr w = true → s.chip.mgr.busy = false → s.chip.fw.busy = false →
    let c : Chip := { s.chip.spinBreak with
      mgr := { s.chip.mgr with busy := true, done := false, ticket := s.chip.ids }, ids := s.chip.ids + 1 }
    let fw : Loader := { s.chip.fw with
      err := 0, staged := false, halted := false, inMgr := true, apply := bitAt s.chip.mgr.arg0 1, commit := s.chip.fw.svnCommit
      busy := true, cells := cdiv s.chip.fw.len.toNat 512
      before := some (s.chip.fw.err, s.chip.fw.staged, s.chip.fw.halted, s.chip.fw.cells, s.chip.fw.image) }
    (s.chip.mgr.argsOk 3 0 0 0 = true → 384 ≤ s.chip.fw.len.toNat → s.chip.fw.len.toNat ≤ 1310720 →
      (bitAt s.chip.mgr.arg0 0 = true → exec (.fwLoad w) s = .next (s.onward { c with fw := { fw with phase := .verifying } }))
      ∧ (bitAt s.chip.mgr.arg0 0 = false → s.chip.link0.pm = .l0 →
        exec (.fwLoad w) s = .next (s.onward
          (({ c with fw := { fw with phase := .fetching } } : Chip).emit (.hostRead 0 s.chip.fw.addr s.chip.fw.len.toNat)))))
    ∧ (s.chip.mgr.argsOk 0 0 0 0 = true → s.chip.fw.staged = true → s.chip.fw.halted = false → s.chip.boot.fwRunning = true →
      s.chip.freeBench.isSome = true → ¬ s.chip.fw.running < s.chip.fw.image.prevMin →
      exec (.fwSwap w) s = .next (s.onward
        (({ c with fw := { s.chip.fw with err := 0, inMgr := true } } : Chip).fwBegun.beginSwap none))))
  ∧ (∀ s : State,
    (∀ f : Fin 12, s.chip.fw.phase = .installing → s.chip.fw.visit.contains f.val = true → (s.chip.fielder f.val).ready = false →
      exec (.fwStartTimeout f) s = .next (s.onward (s.chip.installFails f.val)))
    ∧ (∀ f : Fin 12, s.chip.fw.phase = .swapStart → s.chip.fw.incoming = f.val → (s.chip.fielder f.val).ready = false →
      let c := (s.chip.leaveActive f.val .bench).updFielder f.val (fun x => { x with st := .bench })
      exec (.fwStartTimeout f) s = .next (s.onward
        ((({ c with fw := { c.fw with err := 0xC, bench := some f.val } } : Chip).haltSwap).startLate f.val 0)))
    ∧ (s.chip.fw.phase = .swapDrain → (s.chip.fielder s.chip.fw.outgoing).st = .active →
      let f := s.chip.fw.outgoing
      let c := ((s.chip.leaveActive f .bench).clearRam f).updFielder f
        (fun x => { st := .bench, role := x.role, cycles := x.cycles, retired := x.retired })
      exec .swapDrainDone s = .next (s.onward ((({ c with fw := { c.fw with
        phase := .swapCopy, bench := some f, visit := c.fw.visit.drop 1, roles := c.fw.roles.drop 1
        swapStep := if c.fw.visit.length ≤ 1 then c.fw.swapStep else c.fw.swapStep + 1 } } : Chip).nextStep 12).shareResume)))
    ∧ (s.chip.fw.phase = .swapDrain → s.chip.mgr.busy = false → s.chip.jobs = [] →
      (∀ x ∈ s.chip.insts, x.2.cmds = [] ∧ x.2.mbox.busy = false) → exec .drainTimeout s = .next (s.onward s.chip))
    ∧ (∀ n x m, n < 128 → s.chip.fw.phase = .swapDrain → s.chip.mgr.busy = false → s.chip.jobs = [] → s.chip.waits = [] →
      s.chip.eps = [] → s.chip.insts = [(n, x)] → x.cmds = [m] → x.mbox.busy = false → m.phase = .running →
      m.holder = some s.chip.fw.outgoing → (∀ p < 24, (s.chip.port p).suspendCmd ≠ some (n, m.id)) →
      exec .drainTimeout s = .next (s.onward (({ s.chip with
        ports := Tbl.mapv {} s.chip.ports (fun _ p => p.undo (n, m.id)), ssps := Tbl.mapv {} s.chip.ssps (fun _ p => p.undo (n, m.id))
        fab := { s.chip.fab with proxies := s.chip.fab.proxies.filter (fun y => y.2 != (n, m.id)) } } : Chip).reported n m ccAborted 0))))

/-- What the loader does next (R37 to R40, R42, R43): the end of the fetch, the checks of an image that is only staged, a failed check, a
blown fuse, a discard, and the start of the incoming Fielder of a swap. -/
def Obligations.FirmwareEventsAct : Prop :=
  ∀ s : State,
    (∀ image, s.chip.fw.phase = .fetching →
      exec (.fwFetchDone .ok image) s = .next ({ s with
        stage := Memory.ofBytes 0 (image.take (min s.chip.fw.len.toNat stageSize)) }.onward
          { s.chip with fw := { s.chip.fw with
            phase := .verifying
            before := s.chip.fw.before.map (fun (x : BitVec 4 × Bool × Bool × Nat × Image) => (x.1, false, false, 0, x.2.2.2.2)) } }))
    ∧ (∀ r image, s.chip.fw.phase = .fetching → r ≠ .ok → exec (.fwFetchDone r image) s = .next (s.onward (s.chip.fwFail 8 none)))
    ∧ (∀ k g, s.chip.fw.phase = .verifying → s.chip.fw.apply = false →
      imageErr s.stage s.chip.fw.len.toNat k g s.chip.fuse s.chip.otpKey = 0 →
      exec (.fwVerifyDone k g) s = .next (s.onward
        ({ s.chip with fw := { s.chip.fw with image := imageOf s.stage, staged := true, phase := .idle, busy := false } } : Chip).fwBegun))
    ∧ (∀ k g e, s.chip.fw.phase = .verifying → imageErr s.stage s.chip.fw.len.toNat k g s.chip.fuse s.chip.otpKey = e + 1 →
      exec (.fwVerifyDone k g) s = .next (s.onward (s.chip.fwFail (e + 1) (some (imageOf s.stage).fwVersion))))
    ∧ (s.chip.fuse + 1 < s.chip.fw.fuseTo → exec .fuseBlown s = .next (s.onward { s.chip with fuse := s.chip.fuse + 1 }))
    ∧ (s.chip.fuse + 1 = s.chip.fw.fuseTo → exec .fuseBlown s = .next (s.onward
        (({ s.chip with fuse := s.chip.fuse + 1, fw := { s.chip.fw with fuseTo := 0 } } : Chip).fwEvent 4 s.chip.fw.running)))
    ∧ (∀ w, s.chip.isMgr w = true → (s.chip.fw.phase = .idle ∨ s.chip.fw.phase = .installing) →
      exec (.fwDiscard w) s = .next (s.onward
        { s.chip.spinBreak with fw := { s.chip.fw with staged := false, cells := 0, halted := false, before := none } }))
    ∧ (∀ w, s.chip.isMgr w = true → (s.chip.fw.phase = .fetching ∨ s.chip.fw.phase = .verifying) →
      let c : Chip := { s.chip.spinBreak with fw := { s.chip.fw with
        phase := .idle, busy := false, inMgr := false, staged := false, cells := 0, halted := false, before := none } }
      exec (.fwDiscard w) s = .next (s.onward (if s.chip.fw.inMgr then c.mgrDone c.mgr.ticket ccAborted 0 else c)))
    ∧ (∀ w, s.chip.isMgr w = true →
        (s.chip.fw.phase = .swapCopy ∨ s.chip.fw.phase = .swapStart ∨ s.chip.fw.phase = .swapDrain ∨ s.chip.fw.phase = .restoreStart) →
      exec (.fwDiscard w) s = .next (s.onward s.chip.spinBreak))
    ∧ (s.chip.fw.phase = .swapCopy →
      let role := s.chip.fw.roles.headD 0
      let c := (s.chip.loadRole s.stage s.chip.fw.incoming role).dozeExit.startFielder s.chip.fw.incoming
          (BitVec.ofNat 3 role) s.chip.fw.newBank true
      exec .swapCopyDone s = .next (s.onward { c with fw := { c.fw with phase := .swapStart } }))

/-- The ring registers of an instance that answers (R50, R51, R81 to R84): enabling the command ring and completion ring 0 puts
the indices to 0 and the phase to 1, and clearing EN of the command ring stops fetching; COMPAT clears while no ring is in use;
HUDDLE_CTL takes its fields, and a reserved 0 leaves COUNT and TIME; the function mask clears. -/
def Obligations.RingRegistersAct : Prop :=
  ∀ (s : State) (i : Fin 128) (val : Word),
    let n := i.val
    let c := if n = 0 then s.chip.spinBreak else s.chip
    (s.chip.inst n).pageOn = true →
    ((s.chip.inst n).cmdEn = false → bitAt val 31 = true →
      exec (.cmdRingSizeWrite i val) s = .next (s.onward ((c.updInst n (fun x => { x with
        cmdLog2 := newLog2 x.cmdLog2 false val, cmdEn := true, cmdProd := 0, cmdCons := 0, cmdNext := 0, cmdHalted := false
        cmds := x.cmds.map (fun m => { m with old := true }) })).tellOrphans n)))
    ∧ ((s.chip.inst n).cmdEn = true → bitAt val 31 = false →
      exec (.cmdRingSizeWrite i val) s = .next (s.onward (c.updInst n (fun x => { x with
        cmdLog2 := x.cmdLog2, cmdEn := false, cmdDead := x.cmdDead + x.cmdReads, cmdReads := 0 }))))
    ∧ (((s.chip.inst n).cring 0).live = false → bitAt val 31 = true →
      exec (.cring0SizeWrite i val) s = .next (s.onward (((c.updInst n (fun x => x.updCring 0 (fun r => { r with
        log2 := newLog2 r.log2 false val, live := true, base := x.cring0Base, prod := 0, cons := 0, phase := true, halted := false
        }))).ringRoom n 0).tellOrphans n)))
    ∧ ((s.chip.inst n).compat = true → bitAt val 0 = false → (s.chip.inst n).compatFree = true →
      exec (.instCtlWrite i val) s = .next (s.onward (c.updInst n (fun x => { x with compat := false }))))
    ∧ (∀ k : Fin 64, (s.chip.inst n).compat = false → ((s.chip.inst n).cring k.val).count = 0 →
      exec (.huddleCtlWrite i k val) s = .next (s.onward (c.updInst n (fun x => { x with huddle := Tbl.set {} x.huddle k.val {
        count := if fld val 7 0 = 0 then (x.hud k.val).count else BitVec.ofNat 8 (fld val 7 0)
        time := if fld val 23 8 = 0 then (x.hud k.val).time else BitVec.ofNat 16 (fld val 23 8)
        urgent := bitAt val 24, idleCancel := bitAt val 25 } }))))
    ∧ ((s.chip.inst n).pend = 0 →
      exec (.msixUnmask i none) s = .next (s.onward (s.chip.updInst n (fun x => { x with fmask := false }))))

/-- Producer doorbells (R53, R55, R71) of an ACTIVE instance: one for its command ring that moves forward inside the ring hands
the entries over; one with an index outside the ring halts it with a ring record; a halted transfer ring only takes the index; one
for a ring that does not exist is discarded. -/
def Obligations.ProducerDoorbells : Prop :=
  ∀ (s : State) (i : Fin 128) (idx : BitVec 16),
    let n := i.val
    let x := s.chip.inst n
    let size := 2 ^ x.cmdLog2
    x.st = .active →
    (x.cmdEn = true → idx.toNat < size →
      (x.cmdProd + size - x.cmdCons) % size ≤ (idx.toNat + size - x.cmdCons) % size →
      exec (.doorbellProducer i 0 idx) s
        = .next (s.onward ((s.chip.updInst n (fun x => { x with cmdProd := idx.toNat })).fetchCmds n)))
    ∧ (x.cmdEn = true → size ≤ idx.toNat →
      exec (.doorbellProducer i 0 idx) s = .next (s.onward
        ((s.chip.updInst n (fun x => { x with cmdHalted := true, cmdDead := x.cmdDead + x.cmdReads, cmdReads := 0 })).post n 0
          { body := .transfer ccRingErr 0 1 false false true 0 x.cmdNext x.cmdNext none })))
    ∧ (x.cmdEn = false →
      exec (.doorbellProducer i 0 idx) s = .next (s.onward (s.chip.dbDiscard n (toWord (2 ^ 16 * idx.toNat)))))
    ∧ (∀ k : BitVec 15, k ≠ 0 → (s.chip.ring n k.toNat).live = true → (s.chip.ring n k.toNat).halted = true →
      idx.toNat < (s.chip.ring n k.toNat).size → idx.toNat ≠ (s.chip.ring n k.toNat).prod →
      ((s.chip.ring n k.toNat).prod + (s.chip.ring n k.toNat).size - (s.chip.ring n k.toNat).cons) % (s.chip.ring n k.toNat).size
        ≤ (idx.toNat + (s.chip.ring n k.toNat).size - (s.chip.ring n k.toNat).cons) % (s.chip.ring n k.toNat).size →
      exec (.doorbellProducer i k idx) s = .next (s.onward (s.chip.updRing n k.toNat (fun r => { r with prod := idx.toNat }))))
    ∧ (∀ k : BitVec 15, k ≠ 0 → (s.chip.ring n k.toNat).live = false →
      exec (.doorbellProducer i k idx) s = .next (s.onward (s.chip.dbDiscard n (toWord (k.toNat + 2 ^ 16 * idx.toNat)))))

/-- Consumer doorbells (R54, R55) of an ACTIVE instance: an index from the current consumer to the current producer is accepted, moves the
consumer, and what waited for room goes on; anything else is discarded. A FROZEN or RESETTING instance only sets DB_ERR. -/
def Obligations.ConsumerDoorbells : Prop :=
  ∀ (s : State) (i : Fin 128) (k : BitVec 15) (idx : BitVec 16),
    let n := i.val
    let r := (s.chip.inst n).cring k.toNat
    ((s.chip.inst n).st = .active → k.toNat < 64 → r.live = true → idx.toNat < r.size →
      (idx.toNat + r.size - r.cons) % r.size ≤ (r.prod + r.size - r.cons) % r.size →
      exec (.doorbellConsumer i k idx) s = .next (s.onward
        ((s.chip.updInst n (fun x => x.updCring k.toNat (fun r => { r with cons := idx.toNat }))).ringRoom n k.toNat)))
    ∧ ((s.chip.inst n).st = .active →
      (64 ≤ k.toNat ∨ r.live = false ∨ r.size ≤ idx.toNat
        ∨ (r.prod + r.size - r.cons) % r.size < (idx.toNat + r.size - r.cons) % r.size) →
      exec (.doorbellConsumer i k idx) s = .next (s.onward (s.chip.dbDiscard n (toWord (k.toNat + 2 ^ 15 + 2 ^ 16 * idx.toNat)))))
    ∧ ((s.chip.inst n).st = .frozen ∨ (s.chip.inst n).st = .resetting →
      exec (.doorbellConsumer i k idx) s = .next (s.onward (s.chip.updInst n (fun x => { x with dbErr := true }))))

/-- What host memory answers (R13, R56, R71, R78, R285, R446), and the Huddle timer (R82): an element joins its ring and a command its
instance's commands; data of an OUT packet is staged; a confirming read ends its wait; a failed read after a decision halts the completion
ring; the timer of a ring with uncovered records makes a decision, which is due until the entry ends where a scrum is in its first phase
(R376), and which is held once the completion writer has stopped. -/
def Obligations.HostMemoryAnswersAct : Prop :=
  ∀ (s : State) (i : Fin 128),
    let n := i.val
    let x := s.chip.inst n
    (∀ (k : BitVec 15) raw, k ≠ 0 → (s.chip.ring n k.toNat).dead = 0 → 0 < (s.chip.ring n k.toNat).reads →
      let c := s.chip.updRing n k.toNat (fun t => { t with reads := t.reads - 1 })
      let e : Elem := { c.parseElem n k.toNat raw with
        entry := (s.chip.ring n k.toNat).entryAt (s.chip.ring n k.toNat).elems.length, at_ := s.chip.us }
      exec (.elementFetchDone i k .ok raw) s
        = .next (s.onward ((c.updRing n k.toNat (fun t => { t with elems := t.elems ++ [e] })).stirRing n k.toNat)))
    ∧ (∀ raw tag m par, x.cmdDead = 0 → 0 < x.cmdReads → parseCmd x.compat raw = (tag, some (m, par)) →
      exec (.elementFetchDone i 0 .ok raw) s
        = .next (s.onward ((s.chip.updInst n (fun x => { x with cmdReads := x.cmdReads - 1 })).pushCmd n tag m par .fetched)))
    ∧ (∀ (slot : BitVec 12) (ep : Fin 32) f,
      let key := epKey (s.chip.slotKey slot.toNat) ep.val
      (s.chip.ep key).flights = [f] → f.out = true →
      (s.chip.current key f.inst f.epoch f.gen = true → farKey (keySlot key) = false → (s.chip.ep key).staging = true →
        exec (.outDataReadDone slot ep .ok) s
          = .next (s.onward ((s.chip.updEp key (fun e => { e with flights := [], staging := false, staged := true })).released key f.inst)))
      ∧ (s.chip.current key f.inst f.epoch f.gen = false →
        exec (.outDataReadDone slot ep .ok) s = .next (s.onward
          (((s.chip.updEp key (fun e => { e with flights := [] })).countDrops f.inst 1).released key f.inst))))
    ∧ (∀ (slot : BitVec 12) (ep : Fin 32) f d,
      let key := epKey (s.chip.slotKey slot.toNat) ep.val
      (s.chip.ep key).flights = [f] → f.out = false → s.chip.current key f.inst f.epoch f.gen = true →
      (s.chip.ep key).done = [d] → d.confirming = true → d.early = none →
      let c := (s.chip.updEp key (fun e => { e with flights := [], done := [{ d with confirming := false }] })).released key f.inst
      exec (.confirmReadDone slot ep .ok) s = .next (s.onward
        (if (c.ep key).service then (c.ep key).views.foldl (fun c v => c.viewStir key v.1) c else c)))
    ∧ (∀ (k : Fin 64) a t, (x.cring k.val).reads = a :: t →
      exec (.cringReadbackDone i k .ok) s
        = .next (s.onward (s.chip.updInst n (fun x => x.updCring k.val (fun q => { q with reads := t }))))
      ∧ ∀ r, r ≠ .ok → k ≠ 0 →
        exec (.cringReadbackDone i k r) s = .next (s.onward
          ((s.chip.updInst n (fun x => { x.updCring k.val (fun q => { q with reads := t, halted := true }) with errAddr := a })).event n
            evError noSubject (toWord (0x02 + 2 ^ 8 * k.val)) 0)))
    ∧ (∀ k : Fin 64, (x.cring k.val).timer = true →
      (s.chip.pwr.st = .run ∨ s.chip.pwr.st = .doze →
        exec (.huddleTimerExpiry i k) s = .next (s.onward (s.chip.onInst n (fun w => w.decision n k.val))))
      ∧ (s.chip.pwr.st = .phase1 → exec (.huddleTimerExpiry i k) s = .next (s.onward
          (s.chip.updInst n (fun x => x.updCring k.val (fun r => { r with due := true })))))
      ∧ (∀ j, s.chip.pwr.st = .phase2 j → 5 ≤ j → exec (.huddleTimerExpiry i k) s = .next (s.onward s.chip)))

/-- A register write that is narrower than 32 bits or not aligned changes nothing (R4); the doorbell register and the ring
registers of an instance's page act as the rows that name them; a write of PF BAR0 by a function that is not the manager changes
no setup register (R242). -/
def Obligations.RegisterWritesAct : Prop :=
  ∀ (s : State) (n : Fin 128) (off val : Word) (v64 : BitVec 64) (size : Nat),
    (off.toNat < s.chip.barSize n.val 0 → (off.toNat % 4 ≠ 0 ∨ (size ≠ 4 ∧ size ≠ 8)) →
      exec (.registerWrite (.fn n) 0 off v64 size) s = .next s.settled)
    ∧ (bitAt val 15 = false →
      exec (.registerWrite (.fn n) 2 0 (val.setWidth 64) 4) s
        = exec (.doorbellProducer n (BitVec.ofNat 15 (fld val 14 0)) (BitVec.ofNat 16 (fld val 31 16))) s)
    ∧ (bitAt val 15 = true →
      exec (.registerWrite (.fn n) 2 0 (val.setWidth 64) 4) s
        = exec (.doorbellConsumer n (BitVec.ofNat 15 (fld val 14 0)) (BitVec.ofNat 16 (fld val 31 16))) s)
    ∧ (s.chip.isPf n.val = false →
      exec (.registerWrite (.fn n) 0 0x108 (val.setWidth 64) 4) s = exec (.cmdRingSizeWrite n val) s)
    ∧ (s.chip.isMgr (.fn 0) = true → s.chip.boot.pll = true →
      exec (.registerWrite (.fn 0) 0 0x404 (val.setWidth 64) 4) s
        = .next (s.onward { s.chip.spinBreak with mgr := { s.chip.mgr with arg0 := val } }))
    ∧ (s.chip.straps.mgrSel = 1 → off.toNat < 0x8000 → off.toNat % 4 = 0 → off.toNat ≠ 0x5000 →
      exec (.registerWrite (.fn 0) 0 off (val.setWidth 64) 4) s = .next (s.onward s.chip.spinBreak))

/-- A write of FW_WINDOW by the manager while the loader is idle (R37): the four bytes of the word at the window's page and offset change,
lowest byte first (R3); every other byte of the staging memory stays; a staged image is no longer staged (the model's choice, log entry
4). -/
def Obligations.FwWindowStoresOneWord : Prop :=
  ∀ (s : State) (off val : Word), s.chip.isMgr (.fn 0) = true → s.chip.fw.busy = false → s.chip.fw.winPage.toNat < 80 →
    0x8000 ≤ off.toNat → off.toNat < 0xC000 → off.toNat % 4 = 0 →
    let base := s.chip.fw.winPage.toNat * 16384 + (off.toNat - 0x8000)
    ∃ m : Memory, exec (.registerWrite (.fn 0) 0 off (val.setWidth 64) 4) s
        = .next ({ s with stage := m }.onward { s.chip.spinBreak with fw := { s.chip.fw with staged := false, halted := false } })
      ∧ (∀ k < 4, m.byte (base + k) = BitVec.ofNat 8 (val.toNat / 256 ^ k))
      ∧ (∀ a, a < base ∨ base + 4 ≤ a → m.byte a = s.stage.byte a)
      ∧ (s.stage.wf = true → m.wf = true)

/-- A record that becomes due to a completion ring with room (R68, R75): it is written at the producer, the producer advances with
wrap, the phase flips at the wrap, and every other completion ring of the instance stays as it is. A record that is no event waits
behind a completion ring without room (R76): nothing is written and no index moves. -/
def Obligations.RecordsArePostedOrHeld : Prop :=
  (∀ (c : Chip) (n k : Nat) (h : Held), n < 128 → (c.inst n).st = .active → (c.inst n).compat = false →
    let r := (c.inst n).cring k
    r.takes = true → r.held = [] → (k = 0 → (c.inst n).ovfDue = false) →
    let d := c.post n k h
    let w := h.body.native (c.inst n).gen c.mf r.phase
    ((d.inst n).cring k).prod = (r.prod + 1) % r.size
    ∧ ((d.inst n).cring k).phase = (if r.prod + 1 = r.size then !r.phase else r.phase)
    ∧ ((d.inst n).cring k).cons = r.cons ∧ ((d.inst n).cring k).held = []
    ∧ (∃ later, d.out = later ++ .record n k r.prod w.1 w.2.1 w.2.2.1 w.2.2.2 :: c.out)
    ∧ (∀ j, j ≠ k → (d.inst n).cring j = (c.inst n).cring j)
    ∧ (∀ m, m ≠ n → d.inst m = c.inst m) ∧ d.slots = c.slots ∧ d.eps = c.eps ∧ d.buses = c.buses)
  ∧ (∀ (c : Chip) (n k : Nat) (h : Held), n < 128 → (c.inst n).st = .active → (c.inst n).compat = false →
    ((c.inst n).cring k).live = true → ((c.inst n).cring k).takes = false → h.body.isEvent = false →
    c.post n k h = c.updInst n (fun x => x.updCring k (fun r => { r with held := r.held ++ [h] })))

/-- Huddle (R81, R82) on a posted record: below COUNT the record is counted and the timer runs; with the count at COUNT, or for an urgent
record where URGENT is set, the decision resets both. -/
def Obligations.HuddleCountsOrDecides : Prop :=
  ∀ (w : IW) (n k : Nat) (urgent : Bool),
    let r := w.x.cring k
    let t := (w.count n k urgent).x.cring k
    (r.count + 1 < (w.x.hud k).count.toNat → (urgent && (w.x.hud k).urgent) = false →
      t = { r with count := r.count + 1, timer := true } ∧ (w.count n k urgent).out = w.out)
    ∧ ((w.x.hud k).count.toNat ≤ r.count + 1 ∨ (urgent && (w.x.hud k).urgent) = true →
      t.count = 0 ∧ t.timer = false ∧ t.prod = r.prod ∧ t.cons = r.cons
      ∧ (w.count n k urgent).out.head? = some (.hostRead n r.lastAddr 16))

/-- Commands on slots and endpoints that complete at once (R98, R101, R103 to R105, R107, R108): the effect on the slot, endpoint
or ring, and the command's record. ENABLE_SLOT for a port that the instance does not own, and STOP_EP for a slot that it does not
own, end PARAM_ERR. -/
def Obligations.SlotAndEndpointCommands : Prop :=
  ∀ (s : State) (i : Fin 128) (m : Cmd), s.chip.soleCmd i.val m →
    let n := i.val
    let c := s.chip.begun n m
    let sk := c.slotKey (par m.par 0 12)
    let key := epKey sk ((epBit (par m.par 16 8)).getD 0)
    let e := c.ep key
    let ends (d : Chip) : Host.Outcome State Fault Refusal := .next { s with chip := d }
    (∀ b k, m.kind = .enableSlot → c.ownedBus n (BitVec.ofNat 16 (par m.par 0 12)) = some b → c.connectedOn b = true →
      c.enumOn b = false → c.speedOk b (par m.par 16 4) (par m.par 32 20) = true → routeOk (par m.par 32 20) = true →
      c.orphanAt n b (par m.par 32 20) = none → c.room n Quota.slots 1 = true → c.newSlot = some k →
      exec (.enableSlot i m.tag m.par) s = ends ((c.updSlot k (fun _ => {
        st := .enabled, root := c.subject b, route := BitVec.ofNat 20 (par m.par 32 20), speed := BitVec.ofNat 4 (par m.par 16 4),
        owner := BitVec.ofNat 7 n })).reported n m ccSuccess (c.slotName k)))
    ∧ (m.kind = .enableSlot → c.ownedBus n (BitVec.ofNat 16 (par m.par 0 12)) = none →
      exec (.enableSlot i m.tag m.par) s = ends (c.reported n m ccParam 0))
    ∧ (m.kind = .stopEp → c.owns n sk = false → exec (.stopEp i m.tag m.par) s = ends (c.reported n m ccParam 0))
    ∧ (c.owns n sk = true → (c.slot sk).orphan = false → (c.slot sk).shared = none →
      (m.kind = .addressDevice → par m.par 32 2 = 1 → (c.slot sk).st = .enabled → c.ttOk n sk m.par = true →
        (c.ep (epKey sk 0)).st = .disabled → c.room n Quota.eps 1 = true → c.newCtx.isSome = true →
        exec (.addressDevice i m.tag m.par) s = ends (((c.makeEp0 sk (par m.par 16 11)).updSlot sk (fun s =>
          { s.withTt m.par with st := .default })).reported n m ccSuccess 0))
      ∧ (m.kind = .configureEp → m.par.getLsbD 26 = true → onlyDrop m.par = true → (e.st = .stopped ∨ e.st = .halted) → e.rings = [] →
        e.pep = none → c.resting key → c.epHeld key = false →
        ∃ d : Chip, exec (.configureEp i m.tag m.par) s = ends (d.reported n m ccSuccess 0) ∧ d.ep key = { epoch := e.epoch + 1 }
          ∧ (∀ j, j ≠ key → d.ep j = c.ep j)
          ∧ d.slots = Tbl.upd {} c.slots sk (fun s =>
              { s with epMask := s.epMask &&& ~~~(BitVec.ofNat 32 (2 ^ (epBit (par m.par 16 8)).getD 0)) }))
      ∧ (m.kind = .resetEp → e.st = .halted → c.resting key →
        ∃ d : Chip, exec (.resetEp i m.tag m.par) s = ends (d.reported n m ccSuccess 0)
          ∧ d.ep key = (e.unstaged.stopped .quit c.us).reset c.us ∧ (d.ep key).st = .stopped ∧ (d.ep key).epoch = e.epoch + 1
          ∧ (d.ep key).seq = 0 ∧ (d.ep key).strikes = 0 ∧ (∀ j, j ≠ key → d.ep j = c.ep j) ∧ d.slots = c.slots)
      ∧ (m.kind = .resetEp → e.st = .running → exec (.resetEp i m.tag m.par) s = ends (c.reported n m ccParam 0))
      ∧ (m.kind = .stopEp → m.par.getLsbD 24 = false → e.st = .stopped →
        exec (.stopEp i m.tag m.par) s = ends (c.reported n m ccSuccess (c.ring (c.ringHome (keySlot key)) e.headRing).cons))
      ∧ (m.kind = .stopEp → m.par.getLsbD 24 = false → e.st = .running → c.resting key → c.epHeld key = false →
        ∃ d : Chip, exec (.stopEp i m.tag m.par) s = ends (d.reported n m ccSuccess
            ((c.ring (c.ringHome (keySlot key)) e.headRing).cons + flagAt (e.asked && e.settled) 16))
          ∧ d.ep key = e.unstaged.stopped .settle c.us ∧ (d.ep key).st = .stopped ∧ (d.ep key).epoch = e.epoch + 1
          ∧ (∀ j, j ≠ key → d.ep j = c.ep j) ∧ d.slots = c.slots)
      ∧ (m.kind = .disableSlot → c.slotEps sk = [] → (c.slot sk).managed = false → (c.slot sk).far = none →
        (∀ p < 24, (c.port p).parked = []) →
        exec (.disableSlot i m.tag m.par) s
          = ends (({ c with slots := Tbl.set {} c.slots sk {} } : Chip).reported n m ccSuccess 0)))
    ∧ (let k := par m.par 0 15
      let r := c.ring n k
      m.kind = .setDequeue → r.live = true → (c.slot r.slot).orphan = false → (c.slot r.slot).shared = none →
      par m.par 16 16 < r.size → (c.ep r.key).st = .stopped → (c.ep r.key).stop = none → c.resting r.key →
      ∃ d : Chip, exec (.setDequeue i m.tag m.par) s = ends (d.reported n m ccSuccess 0)
        ∧ d.ring n k = { r with
          prod := par m.par 16 16, cons := par m.par 16 16, halted := false, elems := [], dead := r.dead + r.reads, reads := 0, td := {}
          sent := 0, ids := [] }
        ∧ (∀ j, j ≠ k → d.ring n j = c.ring n j) ∧ d.ep r.key = ((c.ep r.key).unstaged.stopped .quit c.us).bump c.us
        ∧ (d.ep r.key).epoch = (c.ep r.key).epoch + 1 ∧ (∀ j, j ≠ r.key → d.ep j = c.ep j) ∧ d.slots = c.slots)

/-- Commands on rings and the rest (R98, R107 to R110, R114, R194): a transfer ring is bound to an endpoint that has none, a
completion ring of a free index is made, a transfer ring is destroyed and its endpoint stops, the Scorebook is written to memory,
NOOP only reports. Commands on a USB 2.0 port that the instance owns (R111 to R113, R207, R214, R215, R218): PORT_RESET drives SE0
where no slot lies behind the port, PORT_SUSPEND enters SUSPENDING, PORT_RESUME drives K; their records come with the events that
end them. PORT_POWER raises PPE and reports. PORT_RESET of a port that the instance does not own: PARAM_ERR. -/
def Obligations.RingAndPortCommands : Prop :=
  (∀ (s : State) (i : Fin 128) (m : Cmd), s.chip.soleCmd i.val m →
    let n := i.val
    let c := s.chip.begun n m
    let ends (d : Chip) : Host.Outcome State Fault Refusal := .next { s with chip := d }
    (∀ k, let sk := c.slotKey (par m.par 64 12)
      let bit := par m.par 76 4 + 16 * par m.par 80 1
      m.kind = .createRing → m.par.getLsbD 5 = false → c.owns n sk = true → (c.slot sk).orphan = false → (c.slot sk).shared = none →
      (c.ep (epKey sk bit)).st ≠ .disabled → (c.ep (epKey sk bit)).maxStreams = 0 → (c.ep (epKey sk bit)).ring = 0 →
      par m.par 81 9 = 0 → c.newRing n = some k →
      exec (.createRing i m.tag m.par) s = ends (((c.updRing n k (fun r => {
        live := true, base := BitVec.ofNat 64 (par m.par 6 58 * 64), log2 := par m.par 0 5, slot := sk, ep := bit, stream := 0
        dead := r.dead })).updEp (epKey sk bit) (fun e => { e with ring := k })).reported n m ccSuccess k))
    ∧ (let k := par m.par 64 6
      m.kind = .createRing → m.par.getLsbD 5 = true → k ≠ 0 → ((c.inst n).cring k).live = false →
      par m.par 72 6 < (c.inst n).quota.vectors → c.room n Quota.crings 1 = true →
      exec (.createRing i m.tag m.par) s = ends ((c.updInst n (fun x => { x with crings := Tbl.set {} x.crings k {
        live := true, base := BitVec.ofNat 64 (par m.par 6 58 * 64), log2 := par m.par 0 5, vector := par m.par 72 6 } })).reported
          n m ccSuccess k))
    ∧ (let k := par m.par 0 15
      let r := c.ring n k
      m.kind = .destroyRing → m.par.getLsbD 15 = false → r.live = true → (c.slot r.slot).orphan = false →
      (c.slot r.slot).shared = none → c.resting r.key → c.epHeld r.key = false →
      ∃ d : Chip, exec (.destroyRing i m.tag m.par) s = ends (d.reported n m ccSuccess 0)
        ∧ d.ring n k = { dead := r.dead + r.reads } ∧ (∀ j, j ≠ k → d.ring n j = c.ring n j)
        ∧ (d.ep r.key).st ≠ .running ∧ ((c.ep r.key).ring = k → (d.ep r.key).ring = 0) ∧ (d.ep r.key).epoch = (c.ep r.key).epoch
        ∧ (∀ j, j ≠ r.key → d.ep j = c.ep j) ∧ d.slots = c.slots)
    ∧ (let bs := c.sbDump n m.parts
      m.kind = .getScorebook → c.farNodes n = [] →
      exec (.getScorebook i m.tag m.par) s = ends ((c.emit (.dump n (BitVec.ofNat 64 (par m.par 0 64))
        (dumpCut (par m.par 64 24) bs))).reported n m ccSuccess bs.length))
    ∧ (m.kind = .noop → exec (.noop i m.tag m.par) s = ends (c.reported n m ccSuccess 0)))
  ∧ (∀ (s : State) (i : Fin 128) (m : Cmd) (b : Nat), s.chip.soleCmd i.val m → b < 24 →
    let n := i.val
    let c := s.chip.begun n m
    let q := c.port b
    let ends (d : Chip) : Host.Outcome State Fault Refusal := .next { s with chip := d }
    (c.ownedBus n (BitVec.ofNat 16 (par m.par 0 12)) = some b →
      (m.kind = .portReset → m.par.getLsbD 16 = false → q.connected = true → q.powered = true → (c.job (jobKey b 0)).step = 0 →
        c.busSlots b = [] → q.suspendCmd = none → q.resumeCmd = none →
        exec (.portReset i m.tag m.par) s = ends (((c.updPort b (fun p => { p with
          st := pResetting, wasSpeed := p.speed
          before := if p.st = pSuspending then pEnabled
            else if p.st = pResuming ∨ (p.st = pRecovery ∧ p.afterResume = true) then (if p.fromL1 then pL1 else pSuspended) else p.st
          se0 := true, fromL1 := false, afterResume := false, devResumed := false
          already := false, suspendCmd := none, resumeCmd := none, resetCmd := some (n, m.id)
          resumeLost := if p.st == pResuming || (p.st == pRecovery && p.afterResume) then p.resumeLost + 1 else p.resumeLost
          })).updBus b (fun x => { x with lpm := none })).emit (.se0 b)))
      ∧ (m.kind = .portSuspend → m.par.getLsbD 16 = false → q.st = pEnabled → c.idleBus b = true →
        exec (.portSuspend i m.tag m.par) s = ends (c.updPort b (fun p => { p with st := pSuspending, suspendCmd := some (n, m.id) })))
      ∧ (m.kind = .portResume → q.st = pSuspended →
        exec (.portResume i m.tag m.par) s = ends ((c.updPort b (fun p => { p with
          st := pResuming, fromL1 := false, nowCause := causeHost, already := false, afterResume := false
          resumeCmd := some (n, m.id) })).emit (.resumeK b)))
      ∧ (m.kind = .portPower → m.par.getLsbD 16 = true → q.oc = false → c.policy b ≠ 3 → q.powered = false → q.cycle = none →
        let d := (c.updPort b (fun p => { p with noAuto := false, ownerOff := false })).powerOn b
        exec (.portPower i m.tag m.par) s = ends (d.reported n m ccSuccess (d.port b).powerResult))
      ∧ (m.kind = .portPower → m.par.getLsbD 16 = true → q.oc = true →
        exec (.portPower i m.tag m.par) s = ends (c.reported n m ccSuccess q.powerResult)))
    ∧ (m.kind = .portReset → c.ownedBus n (BitVec.ofNat 16 (par m.par 0 12)) = none →
      exec (.portReset i m.tag m.par) s = ends (c.reported n m ccParam 0)))

/-- The tick (R18, R182, R191, R373): the Sideline counts 125 microseconds or a little more (the free part; log entry 2); while
the core is clocked, MF_NOW and the chip's microseconds advance, a sample point may fall, held records age, every limited bucket
gains its rate up to its depth, and then the buses go on. A bus micro-frame with no endpoint on the chip only takes up MF_NOW, and
sends SOF on an enabled port. -/
def Obligations.TimePasses : Prop :=
  ∀ (s : State) (b : Fin 32),
    let c : Chip := { s.chip with pwr := s.chip.pwr.count (125 + (Config.freeSideline s.chip.free).val), free := s.chip.free + 1 }
    let start := s.chip.at_ (4 * b.val)
    (s.chip.clocked = true →
      exec .microframeTick s = .next (s.onward ((({ c with
        mf := c.mf + 1, us := c.us + 125, usNow := 0, cap := c.cap.tick (c.mf + 1)
        insts := Tbl.mapv {} c.insts (fun _ x => x.aged (c.mf + 1)) } : Chip).mapQueues (fun _ q => { q with
          ctok := if q.cir = unlimited then q.ctok else min (q.ctok + q.cir.toNat) (q.cbs.toNat : Int)
          ptok := if q.pir = unlimited then q.ptok else min (q.ptok + q.pir.toNat) (q.pbs.toNat : Int) })
        ).kickAll.farIso.sendSync.askSleep)))
    ∧ (s.chip.clocked = false → exec .microframeTick s = .next (s.onward c))
    ∧ (s.chip.peps = [] → s.chip.eps = [] → b.val < 24 → (s.chip.port b.val).st = pEnabled → (s.chip.port b.val).speed = 3 →
      exec (.busMicroframeStart b) s = .next (s.onward ((((start.updBus b.val (fun x => { x with
          mf := s.chip.mf, pos := 0, noSof := false, todo := [] })).mapQueues
        (fun k q => if k / 256 = b.val then { q with redCounted := false } else q)).emit (.sof b.val s.chip.mf)).kick b.val)))

/-- The end of a transaction of a bulk IN endpoint on a high-speed bus (R156, R157, R170 to R172, R180): the bus is free, its cells are
returned, the service is charged; a NAK sets STRIKES to 0 and paces the endpoint, an error is a strike, the third in a row ends the TD
with XACT_ERR, a STALL ends it with STALL, and a packet of no more than MAX_PACKET bytes and no more than is left is taken in. With
nothing on the bus the command has no effect. SuperSpeed and pacing (R145, R160, R161, R163, R167, R170): NRDY without data flow-controls
a bulk endpoint until ERDY; ERDY ends the wait of an endpoint that has a TD and is remembered by one that has none; a stream whose work is
filed is served when the device names it; `ready_at` passing lets an endpoint be served; an isochronous OUT whose data is not there 2 µs
before its opportunity ends DATA_BUF. -/
def Obligations.TransactionsEnd : Prop :=
  (∀ (s : State) (b : Fin 24) (o : OnBus) (pos : Nat) (us : BitVec 7) (len : Nat) (r : XactEnd),
    let c := s.chip.at_ us.toNat
    let e := c.ep o.key
    let now := c.us + us.toNat
    let d := (c.updBus b.val (fun x => { x with on := none, pos := pos })).freeCells o.key
    let ran (bytes pkts : Nat) := (d.charge b.val o.place ((d.bus b.val).shaped true bytes pkts)).ranOnly o.key o.mf
    ((c.bus b.val).on = none → exec (.usb2TransactionEnd b r pos us) s = .next (s.onward c))
    ∧ ((c.bus b.val).on = some o → o.lpm = false → o.sa = false → o.periodic = false → o.ping = false → e.service = false →
      e.ty = .bulk → keyIn o.key = true → c.path o.key = .hs → c.stale o = false → c.hasTd o.key = true →
      exec (.usb2TransactionEnd b .nak pos us) s = .next (s.onward ((((ran 0 0).updEp o.key (fun e => { e with
        strikes := 0, rally := e.rally.notReady (c.rallyClass (rallyKind .hs .bulk true)) now })).tend o.key).kick b.val))
      ∧ (e.strikes < 2 → exec (.usb2TransactionEnd b .error pos us) s = .next (s.onward
        ((((ran 0 0).updEp o.key (fun e => { e with strikes := e.strikes + 1 })).tend o.key).kick b.val)))
      ∧ (e.strikes = 2 → exec (.usb2TransactionEnd b .error pos us) s = .next (s.onward
        (((((ran 0 0).updEp o.key (fun e => { e with strikes := 3 })).endWith o.key ccXactErr).tend o.key).kick b.val)))
      ∧ exec (.usb2TransactionEnd b .stall pos us) s = .next (s.onward
        (((((ran 0 0).updEp o.key (fun e => { e with strikes := 0 })).endWith o.key ccStall).tend o.key).kick b.val))
      ∧ (len ≤ e.maxPacket → len ≤ (c.epRing o.key).left false → exec (.usb2TransactionEnd b (.data len true) pos us) s
        = .next (s.onward (((((ran len 1).takeIn o.key len now).afterMove o.key (decide (len < e.maxPacket))).tend o.key).kick b.val)))))
  ∧ (∀ (s : State) (p : Fin 8) (o : OnBus) (r : BurstEnd) (us : BitVec 7) (slot : Fin 256)
      (i : Fin 32) (stream : BitVec 16) (numP : BitVec 5),
    let c := s.chip
    let t := c.at_ us.toNat
    let b := 24 + p.val
    let key := epKey slot.val i.val
    let d := (t.updBus b (fun x => { x with on := none })).freeCells o.key
    let ran := (d.charge b o.place ((d.bus b).shaped false r.bytes 0)).ranOnly o.key o.mf
    ((t.bus b).on = none → exec (.ssBurstEnd p r us) s = .next (s.onward t))
    ∧ ((t.bus b).on = some o → o.sa = false → o.periodic = false → (t.ep o.key).service = false → (t.ep o.key).ty = .bulk →
      (t.ep o.key).st = .running → t.stale o = false → t.hasTd o.key = true → r.nrdy = true → r.strike = false → r.stall = false →
      r.babble = false → r.streamEnd = false → r.pkts = 0 →
      exec (.ssBurstEnd p r us) s = .next (s.onward (((ran.updEp o.key (fun e => { e with
        numP := r.numP, nrdy := true, strikes := 0, staged := false })).tend o.key).kick b)))
    ∧ ((c.ep key).st = .running → (c.ep key).setAddr = none → (c.ep key).maxStreams = 0 →
      exec (.erdyReceived slot i stream numP) s = .next (s.onward ((c.updEp key (fun e =>
        if (c.epRing key).filed then { e with nrdy := false, erdy := false, numP := numP.toNat }
        else { e with erdy := true, numP := numP.toNat })).stir key)))
    ∧ ((c.ep key).st = .running → 0 < (c.ep key).maxStreams → 1 ≤ stream.toNat → stream.toNat ≤ 2 ^ (c.ep key).maxStreams →
      c.streamFiled key stream.toNat = true →
      exec (.erdyReceived slot i stream numP) s = .next (s.onward ((c.updEp key (fun e => { e with
        nrdy := false, named := stream.toNat, stream := stream.toNat, lastStream := stream.toNat, numP := numP.toNat })).stir key)))
    ∧ ((c.ep key).st ≠ .running → (c.ep key).setAddr = none → exec (.erdyReceived slot i stream numP) s = .next (s.onward s.chip))
    ∧ exec (.rallyReady slot i) s
        = .next (s.onward ((c.updEp key (fun e => { e with rally := { e.rally with held := false } })).stir key))
    ∧ (let x := (c.epRing key).elems.headD {}
      (c.ep key).ty = .isoch → keyIn key = false → (c.ep key).st = .running → (c.ep key).staged = false → 0 < x.len →
      (c.inst (c.ringHome slot.val)).serves = true →
      (c.epRing key).td.place = some ((c.bus (c.slotBus slot.val)).mf + 1) → (c.epRing key).td.ended = none →
      exec (.isochStageDeadline slot i) s
        = .next (s.onward ((c.endTd key { code := ccDataBuf, tag := x.tag, entry := (c.epRing key).entryAt 0 }).stir key))))

/-- The Scorebook and the capture registers (R6, R190 to R193, R196, R241): a sample whose point has come takes every queue in
use, counts for each instance that is there and names its micro-frame; with no point to take nothing happens (log entry 71: the
tick marks the point, this command takes it). A write of the manager to SB_CLEAR clears every record, and one of SB_SEL, REF_SEL
or POOL_SEL captures the entry it selects, or zeros for what is not there; a reserved BUS or WHAT keeps the field. -/
def Obligations.ScorebookCaptures : Prop :=
  ∀ (s : State) (w : Writer) (val : Word),
    let c := s.chip.spinBreak
    (s.chip.cap.sbBusy = false → exec .scorebookSample s = .next (s.onward s.chip))
    ∧ (s.chip.cap.sbBusy = true → ∃ d : Chip,
      exec .scorebookSample s = .next (s.onward { s.chip with
        queues := d.queues
        insts := Tbl.mapv {} s.chip.insts (fun k x => if k < 128 ∧ x.st ≠ .absent then { x with samples := x.samples + 1 } else x)
        cap := { s.chip.cap with sbLastMf := s.chip.cap.sbPoint, sbBusy := false } })
      ∧ d.buses = s.chip.buses
      ∧ ∀ k, d.queue k = (if k ∈ s.chip.sampleKeys ∧ s.chip.placeUsed (k / 256) (k % 256) = true then
          (s.chip.queue k).sample (s.chip.depth (k / 256) (k % 256)).1 (s.chip.depth (k / 256) (k % 256)).2 s.chip.us
            (s.chip.colourCode (k / 256) (k % 256))
        else s.chip.queue k))
    ∧ (s.chip.isMgr w = true →
      exec (.sbClear w) s = .next (s.onward { c.mapQueues (fun _ q => { q with
          depth := 0, depthMax := 0, age := 0, ageMax := 0, hist := [], yellowSvc := 0, heldRed := 0, services := 0, lenBytes := 0
          colour := 0, snap := (0, 0, 0, 0) }) with
        insts := Tbl.mapv {} c.insts (fun _ x => { x with samples := 0 }) })
      ∧ (∀ b, codeBus (fld val 13 8) = some b →
        exec (.sbSelWrite w val) s = .next (s.onward { c with cap := { c.cap with
          sbSel := toWord (fld val 7 0 + 2 ^ 8 * fld val 13 8)
          sbData := wordTbl (if c.placeUsed b (fld val 7 0) then c.sbEntry b (fld val 7 0) else []) } })
        ∧ exec (.refSelWrite w val) s = .next (s.onward { c with cap := { c.cap with
          refSel := toWord (fld val 7 0 + 2 ^ 8 * fld val 13 8 + 2 ^ 14 * fld val 15 14)
          refData := wordTbl (if fld val 15 14 = 3 ∨ c.placeUsed b (fld val 7 0) = true then
            c.refWords b (fld val 7 0) (fld val 15 14) else []) } }))
      ∧ (codeBus (fld val 13 8) = none →
        exec (.sbSelWrite w val) s = .next (s.onward { c with cap := { c.cap with
          sbSel := toWord (fld val 7 0 + 2 ^ 8 * fld c.cap.sbSel 13 8)
          sbData := wordTbl (match codeBus (fld c.cap.sbSel 13 8) with
            | some b => if c.placeUsed b (fld val 7 0) then c.sbEntry b (fld val 7 0) else []
            | none => []) } })
        ∧ exec (.refSelWrite w val) s = .next (s.onward { c with cap := { c.cap with
          refSel := toWord (fld val 7 0 + 2 ^ 8 * fld c.cap.refSel 13 8 + 2 ^ 14 * fld val 15 14), refData := [] } }))
      ∧ (let n := fld val 6 0
        let sel (ws : List Nat) : Chip := { c with cap := { c.cap with
          poolSel := toWord (n + 2 ^ 8 * fld val 9 8), poolData := wordTbl ws } }
        let info := (c.inst n).st.code + 2 ^ 8 * (c.inst n).gen.toNat + flagAt (c.inst n).compat 16
        (fld val 9 8 = 0 → exec (.poolSelWrite w val) s = .next (s.onward (sel ((c.inst n).quota.words ++ [info]))))
        ∧ (fld val 9 8 = 1 → exec (.poolSelWrite w val) s = .next (s.onward (sel ((c.use n).words ++ [info]))))
        ∧ (fld val 9 8 = 3 → exec (.poolSelWrite w val) s = .next (s.onward { c with cap := { c.cap with
          poolSel := toWord (n + 2 ^ 8 * fld c.cap.poolSel 9 8), poolData := [] } }))))

/-- Events of a USB 2.0 port that change its state alone (R207, R215, R221, R223, R384): power-on wait, pull-up, debounce, the end of SE0,
resume K seen and ended, and POC# falling; while the port logic sleeps, a pull-up's coming and going is only noted. Events of a USB 2.0
port that its owner hears of (R91, R111, R207, R210, R214, R215, R217, R264, R265): what each sets on the port and posts, then what
follows for enumeration, for the slots behind the port and for its pending commands, which is nothing where there are none. -/
def Obligations.Usb2PortsFollowEvents : Prop :=
  (∀ (s : State) (i : Fin 24) (b : Bool),
    let p := i.val
    let c := s.chip
    let q := c.port p
    (8 ≤ p → q.st = pPowering →
      exec (.portPowerOnWaitEnd i) s = .next (s.onward (c.updPort p (fun q => { q with st := pDisconnected }))))
    ∧ (p < 8 → q.st = pPowering → (c.ssp p).st = sPowering →
      exec (.portPowerOnWaitEnd i) s = .next (s.onward
        ((c.updPort p (fun q => { q with st := pDisconnected })).updSsp p (fun q => { q with st := sRxDetect }))))
    ∧ (c.asleep = false → q.st = pDisconnected → q.bc ≠ dcp →
      exec (.pullupSeen i b) s = .next (s.onward (c.updPort p (fun q => { q with st := pDebounce, wasSpeed := if b then 1 else 2 }))))
    ∧ (c.asleep = false → q.st = pDebounce →
      exec (.pullupLostInDebounce i) s = .next (s.onward (c.updPort p (fun q => { q with st := pDisconnected, bounce := q.bounce + 1 }))))
    ∧ (q.st = pResetting → q.se0 = true →
      exec (.resetSe0End i b) s = .next (s.onward ((c.updBus p (fun x => { x with noSof := true })).updPort p (fun x => { x with
        st := pRecovery, se0 := false, afterResume := false, speed := if q.wasSpeed = 1 then 1 else if b then 3 else 2 }))))
    ∧ (c.asleep = true →
      exec (.pullupSeen i b) s = .next (s.onward (c.updPort p (fun q => { q with seen := some (if b then 1 else 2) })))
      ∧ exec (.pullupLostInDebounce i) s = .next (s.onward (c.updPort p (fun q => { q with seen := some 0 })))
      ∧ exec (.usb2Disconnect i) s = .next (s.onward (c.updPort p (fun q => { q with seen := some 0 })))
      ∧ exec (.deviceResumeK i) s = .next (s.onward c))
    ∧ (c.asleep = false → q.st = pSuspended → q.pass = false →
      exec (.deviceResumeK i) s = .next (s.onward ((c.updPort p (fun q => { q with
        st := pResuming, fromL1 := false, nowCause := causeDevice, already := false, afterResume := false })).emit (.resumeK p))))
    ∧ (c.asleep = false → q.st = pResuming → q.nowCause = causeHost →
      exec (.deviceResumeK i) s = .next (s.onward (c.updPort p (fun q => { q with nowCause := causeBoth }))))
    ∧ (q.st = pResuming → q.fromL1 = false →
      exec (.resumeKEnd i) s = .next (s.onward ((c.updBus p (fun x => { x with noSof := true })).updPort p (fun q => { q with
        st := pRecovery, afterResume := true }))))
    ∧ exec (.pocFall i) s
        = .next (s.onward (c.updPort p (fun q => { q with pocLow := true, deglitch := c.boot.crystal || c.asleep })))
    ∧ (q.tripped = false →
      exec (.pocRise i) s = .next (s.onward (c.updPort p (fun q => { q with pocLow := false, deglitch := false })))))
  ∧ (∀ (s : State) (i : Fin 24),
    let p := i.val
    let c := s.chip
    let q := c.port p
    let open' := (c.updPort p (fun q => { q with
      st := pDisabled, connected := true, speed := q.wasSpeed, devResumed := false })).portChange p chConnect 0
    let up := (c.updPort p (fun q => { q with st := pEnabled, resetCmd := none, devResumed := false })).portChange p (chReset + chEnable) 0
    let down := (c.updPort p (fun q => { q with
      st := pDisconnected, connected := false, speed := 0, fromL1 := false, afterResume := false, devResumed := false
      })).updBus p (fun x => { x with lpm := none })
    (q.st = pDebounce →
      exec (.debounceEnd i) s = .next (s.onward (open'.enumRoot p))
      ∧ (c.enumOn p = false → exec (.debounceEnd i) s = .next (s.onward open')))
    ∧ (q.st = pRecovery → q.afterResume = false →
      exec (.resetRecoveryEnd i) s = .next (s.onward (up.resetOver p q.wasSpeed q.resetCmd))
      ∧ (q.wasSpeed = q.speed → q.resetCmd = none → c.busSlots p = [] → c.jobs = [] →
        exec (.resetRecoveryEnd i) s = .next (s.onward (up.kick p))))
    ∧ (q.st = pSuspending →
      exec (.suspendEntryTimer i) s = .next (s.onward (((c.updPort p (fun q => { q with
        st := pSuspended, suspendCmd := none, devResumed := false })).portChange p chSuspend 0).finishRef q.suspendCmd ccSuccess 0)))
    ∧ (q.st = pRecovery → q.afterResume = true →
      exec (.resumeRecoveryEnd i) s = .next (s.onward ((((c.updPort p (fun x => { x with
        st := pEnabled, fromL1 := false, afterResume := false, cause := q.nowCause, devResumed := q.nowCause == causeDevice
        resumeCmd := none, already := false })).portChange p chResume q.nowCause).finishRef q.resumeCmd ccSuccess
          (if q.already then 1 else 0)).kick p)))
    ∧ (c.asleep = false → pDisabled ≤ q.st → (p < 8 → (c.ssp p).st ≠ sDisabled) →
      exec (.usb2Disconnect i) s = .next (s.onward (down.unplug p 0 q.connected))
      ∧ (q.connected = true → q.suspendCmd = none → q.resumeCmd = none → q.resetCmd = none → c.busSlots p = [] → c.jobs = [] →
        exec (.usb2Disconnect i) s = .next (s.onward ((down.portChange p chConnect 0).updPort p (fun q => { q with
          parked := q.parked.filter (fun x => x.bus != p), resetCmd := none, suspendCmd := none, resumeCmd := none, already := false
          se0 := false })))))
    ∧ (c.asleep = false → q.st < pDisabled → exec (.usb2Disconnect i) s = .next (s.onward c)))

/-- A PORT_CHANGE (R72, R207): a port that the hub does not hold and that an instance owns sets its change bits and posts the event to its
owner with the port's status; a port that nobody owns only sets them. -/
def Obligations.PortChangeTellsTheOwner : Prop :=
  ∀ (c : Chip) (p bits : Nat) (cause : BitVec 4), p < 24 → (c.port p).pass = false → (c.port p).farOwner = none →
    let d := c.updPort p (fun q => { q with chg := q.chg ||| statChg bits })
    ((c.port p).owner = nobody → c.portChange p bits cause = d)
    ∧ ((c.port p).owner ≠ nobody → c.portChange p bits cause
      = d.event (c.port p).owner.toNat evPortChange (BitVec.ofNat 16 (p + 2 ^ 8 * c.nodeNo)) (toWord bits) (toWord (c.portStatus p cause)))

/-- Events of a SuperSpeed companion (R139, R204, R205, R211 to R213, R215): detection, training, which gives two lanes only on
SSP0 and SSP1 with both lanes in service, and its time-outs, link power, link errors, termination lost, and the exit from U3. Port
power (R218, R219, R221 to R223, R263): a qualified trip acts on the gang of its POC# ball; OC_MAP takes its bytes for ports
without power; SVC_PORTn takes a legal CHARGE; the end of a DCP power cycle powers the connector again unless it is over-current.
-/
def Obligations.SuperSpeedAndPowerEvents : Prop :=
  (∀ (s : State) (i : Fin 8) (speed : BitVec 4),
    let p := i.val
    let b := 24 + p
    let c := s.chip
    let q := c.ssp p
    let sp := if c.twoLanes p then speed else if speed = 7 then 6 else if speed = 5 then 4 else speed
    let trained := (c.updSsp p (fun q => { q with
      st := sU0, connected := true, speed := sp, lanes := if sp = 5 ∨ sp = 7 then 2 else 1, timeouts := 0, wasSpeed := sp
      })).portChange b (chConnect + chEnable) 0
    let gone := c.updSsp p (fun q => { q with
      st := sRxDetect, connected := false, speed := 0, lanes := 0, timeouts := 0, tries := 0, exiting := false })
    (c.asleep = false → q.st = sRxDetect → (c.port p).bc ≠ dcp →
      exec (.ssRxDetectPoll i true) s = .next (s.onward (c.updSsp p (fun q => { q with st := sPolling }))))
    ∧ (q.st = sPolling →
      exec (.ssPollingU0 i speed) s = .next (s.onward (trained.enumRoot b))
      ∧ (c.enumOn b = false → exec (.ssPollingU0 i speed) s = .next (s.onward trained)))
    ∧ (q.st = sResetting → q.se0 = true →
      exec (.ssPollingU0 i speed) s = .next (s.onward (((c.updSsp p (fun q => { q with
        st := sU0, speed := sp, lanes := if sp = 5 ∨ sp = 7 then 2 else 1, se0 := false, resetCmd := none
        })).portChange b chReset 0).resetOver b q.wasSpeed q.resetCmd)))
    ∧ (q.st = sPolling → q.timeouts < 2 →
      exec (.ssPollingTimeout i) s = .next (s.onward (c.updSsp p (fun q => { q with
        trainFail := q.trainFail + 1, timeouts := q.timeouts + 1, st := sRxDetect }))))
    ∧ (q.st = sPolling → q.timeouts = 2 →
      exec (.ssPollingTimeout i) s = .next (s.onward ((c.updSsp p (fun q => { q with
        trainFail := q.trainFail + 1, timeouts := q.timeouts + 1, st := sDisabled })).portChange b chLinkErr 0)))
    ∧ (q.st = sU0 → (c.port p).pass = false → q.u1 ≠ 0 → c.keepsU0 p = false →
      exec (.ssIdleTimeout i false) s = .next (s.onward ((c.updSsp p (fun q => { q with st := sU1 })).emit (.ltssm p sU1))))
    ∧ (q.st = sU0 → c.keepsU0 p = true →
      exec (.ssIdleTimeout i false) s = .next (s.onward c)
      ∧ exec (.deviceInitiatedU1U2 i true) s = .next (s.onward (c.emit (.lau p false))))
    ∧ (q.st = sU0 → (c.port p).pass = false → q.acceptDev = true → c.keepsU0 p = false →
      exec (.deviceInitiatedU1U2 i true) s
        = .next (s.onward (((c.updSsp p (fun q => { q with st := sU2 })).emit (.ltssm p sU2)).emit (.lau p true))))
    ∧ (q.st = sU0 →
      exec (.ssLinkError i false) s = .next (s.onward (((c.updSsp p (fun q => { q with
        recovery := q.recovery + 1, st := sInactive, inactive := q.inactive + 1 })).portChange b chLinkErr 0).kick b)))
    ∧ (c.asleep = false → q.st ≠ sOff →
      exec (.ssTerminationLost i) s = .next (s.onward (if q.connected then gone.unplug b 0 true else gone)))
    ∧ (c.asleep = false → q.st = sU3 → (c.port p).pass = false →
      exec (.ssWakeLfps i) s = .next (s.onward ((c.updSsp p (fun q => { q with
        st := sRecovery, exiting := true, tries := 0, nowCause := causeDevice })).emit (.ltssm p sRecovery))))
    ∧ (q.st = sRecovery → q.exiting = true →
      (2 ≤ q.tries → exec (.u3ExitRetryTimeout i) s = .next (s.onward ((((c.updSsp p (fun x => { x with
          st := sInactive, exiting := false, tries := 0, inactive := x.inactive + 1, cause := q.nowCause, resumeCmd := none
          })).portChange b chLinkErr 0).finishRef q.resumeCmd ccSuccess 2).kick b)))
      ∧ (q.tries < 2 → exec (.u3ExitRetryTimeout i) s = .next (s.onward (c.updSsp p (fun q => { q with tries := q.tries + 1 }))))
      ∧ exec (.u3ExitU0 i) s = .next (s.onward ((((c.updSsp p (fun x => { x with
          st := sU0, exiting := false, tries := 0, cause := q.nowCause, resumeCmd := none })).portChange b chResume q.nowCause).finishRef
            q.resumeCmd ccSuccess 0).kick b))))
  ∧ (∀ (s : State) (i : Fin 24) (k : Fin 6) (w : Writer) (val : Word),
    let p := i.val
    let c := s.chip
    let q := c.port p
    (q.pocLow = true → q.deglitch = true → c.gang p ≠ [] → c.asleep = false →
      exec (.ocTripQualified i) s = .next (s.onward ((c.tripPower p).tripReport p (c.tripOff p))))
    ∧ (q.deglitch = false → exec (.ocTripQualified i) s = .next (s.onward c))
    ∧ (q.tripped = true → q.tripDue = none →
      exec (.pocRise i) s = .next (s.onward
        (((c.updPort p (fun q => { q with pocLow := false, deglitch := false })).tripClear p).clearReport p)))
    ∧ (q.cycle.isSome = true → q.oc = true →
      exec (.bcPowerCycleEnd i) s = .next (s.onward (c.updPort p (fun q => { q with cycle := none }))))
    ∧ (q.cycle.isSome = true → q.oc = false →
      exec (.bcPowerCycleEnd i) s = .next (s.onward ((c.ppeHigh p).updPort p (fun q => { q with
        bc := c.wantMode p, chargeOnly := c.wantMode p == dcp, cycle := none }))))
    ∧ (c.isMgr w = true →
      (5 ≤ fld val 3 1 → exec (.svcPortWrite w i val) s = .next (s.onward c.spinBreak))
      ∧ (fld val 3 1 < 5 → exec (.svcPortWrite w i val) s = .next (s.onward
        ((c.spinBreak.updPort p (fun q => { q with svc := BitVec.ofNat 10 val.toNat })).applyCharge p)))
      ∧ (∃ d : Chip, exec (.ocMapWrite w k val) s = .next (s.onward d)
        ∧ ∀ j < 24, let v := fld val (8 * (j % 4) + 4) (8 * (j % 4))
          let on := decide (v < 24) && (c.port v).tripped
          d.port j = if j / 4 = k.val ∧ (c.port j).powered = false ∧ (v < 24 ∨ v = 31) then { c.port j with
              src := if v = j then none else some (BitVec.ofNat 5 v), oc := on
              chg := if (c.port j).oc = on then (c.port j).chg else (c.port j).chg ||| 32 }
            else c.port j)))

/-- A trip on POC# ball n (R221, steps 1 and 2): every port of its gang is over-current, and those that were powered lose power, count the
trip and are not powered again by policy; the other ports keep their power. -/
def Obligations.TripSwitchesTheGangOff : Prop :=
  ∀ (c : Chip) (n p : Nat), p ≠ n →
    let d := (c.tripPower n).port p
    (p ∈ c.gang n → d.oc = true ∧ d.cycle = none)
    ∧ (p ∈ c.tripOff n → d.powered = false ∧ d.noAuto = true ∧ d.trips = (c.port p).trips + 1)
    ∧ (p ∉ c.gang n → d = c.port p)

/-- Requests of the upstream host to an attached hub of the Pass pair (R225, R228, R229): the answers, STALL for what the hub does
not serve, and the state the requests set. Traffic on the SuperSpeed link shows that it is up; two bytes of GET_PORT_ERR_COUNT are
free (log entry 2), and the Device_Qualifier is the model's choice (log entry 69). -/
def Obligations.HubRequestsAnswer : Prop :=
  ∀ (s : State) (ss : Bool) (i : Fin 24) (i8 : Fin 8) (v : Byte) (a : BitVec 7),
    let p := i.val
    let c := s.chip
    let u := c.upSeen ss
    let tells (d : Chip) (ss : Bool) (bs : List Byte) : Host.Outcome State Fault Refusal := .next (s.onward (d.emit (.hubData ss bs)))
    let stall : Host.Outcome State Fault Refusal := .next (s.onward (u.emit (.hubStall ss)))
    (ss = false ∨ c.pass.ssLink = true → u = c)
    ∧ (c.hubOn ss = true →
      exec (.hubGetHubStatus ss) s = tells u ss [0, 0, 0, 0]
      ∧ exec (.hubGetHubDescriptor ss) s = tells u ss (if ss then [12, 0x2A, 8, 0x09, 0x00, 25, 0, 0, 0x90, 0x01, 0, 0]
        else [15, 0x29, 24, 0x09, 0x00, 25, 0, 0, 0, 0, 0, 0xFF, 0xFF, 0xFF, 0xFF])
      ∧ exec (.hubClearHubFeature ss .cHubLocalPower) s = tells u ss []
      ∧ exec (.hubClearHubFeature ss .portPower) s = stall
      ∧ exec (.hubRequestStalled ss v) s = stall
      ∧ exec (.hubStandardRequest ss (.setAddress a)) s = tells (u.updHub ss (fun h => { h with addr := a })) ss []
      ∧ exec (.hubStandardRequest ss (.getDescriptor 1)) s = tells u ss (u.hubDevDesc ss)
      ∧ exec (.hubStandardRequest ss (.getDescriptor 2)) s = tells u ss (hubCfgDesc ss)
      ∧ exec (.hubStandardRequest ss .getConfiguration) s = tells u ss [if (u.hub ss).configured then 1 else 0]
      ∧ (v.toNat ≤ 1 → exec (.hubStandardRequest ss (.setConfiguration v)) s
        = .next (s.onward ((u.updHub ss (fun h => { h with configured := v == 1, halted := false, u1On := false, u2On := false })).emit
          (.hubData ss [])).chargeAll))
      ∧ exec (.hubStandardRequest ss .other) s = stall)
    ∧ (c.hubOn false = true →
      exec (.hubGetPortStatus false i) s = tells c false (c.hubStatus2 p)
      ∧ ((c.port p).pass = false → c.hubStatus2 p = leBytes 2 0 ++ leBytes 2 (let h := c.hubPortOf false p
          flagAt h.cConn 0 + flagAt h.cEnable 1 + flagAt h.cSuspend 2 + flagAt h.cOc 3 + flagAt h.cReset 4))
      ∧ exec (.hubClearPortFeature false i .cConnection) s
        = .next (s.onward ((c.emit (.hubData false [])).updHubPort false p (fun h => { h with cConn := false })))
      ∧ exec (.hubClearTtBuffer i) s = tells c false [] ∧ exec (.hubResetTt i) s = tells c false []
      ∧ exec (.hubStandardRequest false (.getDescriptor 6)) s = tells c false (hubQualifier c.pass.hs)
      ∧ ((c.port p).pass = true → (c.port p).st = pEnabled →
        exec (.hubSetPortFeature false i .portSuspend 0) s
          = .next (s.onward ((c.emit (.hubData false [])).updPort p (fun q => { q with st := pSuspending })))))
    ∧ (let t := c.upSeen true
      c.hubOn true = true →
      (8 ≤ p → exec (.hubGetPortStatus true i) s = .next (s.onward (t.emit (.hubStall true))))
      ∧ (p < 8 → exec (.hubGetPortStatus true i) s = tells t true (t.hubStatus3 p)
        ∧ exec (.hubSetPortFeature true i .portU1Timeout v) s
          = .next (s.onward ((t.emit (.hubData true [])).updHubPort true p (fun h => { h with u1 := v })))
        ∧ exec (.hubClearPortFeature true i .cBhReset) s
          = .next (s.onward ((t.emit (.hubData true [])).updHubPort true p (fun h => { h with cBh := false }))))
      ∧ (v.toNat ≤ 4 → exec (.hubSetHubDepth v) s = tells (t.updHub true (fun h => { h with depth := v })) true [])
      ∧ (4 < v.toNat → exec (.hubSetHubDepth v) s = .next (s.onward (t.emit (.hubStall true))))
      ∧ exec (.hubGetPortErrorCount i8) s = tells { t with free := t.free + 2 } true
        [BitVec.ofNat 8 (Config.freeWord t.free).toNat, BitVec.ofNat 8 (Config.freeWord (t.free + 1)).toNat])
    ∧ (c.hubOn ss = false →
      exec (.hubGetHubStatus ss) s = .next (s.onward c) ∧ exec (.hubStandardRequest ss .getStatus) s = .next (s.onward c))

/-- The upstream side of the Pass pair (R224, R225, R227, R230, R231): attachment follows HUB_EN and VBUS, a bus reset switches the held
connectors off and gives the hub its reset state, suspend and resume are kept, and traffic for a held, enabled port is forwarded to it; a
poll of the status endpoint finds the changes of the ports. -/
def Obligations.UpstreamEventsAct : Prop :=
  ∀ (s : State) (ss high : Bool) (i : Fin 24) (i8 : Fin 8) (w : Writer) (val : Word),
    let p := i.val
    let c := s.chip
    let t := c.upSeen true
    let off (d : Chip) : Chip := c.held.foldl (fun d p => d.hubPowerOff p) d
    ((high = true ∨ c.pass.attached = false →
      exec (.ufpVbusChange high) s = .next (s.onward ({ c with pass := { c.pass with vbus := high } } : Chip).chargeAll))
    ∧ (c.pass.attached = true →
      exec (.ufpVbusChange false) s = .next (s.onward ({ c with pass := { c.pass with vbus := false } } : Chip).hubGone.chargeAll)))
    ∧ (c.isMgr w = true → c.pass.attached = false →
      exec (.passCtlWrite w val) s = .next (s.onward
        ({ c.spinBreak with pass := { c.pass with hubEn := bitAt val 0, ssEn := bitAt val 1 } } : Chip).chargeAll))
    ∧ (c.hubOn false = true → exec (.upstreamReset false) s = .next (s.onward (
      { off c with pass := { (off c).pass with usb2 := {}, hs := bitAt (Config.freeWord (off c).free) 0 }, free := (off c).free + 1
        } : Chip).chargeAll))
    ∧ (c.hubOn true = true → exec (.upstreamReset true) s = .next (s.onward (
      { off c with pass := { (off c).pass with usb3 := {}, ssLink := false, ssSpeed := 0 } } : Chip).chargeAll))
    ∧ (c.hubOn true = true → (∀ k < 8, (c.port k).pass = false) →
      exec .upstreamHotReset s = .next (s.onward { t with pass := { t.pass with usb3 := {} } }))
    ∧ (c.hubOn ss = true →
      exec (.upstreamSuspend ss none) s = .next (s.onward (c.updHub ss (fun h => { h with suspended := true })))
      ∧ exec (.upstreamResume ss none) s = .next (s.onward (c.updHub ss (fun h => { h with suspended := false }))))
    ∧ (c.hubOn false = true → (c.port p).pass = true → (c.port p).st = pEnabled →
      exec (.upstreamSuspend false (some i)) s = .next (s.onward (c.updPort p (fun q => { q with st := pSuspending }))))
    ∧ (c.hubOn ss = false →
      exec (.upstreamSuspend ss none) s = .next (s.onward c) ∧ exec (.upstreamReset ss) s = .next (s.onward c))
    ∧ (c.hubOn false = true → (c.port p).pass = true → (c.port p).st = pEnabled →
      exec (.upstreamTransaction (.highSpeed i)) s = .next (s.onward (c.emit (.hubForward p false)))
      ∧ exec (.upstreamTransaction (.translated i)) s = .next (s.onward (c.emit (.hubForward p true))))
    ∧ (c.hubOn true = true → (c.port i8.val).pass = true → (c.ssp i8.val).enabled = true →
      exec (.upstreamTransaction (.superSpeed i8)) s = .next (s.onward (t.emit (.hubForward (24 + i8.val) false))))
    ∧ (c.hubOn false = true → c.pass.usb2.halted = false →
      exec (.upstreamTransaction (.statusPoll false)) s = .next (s.onward (c.emit (.hubStatus (c.hubBits false)))))
    ∧ (c.hubOn false = true → (c.port p).pass = false →
      exec (.upstreamTransaction (.highSpeed i)) s = .next (s.onward c))

/-- The mailbox of an instance that answers (R280 to R282): with firmware running, each request of a native instance about a slot, port or
connector that it owns completes SUCCESS with its response, where the chip holds the answer; an unknown opcode, a slot that it does not
own, and any request without firmware complete PARAM_ERR; a request while BUSY only sets OVERRUN; one about a port of another node that it
owns goes to that node. Completion sets DONE and the code. -/
def Obligations.MailboxCompletes : Prop :=
  ∀ (s : State) (i : Fin 128) (op : Byte),
    let n := i.val
    let c := if n = 0 then s.chip.spinBreak else s.chip
    let x := c.inst n
    let ends (c : Chip) (code : Byte) (rsp : Option (Tbl Word)) : Host.Outcome State Fault Refusal :=
        .next (s.onward (c.mboxDone n code rsp))
    let good (c : Chip) (op : Byte) (bs : List Byte) := ends c ccSuccess (some (mboxWords op bs))
    let bad (k : Nat) := ends (c.mboxBegun n k) ccParam none
    (∀ (d : Chip) (code : Byte) (rsp : Option (Tbl Word)), (d.inst n).mbox.ie = false →
      d.mboxDone n code rsp = d.updInst n (fun x => { x with mbox := { x.mbox with
        code := code, busy := false, done := true, rsp := rsp.getD x.mbox.rsp } }))
    ∧ (x.pageOn = true →
      (x.mbox.busy = true →
        exec (.mboxDevDesc i) s = .next (s.onward (c.updInst n (fun x => { x with mbox := { x.mbox with overrun := true } }))))
      ∧ (x.mbox.busy = false →
        (c.boot.fwRunning = false →
          let idle := c.updInst n (fun x => { x with mbox := { x.mbox with busy := true, done := false } })
          exec (.mboxTopology i) s = ends idle ccParam none ∧ exec (.mboxRescan i) s = ends idle ccParam none)
        ∧ (c.boot.fwRunning = true → c.rel.suspended = 0 → x.compat = false →
          let sk := c.slotKey (fld (c.mboxArg n 0) 11 0)
          let t := c.slot sk
          let off := fld (c.mboxArg n 1) 11 0
          let sub := fld (c.mboxArg n 0) 15 0
          let b := c.ownedBus n (BitVec.ofNat 16 sub)
          exec (.mboxReservedOpcode i op) s = bad op.toNat
          ∧ exec (.mboxEnumFail i) s
              = good ((c.mboxBegun n 5).updInst n (fun x => { x with enumFails := x.enumFails.drop 7 })) 0x05
                  (leBytes 4 (x.enumFails.take 7).length ++ (x.enumFails.take 7).flatMap EnumFail.bytes)
          ∧ (c.owns n sk = false → exec (.mboxDevDesc i) s = bad 1 ∧ exec (.mboxShareInfo i) s = bad 6)
          ∧ (c.owns n sk = true → farKey sk = false →
            (t.devDesc ≠ [] → exec (.mboxDevDesc i) s = good (c.mboxBegun n 1) 0x01 t.devDesc)
            ∧ (off < min (leAt t.cfgDesc 2 2) 4096 → exec (.mboxCfgDesc i) s
              = good (c.mboxBegun n 2) 0x02 (leBytes 2 (leAt t.cfgDesc 2 2) ++ [0, 0] ++ (t.cfgDesc.drop off).take 56))
            ∧ (min (leAt t.cfgDesc 2 2) 4096 ≤ off → exec (.mboxCfgDesc i) s = bad 2)
            ∧ (let parked := (c.port (busPort (c.slotBus sk))).parked.any (fun x =>
                x.bus == c.slotBus sk && routeBehind t.route.toNat x.route.toNat)
              exec (.mboxTopology i) s = good (c.mboxBegun n 3) 0x03 (leBytes 2 t.root.toNat ++ leBytes 3 t.route.toNat
                ++ leBytes 1 t.speed.toNat ++ leBytes 2 (if t.route = 0 then 0xFFFF else ((c.parentSlot sk).map c.slotName).getD 0xFFFF)
                ++ leBytes 1 (flagAt t.mtt 0 + 2 * t.ttThink.toNat) ++ leBytes 1 t.ttPort.toNat ++ leBytes 2 t.ttSlot.toNat
                ++ leBytes 1 (flagAt t.shared.isSome 0 + flagAt parked 1)))
            ∧ (t.shared = none → exec (.mboxShareInfo i) s = bad 6)
            ∧ (∀ g, t.shared = some g → exec (.mboxShareInfo i) s = good (c.mboxBegun n 6) 0x06 ([BitVec.ofNat 8 g,
              BitVec.ofNat 8 (((c.memberIdx g).find? (fun i => c.memberAt g i == some n)).getD 0),
              if c.focusInst g = some n then 1 else 0, 0] ++ leBytes 2 (c.share g).switches.toNat)))
          ∧ (b = none → c.ownsView n sub = false → exec (.mboxRescan i) s = bad 4 ∧ exec (.mboxChargeInfo i) s = bad 7)
          ∧ (b = none → c.ownsView n sub = true →
            exec (.mboxRescan i) s = .next (s.onward ((c.mboxBegun n 4).mboxFar n (sub / 256) 4))
            ∧ exec (.mboxChargeInfo i) s = .next (s.onward ((c.mboxBegun n 7).mboxFar n (sub / 256) 7)))
          ∧ (∀ k, b = some k →
            let q := c.port (busPort k)
            let d := (c.mboxBegun n 4).rescan (busPort k)
            exec (.mboxChargeInfo i) s = good (c.mboxBegun n 7) 0x07 (leBytes 1 q.charge ++ leBytes 1 q.bc.toNat
              ++ leBytes 1 (flagAt q.chargeOnly 0 + flagAt q.autoOn 1 + flagAt q.sleepCharge 2))
            ∧ exec (.mboxRescan i) s = good d.1 0x04 (leBytes 1 d.2)))))

/-- Managed enumeration (R262, R265, R267, R271): the maximum packet size read, the device is given the lowest free slot and address;
addressed, its descriptors are read; a first failure to answer at a root port resets it, and a third parks the device; a device on a
service hub's port is enumerated from step 2, and what is behind a port that is disconnected or over-current is gone. The transfer that
brought a step's bytes is charged to the owner's queue (log entry 77). -/
def Obligations.EnumerationSteps : Prop :=
  ∀ (s : State) (k sk a m : Nat) (bs : List Byte) (slot : Fin 256) (port : BitVec 8) (speed : BitVec 4),
    let c := s.chip
    let j := c.job k
    let d := c.svcCharge (jobBus k) j.mps0.toNat bs.length
    (j.step = 2 → mps0Of j.speed bs = some m →
      exec (.enumStepComplete k (.ok bs)) s = .next (s.onward ((d.setJob k { j with mps0 := BitVec.ofNat 11 m }).beginStep k 3)))
    ∧ (∀ e : Chip, (e.job k).slot = none → (e.job k).speed = 3 → e.noAddress k = none →
      e.newSlot = some sk → (e.setJob k { e.job k with step := 3 }).freeAddr (jobBus k) = some a →
      e.beginStep k 3 = ((e.updSlot sk (fun _ => {
          st := .enabled, owner := e.portOwner (jobBus k), far := (e.port (busPort (jobBus k))).farOwner, root := e.subject (jobBus k)
          route := BitVec.ofNat 20 (jobRoute k), speed := 3, managed := true, busy := true })).setJob k { e.job k with
            step := 3, slot := some sk, addr := BitVec.ofNat 7 a }).svcReq k 2 a)
    ∧ (j.step = 3 → j.slot = some sk → j.redo = false →
      exec (.enumStepComplete k (.ok bs)) s = .next (s.onward
        ((((d.updSlot sk (fun s => { s with st := .addressed, addr := j.addr, prev := j.addr })).makeEp0 sk j.mps0.toNat).setJob k
          { j with step := 4 }).svcReq k 3 0)))
    ∧ (j.step = 2 → j.fail2 = 2 →
      exec (.enumStepComplete k .noAnswer) s = .next (s.onward ((c.setJob k { j with fail2 := 3 }).parkJob k 1 3)))
    ∧ (j.step = 2 → j.fail2 < 2 → jobRoute k = 0 → exec (.enumStepComplete k .noAnswer) s
      = .next (s.onward ((c.setJob k { j with fail2 := j.fail2 + 1, step := 1, again := 2 }).beginReset (jobBus k) false)))
    ∧ (j.step = 0 → exec (.enumStepComplete k (.ok bs)) s = .next (s.onward c))
    ∧ (let h := c.slot slot.val
      let b := c.slotBus slot.val
      let p := port.toNat
      let route := routeUnder h.route.toNat p
      let behind (r : Nat) : Bool := r == route || routeBehind route r
      (h.hub = false → exec (.hubPortChange slot port (.connect speed)) s = .next (s.onward c))
      ∧ (h.hub = true → h.st ≠ .disabled → h.leaving = false → 1 ≤ p → p ≤ 15 → routeLen h.route.toNat < 5 →
        exec (.hubPortChange slot port .disconnect) s = .next (s.onward (c.loseBehind b behind 0))
        ∧ exec (.hubPortChange slot port .overcurrent) s = .next (s.onward (((c.loseBehind b behind 3).svcReq slot.val 9 p).updSlot slot.val
          (fun s => { s with offPorts := (p, false) :: s.offPorts.filter (fun x => x.1 != p) })))
        ∧ (h.offPorts.contains (p, true) = false → h.offPorts.contains (p, false) = false → c.enumOn b = true →
          (c.job (jobKey b route)).step = 0 → ((c.busSlots b).all (fun k => (c.slot k).route.toNat != route)) = true →
          exec (.hubPortChange slot port (.connect speed)) s = .next (s.onward (c.startEnum b route speed)))))

/-- Input sharing (R261, R272 to R277, R283): the manager's writes of a group take their fields, and without firmware nothing
more; with it, a write of FOCUS to another VALID member switches; a report without a hot-key goes to the member in focus, and
waits while forwarding pauses; a member's SET_IDLE that is not forwarded is kept as its own, and a request of the member in focus
is sent on to the device. -/
def Obligations.SharingActs : Prop :=
  ∀ (s : State) (w : Writer) (g : Fin 8) (hi : Bool) (val : Word) (slot : Fin 256) (i : Fin 32) (r : List Byte) (n : Fin 128) (v : Byte)
    (dev : DevEnd),
    let c := s.chip
    let d := c.spinBreak
    let key := epKey slot.val i.val
    let e := d.updShare g.val (fun s => { s with ctl := BitVec.ofNat 24 (val.toNat &&& 0xFFFF1F) })
    let f := d.updShare g.val (fun s => if hi then { s with mem1 := val } else { s with mem0 := val })
    (c.isMgr w = true → c.boot.fwRunning = false →
      exec (.shareCtlWrite w g val) s = .next (s.onward e) ∧ exec (.shareMemWrite w g hi val) s = .next (s.onward f))
    ∧ (c.isMgr w = true → c.boot.fwRunning = true → c.sharePause = false → bitAt val 0 = bitAt (c.share g.val).ctl 0 →
      ((c.share g.val).focus = fld val 3 1 → exec (.shareCtlWrite w g val) s = .next (s.onward e))
      ∧ ((c.share g.val).focus ≠ fld val 3 1 → (c.memberAt g.val (fld val 3 1)).isSome = true →
        exec (.shareCtlWrite w g val) s = .next (s.onward (e.switchFocus g.val (fld val 3 1) false))
        ∧ (c.groupSlots g.val = [] → exec (.shareCtlWrite w g val) s = .next (s.onward (e.updShare g.val (fun s => { s with
          focus := fld val 3 1, switches := s.switches + 1, withhold := false }))))))
    ∧ (c.isMgr w = true → c.groupSlots g.val = [] → c.focusInst g.val = none →
      exec (.shareMemWrite w g hi val) s = .next (s.onward f))
    ∧ (c.sharedBy slot.val = false → exec (.sharedHidReport slot i r) s = .next (s.onward c))
    ∧ (c.sharedBy slot.val = true → keyIn key = true → (c.ep key).service = true →
      (c.sharePause = true →
        exec (.sharedHidReport slot i r) s = .next (s.onward { c with shareWait := c.shareWait ++ [.report key r] }))
      ∧ (∀ k m, c.sharePause = false → (c.slot slot.val).shared = some k → (c.ep key).keyboard = false → (c.share k).withhold = false →
        c.focusInst k = some m →
        exec (.sharedHidReport slot i r) s = .next (s.onward ((((((c.updEp key (fun e => { e with unread := e.unread - 1 })).freeCells
          key).updShare k (fun s => { s with withhold := false })).deliver key m r).kick (c.slotBus slot.val))))))
    ∧ ((c.slot slot.val).shared = none → exec (.sharedEp0Request n slot { req := .setIdle v }) s = .next (s.onward c))
    ∧ (∀ k, (c.slot slot.val).shared = some k → c.owns n.val slot.val = true → c.focusInst k ≠ some n.val →
      let e := c.updMember k n.val slot.val (fun m => { m with idle := some v })
      e.groupWake k slot.val = c.groupWake k slot.val →
      exec (.sharedEp0Request n slot { req := .setIdle v, dev := dev }) s
        = .next (s.onward (e.answerReq k n.val slot.val (.setIdle v) false dev)))
    ∧ (∀ k, (c.slot slot.val).shared = some k → c.owns n.val slot.val = true → c.focusInst k = some n.val →
      let e := c.updMember k n.val slot.val id
      e.groupWake k slot.val = c.groupWake k slot.val →
      exec (.sharedEp0Request n slot { req := .getReport, dev := dev }) s
        = .next (s.onward (((e.svcReq slot.val 14 0).svcCharge (c.slotBus slot.val) (c.slot slot.val).mps0.toNat (devLen dev)).answerReq k
          n.val slot.val .getReport true dev)))

/-- The SMBus target of a chip that is ready (R41, R243, R244): a register write of the SMBus manager is the write of that
register, a read answers and advances the offset, an event leaves the queue, the status byte clears EVT_OVF, and the alert is
answered with the address; before READY and while the core is off these codes are not acknowledged (R382), and neither are bytes
with a bad PEC or count. -/
def Obligations.SmbusAnswers : Prop :=
  ∀ (s : State) (off : BitVec 16) (val : Word) (mf : BitVec 16) (r : Rec) (rest : List (BitVec 16 × Rec)) (op target flags : Byte),
    let c := s.chip
    let nack : Host.Outcome State Fault Refusal := .next (s.onward (c.emit .smbNack))
    let d := if off.toNat = 0x5000 then c else c.spinBreak
    let z : State := { s with chip := d }
    (c.clocked = true → c.boot.ready = true →
      (c.straps.mgrSel = 1 → off.toNat % 4 = 0 →
        (off.toNat < 0x8000 → exec (.smbRegWrite off (.good val)) s = .next (z.put (d.setupSet s.stage .smbus off.toNat val)).settled)
        ∧ (0x8000 ≤ off.toNat → off.toNat < 0xC000 →
          exec (.smbRegWrite off (.good val)) s = .next (z.windowSet (off.toNat - 0x8000) val).settled)
        ∧ (0xC000 ≤ off.toNat → exec (.smbRegWrite off (.good val)) s = .next (s.onward (d.pageSet 0 (off.toNat - 0xC000) val false))))
      ∧ (c.straps.mgrSel ≠ 1 ∨ off.toNat % 4 ≠ 0 → exec (.smbRegWrite off (.good val)) s = .next (s.onward c))
      ∧ (off.toNat % 4 = 0 → exec (.smbRegAddr (.good off)) s = .next (s.onward { c with smb := { c.smb with readOff := off } }))
      ∧ (off.toNat % 4 ≠ 0 → exec (.smbRegAddr (.good off)) s = nack)
      ∧ exec .smbRegRead s = .next (s.onward ({ c with
          smb := { c.smb with readOff := c.smb.readOff + 4 } }.emit (.smb (leBytes 4 (s.setupWord c.smb.readOff.toNat)))))
      ∧ (c.smb.events = [] → exec .smbEvtRead s = .next (s.onward (c.emit (.smb (List.replicate 16 0)))))
      ∧ (c.smb.events = (mf, r) :: rest →
        exec .smbEvtRead s = .next (s.onward ({ c with smb := { c.smb with events := rest } }.emit (.smb (smbEvent mf r)))))
      ∧ exec .smbAlertResponse s = .next (s.onward (c.emit
          (if !c.smb.events.isEmpty || (c.mgr.done && c.mgr.ie) || (c.linkChanged && c.cap.linkIe) then
            .smb [BitVec.ofNat 8 (0x58 + c.straps.smb.toNat)] else .smbNack))))
    ∧ (c.clocked = false ∨ c.boot.ready = false →
      exec .smbRegRead s = nack ∧ exec .smbEvtRead s = nack ∧ exec (.smbRegAddr (.good off)) s = nack
      ∧ exec (.smbRegWrite off (.good val)) s = nack ∧ exec .smbAlertResponse s = nack)
    ∧ exec .smbStatus s = .next (s.onward ({ c with smb := { c.smb with evtOvf := false } }.emit
        (.smb [BitVec.ofNat 8 (flagAt (!c.smb.events.isEmpty) 0 + flagAt c.mgr.done 1 + flagAt c.linkChanged 2 + flagAt c.smb.evtOvf 3)])))
    ∧ exec (.smbRegWrite off .bad) s = nack ∧ exec (.smbRegAddr .bad) s = nack ∧ exec (.smbFlogAck .bad) s = nack
    ∧ exec (.smbFlogSeek .bad) s = nack
    ∧ exec (.smbEscape .bad op target flags) s = .next (s.put (c.emit .smbNack).pump)

/-- The escapes (R245, R382, R426): with a wrong key or without the key written just before, nothing is done but ESC_REFUSED;
FREEZE with the right key is recorded, aborts the manager's command, freezes or thaws its target, and reports ESC_DONE; while the
core is off it is recorded and waits. CHIP_RESET is recorded and resets the core, with no reserved flag set. The fault log, as
SMBus and the manager read it (R409, R413): status, the oldest unread entry, the acknowledgement of no more than are unread, and
the peek slot with its wrap. -/
def Obligations.EscapesAndFaultLog : Prop :=
  (∀ (s : State) (key val : Word) (op target flags : Byte),
    let c := s.chip
    let esc (d : Chip) (done : Bool) : Chip := { d with smb := { d.smb with escDone := done, escRefused := !done, escKeyed := false } }
    let ends (d : Chip) : Host.Outcome State Fault Refusal := .next (s.put d.pump)
    (key ≠ Config.escKey → exec (.smbEscape (.good key) op target flags) s = ends (esc c false))
    ∧ (target = 0xFF ∨ target.toNat ≤ 127 →
      let d := c.log 0x15 0x0A (0x0B + 2 ^ 8 * target.toNat) 1 0 0
      (c.clocked = true → exec (.smbEscape (.good Config.escKey) 0x0B target flags) s
        = ends (esc ((d.mgrAbort).freezeTarget target.toNat (bitAt flags 0)) true))
      ∧ (c.clocked = false → exec (.smbEscape (.good Config.escKey) 0x0B target flags) s
        = ends (esc { d with smb := { d.smb with deferred := some (target, bitAt flags 0) } } true)))
    ∧ (128 ≤ target.toNat → target ≠ 0xFF → exec (.smbEscape (.good Config.escKey) 0x0B target flags) s = ends (esc c false))
    ∧ exec (.smbEscape (.good Config.escKey) 0x0C target 0) s
        = ends ((c.log 0x15 0x0A (0x0C + 2 ^ 8 * target.toNat) 1 0 0).coreReset c.straps)
    ∧ (flags ≠ 0 → exec (.smbEscape (.good Config.escKey) 0x0C target flags) s = ends (esc c false))
    ∧ (op ≠ 0x0B → op ≠ 0x0C → exec (.smbEscape (.good Config.escKey) op target flags) s = ends (esc c false))
    ∧ (c.straps.mgrSel = 1 → exec (.escCmdWrite val) s = ends c)
    ∧ (c.straps.mgrSel ≠ 1 → c.smb.escKeyed = false → exec (.escCmdWrite val) s = ends (esc c false))
    ∧ (c.straps.mgrSel ≠ 1 → c.smb.escKeyed = true → fld val 7 0 = 0x0B → fld val 15 8 ≤ 127 →
      exec (.escCmdWrite val) s = ends (esc (((c.log 0x15 0x0A (0x0B + 2 ^ 8 * fld val 15 8) 2 0 0).mgrAbort).freezeTarget
        (fld val 15 8) (bitAt val 16)) true)))
  ∧ (∀ (s : State) (n : Byte) (w : Writer) (val : Word),
    let c := s.chip
    let acked (d : Chip) (n : Nat) : Chip :=
      { d with rel := { d.rel with oldest := (d.rel.oldest + min n d.rel.unread) % 64, unread := d.rel.unread - min n d.rel.unread } }
    exec .smbFlogStatus s = .next (s.onward (c.emit (.smb (leBytes 4 c.flogSts.toNat))))
    ∧ (c.rel.unread = 0 → exec .smbFlogRead s = .next (s.onward (c.emit (.smb (List.replicate 32 0)))))
    ∧ (c.rel.unread ≠ 0 → exec .smbFlogRead s = .next (s.onward (c.emit (.smb (c.flog c.rel.oldest).bytes))))
    ∧ exec (.smbFlogAck (.good n)) s = .next (s.onward (acked c n.toNat))
    ∧ (c.isMgr w = true → exec (.flogAckWrite w val) s = .next (s.onward (acked c.spinBreak (fld val 6 0))))
    ∧ (c.isMgr w = false → exec (.flogAckWrite w val) s = .next (s.onward c.spinBreak))
    ∧ (n.toNat ≤ 63 → exec (.smbFlogSeek (.good n)) s = .next (s.onward { c with smb := { c.smb with peek := n.toNat } }))
    ∧ (63 < n.toNat → exec (.smbFlogSeek (.good n)) s = .next (s.onward c))
    ∧ exec .smbFlogPeek s = .next (s.onward
        ({ c with smb := { c.smb with peek := (c.smb.peek + 1) % 64 } }.emit (.smb (c.flog c.smb.peek).bytes))))

/-- CH_CMD of a channel that exists, in an ACTIVE instance (R289, R293, R303 to R305): START of an IDLE channel fetches the descriptor at
CH_DESC with HOPS 0; SKIP of a channel halted at a descriptor reports SKIPPED and fetches the next; ABORT of it reports ABORTED and leaves
it IDLE; RESUME of a halt at a fetch fetches again; what the state does not allow only sets CMD_ERR. The status is posted nowhere here:
posting and interrupt are off. What host memory answers to a channel (R294, R297 to R299, R302, R303): a valid descriptor becomes the
current one; a failed or overdue fetch and an invalid descriptor halt the channel; the oldest source read lets its burst be written; a
confirming read confirms what was written. CARRY_SEL captures a physical channel. -/
def Obligations.ChannelsAct : Prop :=
  (∀ (s : State) (i : Fin 128) (j : Fin 256) (val : Word) (d : Desc),
    let n := i.val
    let k := j.val
    let c := if n = 0 then s.chip.spinBreak else s.chip
    let h := (s.chip.inst n).chan k
    let upd (f : Chan → Chan) : Chip := c.updInst n (fun x => { x with chans := Tbl.upd {} x.chans k f })
    (s.chip.inst n).st = .active →
    (s.chip.chanCount n ≤ k → exec (.chStart i j) s = .next (s.onward c))
    ∧ (k < s.chip.chanCount n →
      (h.st = .idle → exec (.chStart i j) s = .next (s.onward ((upd (fun h => { h.rest with
        st := .running, hops := 0, cause := 0, sub := 0, confirmRd := false, fetching := true, fetchAt := h.desc })).emit
          (.hostRead n h.desc 32))))
      ∧ (h.st ≠ .idle → exec (.chStart i j) s = .next (s.onward (upd (fun h => { h with cmdErr := true }))))
      ∧ (h.st ≠ .halted → exec (.chResume i j) s = .next (s.onward (upd (fun h => { h with cmdErr := true })))
        ∧ exec (.chSkip i j) s = .next (s.onward (upd (fun h => { h with cmdErr := true }))))
      ∧ (h.st = .halted → 6 ≤ h.cause.toNat → exec (.chResume i j) s = .next (s.onward ((upd (fun h => { h with
        st := .running, hops := 0, cause := 0, sub := 0, confirmRd := false, bad := false, errCause := 0, begun := h.done
        fetching := true, fetchAt := h.errAddr })).emit (.hostRead n h.errAddr 32))))
      ∧ (h.st = .halted → h.cause.toNat < 6 → h.cur = some d → (s.chip.inst n).stsEn = false → h.ie = false →
        (d.last = false → exec (.chSkip i j) s = .next (s.onward ((upd (fun h => { h with
          seq := h.seq + 1, lastRes := BitVec.ofNat 24 (h.residue d), lastCode := 4, hops := 0, cause := 0, sub := 0
          confirmRd := false, bad := false, errCause := 0, st := .running, fetching := true, fetchAt := d.next })).emit
            (.hostRead n d.next 32))))
        ∧ exec (.chAbort i j) s = .next (s.onward (upd (fun h => { h.rest with
          seq := h.seq + 1, lastRes := BitVec.ofNat 24 (h.residue d), lastCode := 2, desc := h.curAddr }))))
      ∧ (h.st = .idle → exec (.chAbort i j) s = .next (s.onward (upd (fun h => { h with cmdErr := true }))))
      ∧ (fld val 2 0 = 1 → exec (.chCmdRefused i j val) s = exec (.chStart i j) s)
      ∧ (5 ≤ fld val 2 0 → exec (.chCmdRefused i j val) s = .next (s.onward (upd (fun h => { h with cmdErr := true }))))))
  ∧ (∀ (s : State) (i : Fin 128) (j : Fin 256) (raw : List Byte) (d : Desc) (w : Writer) (val : Word) (q : Fin 16),
    let n := i.val
    let k := j.val
    let c := s.chip
    let h := (c.inst n).chan k
    let upd (f : Chan → Chan) : Chip := c.updInst n (fun x => { x with chans := Tbl.upd {} x.chans k f })
    let goes (f : Chan → Chan) (o : List Out) : Host.Outcome State Fault Refusal := .next (s.onward (c.onInst n (fun w =>
      (({ w.updCh k f with out := o ++ w.out } : IW)).chGo n k c.mf)))
    (h.deadFetch = 0 → h.fetching = true →
      ((descOf raw).invalid = 0 →
        exec (.carryDescFetchDone (.loc i j) .ok raw) s = goes (fun h => { h with
          fetching := false, hops := h.hops + 1, cur := some (descOf raw), curAddr := h.fetchAt, desc := h.fetchAt, begun := 0, done := 0
          conf := 0, complete := false, bad := false, errCause := 0 }) [])
      ∧ ((c.inst n).stsEn = false → h.ie = false →
        ((descOf raw).invalid ≠ 0 →
          exec (.carryDescFetchDone (.loc i j) .ok raw) s = .next (s.onward (upd (fun h => { h with
            fetching := false, hops := h.hops + 1, errAddr := h.fetchAt, confirmRd := false, cause := 8, sub := (descOf raw).invalid
            desc := h.fetchAt, seq := h.seq + 1, lastRes := 0, lastCode := 3, st := .halted }))))
        ∧ exec (.carryDescFetchDone (.loc i j) .ur raw) s = .next (s.onward (upd (fun h => { h with
            fetching := false, errAddr := h.fetchAt, confirmRd := false, cause := 7, sub := 1, desc := h.fetchAt, seq := h.seq + 1
            lastRes := 0, lastCode := 3, st := .halted })))
        ∧ exec (.carryFetchTimeout (.loc i j)) s = .next (s.onward (upd (fun h => { h with
            fetching := false, deadFetch := h.deadFetch + 1, errAddr := h.fetchAt, confirmRd := false, cause := 7, sub := 4
            desc := h.fetchAt, seq := h.seq + 1, lastRes := 0, lastCode := 3, st := .halted })))))
    ∧ (0 < h.deadFetch → exec (.carryDescFetchDone (.loc i j) .ok raw) s
        = .next (s.onward (upd (fun h => { h with deadFetch := h.deadFetch - 1 }))))
    ∧ (h.fetching = false → exec (.carryFetchTimeout (.loc i j)) s
        = .next (s.onward (c.onInst n (fun w => w))))
    ∧ (h.cur = some d →
      (h.deadRead = 0 → h.done < h.begun →
        exec (.carryBurstReadDone (.loc i j) .ok) s = goes (fun h => { h with done := h.done + 1 })
          [.hostWrite n (d.dstAt h.done) (d.size (d.nth h.done))])
      ∧ (h.deadConf = 0 → h.confirming = true →
        exec (.carryConfirmDone (.loc i j) .ok) s = goes (fun h => { h with confirming := false, conf := h.done }) []))
    ∧ exec (.carryConfirmDone (.internal q) .ok) s = .next (s.onward { c with internals := Tbl.set {} c.internals q.val {} })
    ∧ (c.isMgr w = true → c.physChans.find? (fun p => p.1 == fld val 7 0) = none →
      exec (.carrySelWrite w val) s = .next (s.onward { c.spinBreak with cap := { c.cap with
        carrySel := toWord (fld val 7 0), carryData := 0x7F } })))

/-- Offers (R330, R331): bringing the offers up to date changes the offers of F0 to F11 alone, so a source keeps its pointer whatever is
withdrawn; an offer that stands is of a source that its Fielder can take; no source is offered to two Fielders if none was before; and a
pending source that a Fielder without an offer can take is offered to some Fielder. -/
def Obligations.OffersFollowTheRules : Prop :=
  ∀ (c : Chip), Tbl.wf ({} : Src) c.srcs = true →
    c.offers = { c with fielders := c.offers.fielders }
    ∧ (∀ f, f < 12 → c.offers.fielder f = { c.fielder f with offer := (c.offers.fielder f).offer })
    ∧ (∀ f, 12 ≤ f → c.offers.fielder f = c.fielder f)
    ∧ (∀ f n, f < 12 → (c.offers.fielder f).offer = some n → c.canTake f (c.src n) = true)
    ∧ ((∀ f g n, f < 12 → g < 12 → (c.fielder f).offer = some n → (c.fielder g).offer = some n → f = g) →
      ∀ f g n, f < 12 → g < 12 → (c.offers.fielder f).offer = some n → (c.offers.fielder g).offer = some n → f = g)
    ∧ (∀ f n x, f < 12 → (n, x) ∈ c.srcs → c.canTake f x = true → (c.offers.fielder f).offer = none →
      ∃ g, g < 12 ∧ (c.offers.fielder g).offer = some n)

/-- Lines and registers of the Whistle (R325 to R329, R336, R337): the pending bit of a level source follows its line while the
source is not in service, and an edge sets that of an edge source; a source without a line has none. The registers are written by
an ACTIVE Fielder: WSRC_CFG, WPEND_SET, WPEND_CLR and the WVEC bank that is the writer's own. The end of a hold-off lets its group
be offered again. A delivery (R332, R334 to R336): the commit clears the pending bit and sets the in-service bit, takes the claim,
moves the pointer, starts the hold-off and enters the vector of the Fielder's bank, and without an offer nothing commits; WDONE of
the claimed source ends the claim and samples a level line; any other WDONE only sets DONE_ERR. -/
def Obligations.WhistleActs : Prop :=
  (∀ (s : State) (f : Fin 12) (n : Fin 512) (k : Fin 16) (g : Fin 32) (val : Word) (level bank : Bool),
    let c := s.chip
    let x := c.src n.val
    let sn := senseOf n.val x
    let edge := (sn = 2 ∧ level = true ∧ x.line = false) ∨ (sn = 3 ∧ level = false ∧ x.line = true) ∨ (4 ≤ sn ∧ level ≠ x.line)
    let lined (p : Bool) : Host.Outcome State Fault Refusal :=
      .next (s.onward (c.updSrc n.val (fun y => { y with line := level, pend := p })).offers)
    (noLine n.val = true → exec (.whistleLineChange n level) s = .next (s.onward c))
    ∧ (noLine n.val = false →
      (sn = 0 → x.serv = false → exec (.whistleLineChange n level) s = lined level)
      ∧ (sn = 1 → x.serv = false → exec (.whistleLineChange n level) s = lined (!level))
      ∧ (sn ≤ 1 → x.serv = true → exec (.whistleLineChange n level) s = lined x.pend)
      ∧ (2 ≤ sn → edge → exec (.whistleLineChange n level) s = lined true)
      ∧ (2 ≤ sn → ¬edge → exec (.whistleLineChange n level) s = lined x.pend))
    ∧ ((c.fielder f.val).st ≠ .active →
      exec (.wsrcCfgWrite f n val) s = .next (s.onward c)
      ∧ exec (.wpendSetWrite f k val) s = .next (s.onward c)
      ∧ exec (.wpendClrWrite f k val) s = .next (s.onward c)
      ∧ exec (.wvecWrite f bank n val) s = .next (s.onward c))
    ∧ ((c.fielder f.val).st = .active →
      exec (.wsrcCfgWrite f n val) s = .next (s.onward (c.updSrc n.val (fun y => { y with
        sense := if noLine n.val = true ∨ 5 ≤ fld val 2 0 then y.sense else BitVec.ofNat 3 (fld val 2 0)
        en := bitAt val 3, prio := BitVec.ofNat 4 (fld val 7 4), group := BitVec.ofNat 5 (fld val 12 8)
        targets := BitVec.ofNat 12 (fld val 27 16) })).offers)
      ∧ (∃ d : Chip, exec (.wpendSetWrite f k val) s = .next (s.onward d.offers)
        ∧ d = { c with srcs := d.srcs }
        ∧ ∀ j, d.src j = if j / 32 = k.val ∧ bitAt val (j % 32) = true then { c.src j with pend := true } else c.src j)
      ∧ (∃ d : Chip, exec (.wpendClrWrite f k val) s = .next (s.onward d.offers)
        ∧ d = { c with srcs := d.srcs }
        ∧ ∀ j, d.src j = if j / 32 = k.val ∧ bitAt val (j % 32) = true then
            { c.src j with pend := isLevel j (c.src j) && ((c.src j).line == (senseOf j (c.src j) == 0)) && !(c.src j).serv }
          else c.src j)
      ∧ (bank ≠ (c.fielder f.val).vbank → exec (.wvecWrite f bank n val) s = .next (s.onward c))
      ∧ (bank = (c.fielder f.val).vbank → exec (.wvecWrite f bank n val) s = .next (s.onward (c.updSrc n.val (fun y =>
          if bank = true then { y with vec1 := val &&& ~~~(1 : Word) } else { y with vec0 := val &&& ~~~(1 : Word) })))))
    ∧ exec (.holdoffExpiry g) s = .next (s.onward (c.updGrp g.val (fun y => { y with remain := 0 })).offers))
  ∧ (∀ (s : State) (f : Fin 12) (next val : Word) (n p : Nat),
    let c := s.chip
    let x := c.fielder f.val
    let y := c.src n
    let wrong := c.updFielder f.val (fun x => { x with doneErr := true })
    (x.offer = none → exec (.whistleDeliveryCommit f next) s = .next (s.onward c))
    ∧ (x.offer = some n → exec (.whistleDeliveryCommit f next) s = .next (s.onward ((((c.wfiWake f.val).updSrc n (fun y => { y with
        pend := false, serv := true, rr := f.val })).updGrp y.group.toNat (fun g => { g with remain := g.holdoff })).updFielder f.val
          (fun x => { x with
            offer := none, claim := some (n, y.prio.toNat), wfi := false, mepc := next &&& ~~~(1 : Word), mcause := 0x8000000B, mtval := 0
            mpie := x.mie, mie := false, pc := if x.vbank = true then y.vec1 else y.vec0 })).offers))
    ∧ (x.claim = none → exec (.wdoneWrite f val) s = .next (s.onward wrong))
    ∧ (x.claim = some (n, p) →
      (fld val 8 0 ≠ n → exec (.wdoneWrite f val) s = .next (s.onward wrong))
      ∧ (fld val 8 0 = n → exec (.wdoneWrite f val) s = .next (s.onward ((c.updSrc n (fun y => { y with
          serv := false, pend := y.pend || (isLevel n y && (y.line == (senseOf n y == 0))) })).updFielder f.val
            (fun x => { x with claim := none })).offers))))

/-- What a Fielder does to itself (R315, R319 to R324, R333): masks and thresholds, traps (a fetch that misses again at the handler is a
fault; EBREAK under TESTMODE with a debugger attached halts the Fielder, R314), WFI and its end, the timer, the watchdog, and the locks. -/
def Obligations.FielderRegistersAct : Prop :=
  ∀ (s : State) (f : Fin 12) (i : Fin 64) (val pc tval : Word) (mie meie : Bool) (cause : BitVec 5) (n k : Nat),
    let c := s.chip
    let x := c.fielder f.val
    let base := x.mtvec &&& ~~~(3 : Word)
    let upd (g : Fielder → Fielder) : Chip := c.updFielder f.val g
    exec (.wthreshWrite f val) s = .next (s.onward (upd (fun x => { x with thresh := BitVec.ofNat 4 (fld val 3 0) })).offers)
    ∧ exec (.mieWrite f mie meie) s = .next (s.onward (upd (fun x => { x with mie := mie, meie := meie })).offers)
    ∧ (x.st = .bench ∨ x.st = .halted ∨ x.st = .retired → exec (.fielderException f cause pc tval) s = .next (s.onward c))
    ∧ (let again := cause = 1 ∧ x.mcause = 1 ∧ x.mepc = base ∧ pc = base
      (x.st = .active → again → exec (.fielderException f cause pc tval) s = exec (.fielderFault f .fetchLoop) s)
      ∧ (x.st = .active → cause = 3 → c.jtag.testMode = true → c.jtag.attached = true →
        exec (.fielderException f cause pc tval) s = .next (s.onward (({ c with jtag := { c.jtag with
          held := f.val :: c.jtag.held.filter (fun g => g != f.val) } } : Chip).updFielder f.val (fun x => { x with pc := pc }))))
      ∧ (x.st = .active → ¬again → (cause ≠ 3 ∨ c.jtag.testMode = false) → exec (.fielderException f cause pc tval) s = .next (s.onward (upd (fun x => { x with
          mepc := pc &&& ~~~(1 : Word), mcause := cause.zeroExtend 32, mtval := tval, mpie := x.mie, mie := false
          pc := base })).offers)))
    ∧ (x.st = .active → exec (.fielderWfi f pc) s = .next (s.onward (upd (fun x => { x with wfi := true, pc := pc }))))
    ∧ (x.st ≠ .active → exec (.fielderWfi f pc) s = .next (s.onward c))
    ∧ (c.wakeSource f.val = none → exec (.wfiWake f) s = .next (s.onward c))
    ∧ (c.wakeSource f.val = some n → x.wfi = true → exec (.wfiWake f) s = .next (s.onward (upd (fun x => { x with
        wfi := false, wake := x.wake ||| 1, lastSrc := BitVec.ofNat 9 n }))))
    ∧ exec (.ftimerWrite f val) s = .next (s.onward (upd (fun x => { x with
        ftimer := BitVec.ofNat 25 val.toNat, ftRun := fld val 23 0 != 0, ftFrom := c.us })))
    ∧ (x.ftRun = true → exec (.ftimerExpiry f) s
        = .next (s.onward ((upd (fun x => { x with ftRun := bitAt x.ftimer 24, ftFrom := c.us })).pend (32 + f.val))))
    ∧ (x.ftRun = false → exec (.ftimerExpiry f) s = .next (s.onward c))
    ∧ (x.st = .active → exec (.fwdogWrite f val) s = .next (s.onward (upd (fun x => { x with
        fwdog := BitVec.ofNat 16 val.toNat, barked := false }))))
    ∧ (x.st = .active → x.fwdog ≠ 0 → x.wfi = false →
      (x.barked = false → exec (.fwdogExpiry f) s = .next (s.onward ((upd (fun x => { x with barked := true })).pend (44 + f.val))))
      ∧ (x.barked = true → exec (.fwdogExpiry f) s = exec (.fielderFault f .watchdog) s))
    ∧ (x.fwdog = 0 → exec (.fwdogExpiry f) s = .next (s.onward c))
    ∧ (x.st = .active → Tbl.get none c.locks i.val = none →
      exec (.flockRead f i) s = .next (s.onward ({ c with locks := Tbl.set none c.locks i.val (some f.val) }.emit (.load f.val 0))))
    ∧ (x.st = .active → Tbl.get none c.locks i.val = some k →
      exec (.flockRead f i) s = .next (s.onward (c.emit (.load f.val (toWord (k + 2 ^ 31))))))
    ∧ (Tbl.get none c.locks (fld val 5 0) = some f.val →
      exec (.flockFreeWrite f val) s = .next (s.onward { c with locks := Tbl.set none c.locks (fld val 5 0) none }))
    ∧ (Tbl.get none c.locks (fld val 5 0) ≠ some f.val → exec (.flockFreeWrite f val) s = .next (s.onward c))

/-- Ready, faults and takeovers (R317 to R319, R338, R339, R404, R406): a fault of an ACTIVE Fielder takes it out of ACTIVE, frees
its locks, clears its watchdog and makes the source it claimed pending again; it is logged, source 452 is set, and the role goes
to the bench or is suspended. The bench that holds the copy is started into the role, and gets its work and targets when it
reports ready; one that is not ready in time goes back to the bench, and the role is suspended. -/
def Obligations.FielderFaultsMoveTheRole : Prop :=
  ∀ (s : State) (f b : Fin 12) (val : Word) (k : FaultKind) (n p : Nat),
    let c := s.chip
    let x := c.fielder f.val
    let y := c.fielder b.val
    let dest := if k = .correctedReg then FSt.test else FSt.halted
    let left (c : Chip) : Chip :=
        (({ c with locks := c.locks.filter (fun l => l.2 != some f.val) } : Chip).updFielder f.val (fun x => { x with
      st := dest, offer := none, wfi := false, fwdog := 0, barked := false, ftRun := false })).offers.updFielder f.val (fun x => { x with
        badIram := x.badIram || faultInIram k })
    let rest (d : Chip) : Host.Outcome State Fault Refusal :=
      let loc := f.val + 2 ^ 8 * x.role.toNat
      let helped := d.freeBench.isSome && d.roleCopy f.val
      let l := d.log (0x21 + f.val) 3 loc x.mepc.toNat (faultCode k) (if helped = true then 8 else 152)
      let m := if helped = true then l else l.log 0x20 0x0B 0x20 0 0 0
      .next (s.onward (((((m.pend 452).abortMail f.val).moveRole f.val).queueCheck (.fielder f.val l.lastLog) l.lastLog)))
    let susp (d : Chip) : Chip :=
      let r := (d.fielder f.val).role
      let e := (d.cancelHeld f.val).updFielder f.val (fun x => { x with suspRole := some r, owed := false })
      { e with rel := { e.rel with suspended := e.rel.suspended ||| BitVec.ofNat 8 (2 ^ r.toNat) } }
    (x.st = .active → x.claim = none → exec (.fielderFault f k) s = rest (left c))
    ∧ (x.st = .active → x.claim = some (n, p) → exec (.fielderFault f k) s
        = rest (left ((c.updSrc n (fun y => { y with serv := false, pend := true })).updFielder f.val (fun x => { x with claim := none }))))
    ∧ (x.st ≠ .active → x.st ≠ .bench → exec (.fielderFault f k) s = .next (s.onward c))
    ∧ (c.fw.phase = .idle → c.boot.fwRunning = true →
      (c.freeBench = none ∨ c.roleCopy f.val = false → c.moveRole f.val = susp c)
      ∧ (c.freeBench = some b.val → c.roleCopy f.val = true → c.moveRole f.val =
        (c.updFielder b.val (fun y => { y with takes := some f.val })).updFielder f.val (fun x => { x with owed := false })))
    ∧ (y.takes = some f.val → y.st = .bench →
      let g := ((c.fieldersIn .active).find? (fun g => (c.fielder g).role == x.role && !(c.fielder g).badIram)).getD f.val
      let d := ({ c with ram := (c.ram.copy (iramBase b.val) c.ram (iramBase g) 65536).replace (dramBase b.val) 65536 [] } : Chip).dozeExit
      exec (.takeoverCopyDone b) s = .next (s.onward { (d.startFielder b.val x.role x.vbank x.newImage).updFielder b.val (fun y => { y with
        takes := some f.val }) with fw := { d.fw with bench := none, visit := d.fw.visit.map (fun g => if g = f.val then b.val else g) } }))
    ∧ (y.takes = none → exec (.takeoverCopyDone b) s = .next (s.onward c))
    ∧ (bitAt val 0 = true → y.st = .active → y.ready = true →
      exec (.freadyWrite b val) s = .next (s.onward (c.updFielder b.val (fun y => { y with ready := true }))))
    ∧ (bitAt val 0 = true → y.st = .active → y.ready = false → c.fw.phase = .idle → f ≠ b → y.takes = some f.val →
      exec (.freadyWrite b val) s = .next (s.onward ((((c.updFielder b.val (fun y => { y with ready := true })).updFielder b.val
        (fun y => { y with takes := none, suspRole := none })).passHeld f.val b.val).moveService f.val b.val)))
    ∧ (bitAt val 0 = false → exec (.freadyWrite b val) s = .next (s.onward c))
    ∧ (x.st = .halted → x.owed = true → (∀ g, g < 12 → g ≠ f.val → (c.fielder g).takes ≠ some f.val) →
      exec (.roleSuspend f) s = .next (s.onward (susp c)))
    ∧ (f ≠ b → y.st = .bench → y.takes = some f.val → (∀ g, g < b.val → g ≠ f.val → (c.fielder g).takes ≠ some f.val) →
      let d := c.log (0x21 + b.val) 4 b.val 2 0 24
      exec (.roleSuspend f) s = .next (s.onward ((susp { d.updFielder b.val (fun y => { y with takes := none, st := .bench }) with
        fw := { d.fw with bench := some b.val } }).queueCheck (.fielder b.val d.lastLog) d.lastLog)))
    ∧ (x.st = .active → (∀ g, g < 12 → g ≠ f.val → (c.fielder g).takes ≠ some f.val) →
      exec (.roleSuspend f) s = .next (s.onward c))

/-- PWR_MODE and DOZE (R372, R375, R242): TARGET, and LIMIT by the manager; with TARGET 1 and LIMIT at least 1, DOZE is entered when every
ACTIVE Fielder waits, and the manager gets POWER at the first entry and when TARGET is next written with 0. A node of a fabric that may
sleep asks its captain (R369). The scrum (R376): it begins with TARGET 2 or 3 when every ACTIVE Fielder waits; phase 1 passes or is
refused as a whole, phase 2 stops block after block up to AP1, and a refusal counts, is recorded, sets TARGET to 0, ends WFI with UNWIND,
sends TAP from a node of a fabric (R369) and sets source 417; a busy port whose condition is an enabled wake wakes the chip instead. -/
def Obligations.DozeAndScrums : Prop :=
  (∀ (s : State) (w : Writer) (val : Word),
    let c := s.chip
    let told (t : BitVec 2) : Pwr := { c.pwr with
      target := t
      limit := match w with
        | .fielder _ => c.pwr.limit
        | _ => BitVec.ofNat 2 (fld val 5 4)
      dozeTold := false }
    (c.isMgr w = false → exec (.pwrModeWrite w val) s = .next (s.onward c.spinBreak))
    ∧ (c.isMgr w = true →
      (c.pwr.dozeDue = false ∨ fld val 1 0 ≠ 0 →
        exec (.pwrModeWrite w val) s
          = .next (s.onward ({ c.spinBreak with pwr := told (BitVec.ofNat 2 (fld val 1 0)) } : Chip).askSleep))
      ∧ (c.pwr.dozeDue = true → fld val 1 0 = 0 →
        exec (.pwrModeWrite w val) s
          = .next (s.onward (({ c.spinBreak with
              pwr := { told 0 with dozeDue := false } } : Chip).mgrEvent evPower noSubject 0 0).askSleep)))
    ∧ (c.pwr.st = .run → c.pwr.target = 1 → c.pwr.limit ≠ 0 → c.allWfi = true →
      let d : Chip := { c with pwr := { c.pwr with st := .doze, dozeTold := true, dozeDue := true } }
      (c.pwr.dozeTold = true → exec .dozeEntry s = .next (s.onward d))
      ∧ (c.pwr.dozeTold = false → exec .dozeEntry s = .next (s.onward (d.mgrEvent evPower noSubject 1 0))))
    ∧ (c.pwr.st ≠ .run ∨ c.pwr.target ≠ 1 ∨ c.pwr.limit = 0 ∨ c.allWfi = false → exec .dozeEntry s = .next (s.onward c)))
  ∧ (∀ (s : State) (n b : Nat) (e : WakeEvent),
    let c := s.chip
    let sts (st : PwrSt) : Chip := { c with pwr := { c.pwr with st := st } }
    let refused (phase step : Nat) (r1 r2 : BitVec 16) : Host.Outcome State Fault Refusal :=
      .next (s.onward ((({ c with
        spin := c.spin.spend phase
        pwr := { c.pwr with
          refuse1 := r1, refuse2 := r2, refBlock := BitVec.ofNat 6 b, refPhase := BitVec.ofNat 2 phase, refTarget := c.pwr.goal
          refStep := BitVec.ofNat 4 step, st := .run, target := 0, wakeDue := false } } : Chip).wakeAll 8).wakeCharging.huddleDue.abandonTap.pend 417))
    let stays (b : Nat) : Prop := (b ≠ 0x1B ∧ b ≠ 0x1C) ∨ c.portsWake = none
    let wakes (b : Nat) (e : WakeEvent) : Prop := (b = 0x1B ∨ b = 0x1C) ∧ c.portsWake = some e
    (c.pwr.st = .run ∨ c.pwr.st = .doze → 2 ≤ c.pwr.target → c.allWfi = true →
      exec .scrumStart s = .next (s.onward ({ c with pwr := { c.pwr with
        st := .phase1, goal := c.pwr.target, lastAp := 0, unwound := false, wakeDue := false } } : Chip).sleepCharging))
    ∧ (c.pwr.target < 2 ∨ c.allWfi = false → exec .scrumStart s = .next (s.onward c))
    ∧ (c.pwr.st = .phase1 →
      (c.refusal1 = none → exec .scrumPhase1Done s = .next (s.onward (sts (.phase2 0))))
      ∧ (c.refusal1 = some b → stays b → exec .scrumPhase1Done s = refused 1 0 (c.pwr.refuse1 + 1) c.pwr.refuse2)
      ∧ (c.refusal1 = some b → wakes b e → exec .scrumPhase1Done s = .next (s.onward (c.wake e))))
    ∧ (c.pwr.st ≠ .phase1 → exec .scrumPhase1Done s = .next (s.onward c))
    ∧ (c.pwr.st = .phase2 n →
      (c.refusal2 (n + 1) = none → n ≠ 12 → exec .scrumStopStep s = .next (s.onward (sts (.phase2 (n + 1)))))
      ∧ (c.refusal2 (n + 1) = none → n = 12 → c.pwr.wakeDue = false →
        exec .scrumStopStep s = .next (s.onward { c with pwr := { c.pwr with st := .ap1, lastAp := 1 } }))
      ∧ (c.refusal2 (n + 1) = some b → wakes b e → exec .scrumStopStep s = .next (s.onward (c.wake e)))
      ∧ (c.refusal2 (n + 1) = some b → stays b → exec .scrumStopStep s = refused 2 (n + 1) c.pwr.refuse1 (c.pwr.refuse2 + 1)))
    ∧ (c.pwr.st = .run → exec .scrumStopStep s = .next (s.onward c)))

/-- A scrum names the refuser (R376): it passes phase 1 exactly where no block refuses, and otherwise the block it names refuses, and no
refusing block has a lower ID. -/
def Obligations.ScrumNamesTheLowestBlock : Prop :=
  ∀ (c : Chip),
    let all := (c.spin.forced 1).toList ++ c.refusing c.pwr.goal
    (c.refusal1 = none ↔ all = [])
    ∧ (∀ b, c.refusal1 = some b → b ∈ all ∧ ∀ x ∈ all, b ≤ x)
    ∧ (∀ k b, c.refusal2 k = some b → stopStep b = k)

/-- Entry and exit (R377 to R379, R381, R383 to R389): the abort points follow each other and a wake that waits unwinds the entry
at the next; at AP4 the pads are held and the fabric's ports go ASLEEP; the entry completes with VID 0; a wake in RETAIN is
recorded and begins the exit, whose first step ends with VRDY; without VRDY in time only the fault log says so; PAD_RELEASE lets
the pads go. -/
def Obligations.EntryAndExitSteps : Prop :=
  ∀ (s : State) (e : WakeEvent) (t val : Word) (w : Writer),
    let c := s.chip
    let ap (st : PwrSt) (k : BitVec 3) : Host.Outcome State Fault Refusal :=
      .next (s.onward { c with pwr := { c.pwr with st := st, lastAp := k } })
    let unwound (k : BitVec 3) : Host.Outcome State Fault Refusal :=
      .next (s.onward (((({ c with pwr := { c.pwr with
        lastAp := k, unwound := true, wakeSrc := false, st := .run, target := 0, wakeDue := false } } : Chip).wakeAll
          8).wakeCharging.fabWake true).pend 464))
    (c.pwr.wakeDue = false →
      (c.pwr.st = .ap1 → exec .fielderStateSaved s = ap .ap2 2)
      ∧ (c.pwr.st = .ap2 → exec .sramRetentionDone s = ap .ap3 3)
      ∧ (c.pwr.st = .ap3 → exec .clockStopDone s = .next (s.onward { c with
        pwr := { c.pwr with st := .ap4, lastAp := 4, held := true, ppeHeld := c.ppeHigh24, dcpHeld := c.dcpShorts }
        fab := { c.fab with ports := Tbl.mapv {} c.fab.ports (fun _ p => if p.st = 3 then { p with st := 5 } else p) } }))
      ∧ (c.pwr.st = .ap4 → c.pwr.goal ≠ 3 → exec .powerEntryComplete s = .next (s.put ({ c with pwr := { c.pwr with
        st := .retain, lastAp := 5, entries := c.pwr.entries + 1, vOld := c.pwr.vid, vid := 0 } } : Chip).pump))
      ∧ (c.pwr.st = .ap4 → c.pwr.goal = 3 → ∃ u, exec .powerEntryComplete s = .next u ∧ u.chip.pwr.st = .dormant ∧ u.chip.pwr.lastAp = 5
        ∧ u.chip.pwr.entries = c.pwr.entries + 1 ∧ u.chip.pwr.vid = 0 ∧ u.chip.hold.wakeOut = false ∧ u.chip.coreCleared ∧ u.stage = []))
    ∧ (c.pwr.wakeDue = true →
      (c.pwr.st = .ap1 → exec .fielderStateSaved s = unwound 2) ∧ (c.pwr.st = .ap2 → exec .sramRetentionDone s = unwound 3))
    ∧ (c.pwr.st = .run → exec .fielderStateSaved s = .next (s.onward c) ∧ exec .sramRetentionDone s = .next (s.onward c)
      ∧ exec .clockStopDone s = .next (s.onward c) ∧ exec .powerEntryComplete s = .next (s.put c.pump))
    ∧ (c.pwr.st = .retain → c.pwr.goal = 2 → c.pwr.wakeDue = false → bitAt c.pwr.wakeEn 5 = true → c.link0.pm = .l2 → c.link1.pm = .down →
      exec (.wakeSource .ufpResume t) s = .next (s.onward ({ c with
        pwr := { c.pwr with
          slTime := t, wkBlock := 8, wkFrom := 2, wkDetail := 1, wkAp := c.pwr.lastAp, wakeTime := t, wakeSrc := true, st := .exiting 1
          wakeDue := false, vrdySeen := false, vid := c.pwr.vOld }
        hold := { c.hold with wakeOut := true } }.emit (.pewake 0))))
    ∧ (({ c.pwr with slTime := t } : Pwr).wakeOn e = false → (∀ n h, e ≠ .gpio n h) →
      exec (.wakeSource e t) s = .next (s.onward { c with pwr := { c.pwr with slTime := t } }))
    ∧ (c.pwr.slTimer = 0 → exec .slTimerExpiry s = .next (s.onward c))
    ∧ (c.pwr.slTimer ≠ 0 → c.clocked = true → bitAt c.pwr.wakeEn 8 = false →
      exec .slTimerExpiry s = .next (s.onward ({ c with pwr := { c.pwr with slTimer := 0 } }.pend 469)))
    ∧ (c.pwr.slTimer ≠ 0 → c.clocked = false → bitAt c.pwr.wakeEn 8 = false →
      exec .slTimerExpiry s = .next (s.onward { c with pwr := { c.pwr with slTimer := 0, slDue := true } }))
    ∧ (c.pwr.st = .exiting 1 →
      (c.pwr.goal ≠ 3 ∨ c.hold.pwrgd = true →
        exec .vrdyRise s = .next (s.onward { c with pwr := { c.pwr with st := .exiting 2, vrdySeen := true } }))
      ∧ (c.pwr.goal = 3 → c.hold.pwrgd = false →
        exec .vrdyRise s = .next (s.onward { c with pwr := { c.pwr with vrdySeen := true } }))
      ∧ (c.pwr.vrdySeen = false → exec .vrdyWaitTimeout s = .next (s.onward (c.log 0x17 0x07 0 c.pwr.vid.toNat 1 0)))
      ∧ (c.pwr.vrdySeen = true → exec .vrdyWaitTimeout s = .next (s.onward c)))
    ∧ (c.isMgr w = true → bitAt val 0 = true → c.pwr.held = true →
      exec (.padRelease w val) s = .next (s.onward { c.spinBreak with pwr := { c.pwr with held := false, ppeHeld := 0, dcpHeld := 0 } }))
    ∧ (c.isMgr w = false ∨ bitAt val 0 = false ∨ c.pwr.held = false → exec (.padRelease w val) s = .next (s.onward c.spinBreak))

/-- DVFS and heat (R390 to R395): a target above the voltage in force raises VID first and switches CLK_ENG after the settling
time, one below switches CLK_ENG first; each completed step counts and sets source 420; a sample that passes HIGH or WARN sets
source 421 or 423; above HIGH the throttle moves one level down and reports POWER, below LOW one level up; the second sample in a
row at 135 °C or more trips the chip. -/
def Obligations.VoltageAndHeatAct : Prop :=
  ∀ (s : State) (w : Writer) (val : Word) (temp : Int),
    let c := s.chip
    let p := c.pwr
    let q : Pwr := { p with freq := BitVec.ofNat 2 (fld val 1 0), vmin := BitVec.ofNat 2 (fld val 5 4) }
    let d (x : Pwr) : Chip := { c with pwr := x }
    let b (x : Pwr) : Chip := { c.spinBreak with pwr := x }
    let up (t : Byte) (k : Nat) (e : Chip) : Chip := if p.temp ≤ t.toNat ∧ t.toNat < temp then e.pend k else e
    let bits := toWord (flagAt (p.st == .doze) 0 + 2 ^ 4)
    (c.isMgr w = false → exec (.dvfsCtlWrite w val) s = .next (s.onward c.spinBreak))
    ∧ (c.isMgr w = true →
      (p.dvfs ≠ .idle → exec (.dvfsCtlWrite w val) s = .next (s.onward (b { q with pending := true })))
      ∧ (p.dvfs = .idle → p.vid.toNat < q.wantVid →
        exec (.dvfsCtlWrite w val) s = .next
            (s.onward (b { q with vid := BitVec.ofNat 4 q.wantVid, dvfs := .raise, stepFreq := q.wantFreq })))
      ∧ (p.dvfs = .idle → q.wantVid < p.vid.toNat →
        exec (.dvfsCtlWrite w val) s = .next
            (s.onward (b { q with freqNow := q.wantFreq, vid := BitVec.ofNat 4 q.wantVid, dvfs := .lower })))
      ∧ (p.dvfs = .idle → q.wantVid = p.vid.toNat → p.freqNow = q.wantFreq →
        exec (.dvfsCtlWrite w val) s = .next (s.onward (b { q with pending := false }))))
    ∧ ((∀ n, p.st ≠ .exiting n) → (p.dvfs = .raise → exec .vrdyRise s = .next (s.onward (d { p with dvfs := .settle })))
      ∧ (p.dvfs = .lower → exec .vrdyRise s
        = .next (s.onward ((d { p with dvfs := .idle, steps := p.steps + 1, pending := false }).pend 420).dvfsStep)))
    ∧ (p.dvfs = .settle → exec .dvfsSettleEnd s = .next (s.onward ((d { p with
        freqNow := p.stepFreq, dvfs := .idle, steps := p.steps + 1, pending := false }).pend 420).dvfsStep))
    ∧ (p.dvfs ≠ .settle → exec .dvfsSettleEnd s = .next (s.onward c))
    ∧ (p.dvfs = .raise ∨ p.dvfs = .lower → exec .dvfsVrdyTimeout s
        = .next (s.onward ((d { p with vrdyTo := true }).log 0x17 0x07 0 p.vid.toNat 2 0)))
    ∧ (p.dvfs = .idle → exec .dvfsVrdyTimeout s = .next (s.onward c))
    ∧ (temp < 135 ∨ p.hotRuns = 0 → c.clocked = true → exec (.thermalSample temp) s = .next (s.put (up p.warn 423 (up p.high 421 (d { p with
        temp := temp, hotRuns := if 135 ≤ temp then p.hotRuns + 1 else 0, relaxed := p.relaxed && decide (temp < p.low.toNat) }))).pump))
    ∧ (135 ≤ temp → 1 ≤ p.hotRuns → c.hold.trip = false → ∃ u, exec (.thermalSample temp) s = .next u
        ∧ u.chip.hold.trip = true ∧ u.chip.hold.wakeOut = false ∧ u.chip.pwr.tripped = true ∧ u.chip.pwr.held = true ∧ u.chip.pwr.vid = 0
        ∧ u.chip.coreCleared ∧ u.stage = [])
    ∧ (p.high.toNat < p.temp → p.cap ≠ 3 →
      exec .throttleStep s = .next (s.onward (((d { p with cap := p.cap + 1 }).mgrEvent evPower noSubject bits 0).dvfsStep)))
    ∧ (p.temp < p.low.toNat → p.low.toNat ≤ p.high.toNat → p.cap ≠ 0 →
      let x := d { p with cap := p.cap - 1, relaxed := true }
      let y := if p.relaxed = true then x else x.pend 422
      let z := if p.cap = 1 then y.mgrEvent evPower noSubject (toWord (flagAt (p.st == .doze) 0 + 2 ^ 5)) 0 else y
      exec .throttleStep s = .next (s.onward z.dvfsStep))
    ∧ (p.low.toNat ≤ p.temp → p.temp ≤ p.high.toNat → exec .throttleStep s = .next (s.onward c))

/-- Fabric ports come up, and link-control frames act (R343, R345 to R347, R356): signal starts training on an enabled port; lock
on a lane ends it with LINK_INIT and source +0, and a timeout takes the port DOWN; a link-control frame counts only in UP, MEMBER
and EXCLUDED, a bad one adds to CRC, a good one returns its credits; ACK takes frames off the unacknowledged, SYNC carries the
captain's time, SYNC_ECHO the delay. Replay and the loss of a link (R346, R347, R362): a port with nothing unacknowledged replays
nothing; up to eight replays in a row begin with the oldest unacknowledged frame, and the next is a loss; a loss takes the port
DOWN with its counters, credits and queue reset, counts it and sets the source of its cause. Here for a node that is in no fabric.
-/
def Obligations.FabricLinks : Prop :=
  (∀ (s : State) (p : Fin 2) (lanes n : Nat) (h : LinkHdr) (seq off : BitVec 12) (mf trim delay : BitVec 16),
    let c := s.chip
    let q := c.fabPort p.val
    let upd (c : Chip) (f : FabPort → FabPort) : Chip := c.updFab p.val f
    let w := min lanes (2 - c.fabLanesDown p.val)
    let heard := upd c (fun q => { q with credits := crAdd q.credits h.credits })
    let frames : List Instr := [.linkInit p h, .hello p h, .ack p seq h, .nak p seq h, .sync p mf off trim h, .syncEcho p delay h]
    (q.st = 0 → c.fabPortOn p.val = true →
      exec (.fabSignalDetect p) s = .next (s.onward (upd c (fun q => { q with st := 1 })))
      ∧ exec (.fabTrainingRestart p) s = .next (s.onward (upd c (fun q => { q with st := 1 }))))
    ∧ (q.st ≠ 0 ∨ c.fabPortOn p.val = false →
      exec (.fabSignalDetect p) s = .next (s.onward c) ∧ exec (.fabTrainingRestart p) s = .next (s.onward c))
    ∧ (q.st = 1 → 1 ≤ w → exec (.fabLockHeld p lanes) s = .next (s.onward (((upd c (fun q => { q with
        st := 2, lanes := w, peer := none, peerUid := 0, peerCaptain := 0, txSeq := 0, rxSeq := 0, unacked := 0, tries := 0
        nakSent := false, credits := (16, 44, 4), owed := (0, 0, 0), withheld := (0, 0, 0), queue := [] })).linkSend p.val 0
          c.linkInfo).pend (392 + 8 * p.val))))
    ∧ (q.st ≠ 1 → exec (.fabLockHeld p lanes) s = .next (s.onward c))
    ∧ (q.st = 1 → exec (.fabTrainingTimeout p) s = .next (s.onward (upd c (fun q => { q with st := 0, lanes := 0 }))))
    ∧ (q.st ≠ 1 → exec (.fabTrainingTimeout p) s = .next (s.onward c))
    ∧ (q.st < 2 ∨ 4 < q.st → (∀ i ∈ frames, exec i s = .next (s.onward c)) ∧ exec (.helloTxTimer p) s = .next (s.onward c)
      ∧ exec (.ackTxTimer p) s = .next (s.onward c))
    ∧ (2 ≤ q.st → q.st ≤ 4 →
      (h.good = false → ∀ i ∈ frames, exec i s = .next (s.onward (upd c (fun q => { q with crc := q.crc + 1 }))))
      ∧ exec (.helloTxTimer p) s = .next (s.onward (c.linkSend p.val 1 c.linkInfo))
      ∧ exec (.ackTxTimer p) s = .next (s.onward (c.linkSend p.val 2 (q.rxSeq - 1).toNat))
      ∧ (h.good = true →
        exec (.hello p h) s = exec (.linkInit p h) s
        ∧ (q.st = 3 → q.peerUid = h.uid → q.peer = h.node → q.peerCaptain = h.captain →
          exec (.linkInit p h) s = .next (s.onward ((upd heard (fun q => { q with
            peer := h.node, peerUid := h.uid, peerCaptain := h.captain })).drainFab p.val 64)))
        ∧ (n = (seq + 1 - (q.txSeq - BitVec.ofNat 12 q.unacked)).toNat → 1 ≤ n → n ≤ q.unacked →
          exec (.ack p seq h) s
            = .next (s.onward (((upd heard (fun q =>
                { q with unacked := q.unacked - n, tries := 0 })).drainFab p.val 64).drainFab p.val 64)))
        ∧ exec (.nak p seq h) s = .next (s.onward (((heard.acked p.val (seq - 1)).replayFab p.val).drainFab p.val 64))
        ∧ exec (.syncEcho p delay h) s = .next (s.onward ((upd heard (fun q => { q with delay := delay })).drainFab p.val 64))
        ∧ (c.fab.valid = true → c.fab.role ≠ 2 → q.st = 3 → (c.fabPort (1 - p.val)).st ≠ 3 →
          exec (.sync p mf off trim h) s = .next (s.onward (({ heard with
            mf := if c.fab.locked = true then c.mf else mf
            fab := { heard.fab with offset := off, trim := trim, locked := true } } : Chip).drainFab p.val 64)))
        ∧ (c.fab.valid = false ∨ c.fab.role = 2 ∨ q.st ≠ 3 →
          exec (.sync p mf off trim h) s = .next (s.onward (heard.drainFab p.val 64))))))
  ∧ (∀ (s : State) (p : Fin 2),
    let c := s.chip
    let q := c.fabPort p.val
    let lost (cause : Nat) : Host.Outcome State Fault Refusal :=
      let d := (c.updFab p.val (fun q => { q with
        st := 0, lanes := 0, peer := none, peerUid := 0, peerCaptain := 0, downs := q.downs + 1, unacked := 0, tries := 0, nakSent := false
        owed := (0, 0, 0), withheld := (0, 0, 0), queue := [], credits := (16, 44, 4) })).pend (392 + 8 * p.val + cause)
      let e := d.setInfo Config.uid d.ownInfo
      .next (s.onward (e.setInfo Config.uid e.ownInfo).memberCount)
    (q.unacked = 0 ∨ q.st < 2 ∨ 4 < q.st → exec (.fabReplayTimeout p) s = .next (s.onward c))
    ∧ (0 < q.unacked → 2 ≤ q.st → q.st ≤ 4 → q.tries < 8 →
      exec (.fabReplayTimeout p) s = .next (s.onward ((c.updFab p.val (fun q => { q with
        replays := q.replays + 1, tries := q.tries + 1 })).emit (.replay p.val (q.txSeq - BitVec.ofNat 12 q.unacked)))))
    ∧ (q.st = 0 ∨ q.st = 5 → exec (.fabSignalLoss p) s = .next (s.onward c))
    ∧ (q.st < 2 → exec (.helloLossTimeout p) s = .next (s.onward c))
    ∧ (c.fab.valid = false → c.fab.role ≠ 2 → c.fab.routes = [] → c.peps = [] → (c.fabPort (1 - p.val)).st < 2 →
      (1 ≤ q.st → q.st ≤ 4 → exec (.fabSignalLoss p) s = lost 1)
      ∧ (2 ≤ q.st → q.st ≤ 4 → exec (.helloLossTimeout p) s = lost 6)
      ∧ (0 < q.unacked → 2 ≤ q.st → q.st ≤ 4 → 8 ≤ q.tries → exec (.fabReplayTimeout p) s = lost 3)))

/-- Routed frames (R344 to R347, R352, R361): a port in MEMBER accepts a good frame whose SEQ is the one expected, and PROTOCOL
passes in UP as well; it acts where the frame is this node's own, forwards it by the route table where it is another's, and drops
and counts it where no port leads to that node; its credit is owed. A bad frame adds to CRC; the first bad or unexpected one asks
for a replay, and the others are discarded. What far frames do (R282, R344, R357 to R359): what does not fit the endpoint's node,
instance and EPOCH is discarded; OUT bytes are added to their TD; an acknowledgement frees the oldest kept frame and its cells; a
REPLY that nothing waits for does nothing, and one to the manager ends its command; IN data and RESULTs are acknowledged even
where they are discarded; a port released is no longer the instance's. -/
def Obligations.RoutedFramesAct : Prop :=
  (∀ (s : State) (p : Fin 2) (h : FrameHdr) (raw data : List Byte) (off moved elem : Nat) (code : Byte) (mf : Option (BitVec 16))
    (k : FarCmd) (tag : BitVec 16) (par : BitVec 192) (result : BitVec 24) (e : FarEvent) (space2 : BitVec 64) (m : ProtoMsg),
    let c := s.chip
    let q := c.fabPort p.val
    let seen := c.updFab p.val (fun q => { q with rxSeq := q.rxSeq + 1, nakSent := false })
    let fits := h.good = true ∧ h.tc ≠ 3 ∧ h.len ≤ 2048
    let refused (i : Instr) : Prop :=
      (q.st < 2 → exec i s = .next (s.onward c))
      ∧ (q.st = 3 → ¬fits → q.nakSent = false →
        exec i s = .next (s.onward (((c.updFab p.val (fun q => { q with crc := q.crc + 1 })).updFab p.val (fun q => { q with
          nakSent := true })).linkSend p.val 3 q.rxSeq.toNat)))
      ∧ (q.st = 3 → ¬fits → q.nakSent = true →
        exec i s = .next (s.onward (c.updFab p.val (fun q => { q with crc := q.crc + 1 }))))
      ∧ (q.st = 3 → fits → h.seq ≠ q.rxSeq → q.nakSent = false →
        exec i s = .next (s.onward ((c.updFab p.val (fun q => { q with nakSent := true })).linkSend p.val 3 q.rxSeq.toNat)))
      ∧ (q.st = 3 → fits → h.seq ≠ q.rxSeq → q.nakSent = true → exec i s = .next (s.onward c))
    let routed (i : Instr) (kind val : Nat) (act : Chip → Chip) : Prop :=
      refused i ∧ (q.st = 3 → fits → h.seq = q.rxSeq → h.ack = none →
        (h.dst.toNat = c.nodeNo → exec i s = .next (s.onward ((act seen).oweCredit p.val h.tc.toNat)))
        ∧ (h.dst.toNat ≠ c.nodeNo → c.portTo h.dst.toNat = 2 - p.val →
          exec i s = .next (s.onward ((seen.sendFab (1 - p.val) (h.tc.toNat, h.dst.toNat, kind, val)).oweCredit p.val h.tc.toNat)))
        ∧ (h.dst.toNat ≠ c.nodeNo → c.portTo h.dst.toNat = 0 →
          exec i s = .next (s.onward
              (({ seen with fab := { seen.fab with dropped := c.fab.dropped + 1 } } : Chip).oweCredit p.val h.tc.toNat))))
    routed (.element p h raw) 0x00 (leNat raw) (fun c => c.farElement h raw)
    ∧ routed (.dataOut p h) 0x01 h.len (fun c => c.farDataOut h)
    ∧ routed (.dataIn p h off) 0x02 off (fun c => c.farDataIn h off)
    ∧ routed (.result p h code moved elem mf) 0x03 code.toNat (fun c => c.farResult h code moved elem mf)
    ∧ routed (.command p h k tag par) 0x04 tag.toNat (fun c => c.farCommand h k tag par)
    ∧ routed (.reply p h tag code result data) 0x05 tag.toNat (fun c => c.farReply h.src.toNat tag.toNat code result.toNat data)
    ∧ routed (.event p h e) 0x06 h.inst.toNat (fun c => c.farEvent h.inst.toNat e)
    ∧ routed (.carry p h space2) 0x07 space2.toNat (fun c => c)
    ∧ routed (.e2eAck p h) 0x09 h.tdid.toNat (fun c => c.farAcked h)
    ∧ refused (.protocol p h m)
    ∧ (q.st = 2 ∨ q.st = 3 → fits → h.seq = q.rxSeq → h.ack = none →
      exec (.protocol p h m) s = .next (s.onward ((seen.protocol p.val m).oweCredit p.val h.tc.toNat))))
  ∧ (∀ (c : Chip) (h : FrameHdr) (raw data : List Byte) (off moved elem n : Nat)
      (code : Byte) (mf : Option (BitVec 16)) (src tag result : Nat)
    (sub : BitVec 16), let m := (c.ep (homeKey h)).kept.headD 0
    (c.farFits h = false → c.farElement h raw = c ∧ c.farDataOut h = c)
    ∧ (c.farFits h = true → (c.ep (homeKey h)).rings = [n] →
      c.farDataOut h = (c.updRing (farSender h) n (fun r => { r with
        ids := r.ids.map (fun i => if i.1 = h.tdid.toNat then (i.1, i.2 + h.len) else i) })).stir (homeKey h))
    ∧ (let b := c.slotBus (keySlot (homeKey h))
      let per := (c.ep (homeKey h)).ty = .isoch ∨ (c.ep (homeKey h)).ty = .interrupt
      c.farAcked h = ((c.updBus b (fun x => if per then { x with pcells := x.pcells - m } else { x with cells := x.cells - m })).updEp
        (homeKey h) (fun e => { e with cells := e.cells - m, kept := e.kept.drop 1 })).kick b)
    ∧ (c.hostFits h = false → c.farDataIn h off = c.e2eAck h ∧ c.farResult h code moved elem mf = c.e2eAck h)
    ∧ (Tbl.get (0, 0) c.fab.proxies (tag + 65536 * src) = (0, 0) → c.farReply src tag code result data
        = { c with fab := { c.fab with proxies := c.fab.proxies.filter (fun x => x.1 != tag + 65536 * src) } })
    ∧ (Tbl.get (0, 0) c.fab.proxies (tag + 65536 * src) = (128, n) → c.farReply src tag code result data
        = ({ c with fab := { c.fab with proxies := c.fab.proxies.filter (fun x => x.1 != tag + 65536 * src) } }).mgrDone n code result)
    ∧ c.farEvent n (.released sub)
        = c.updInst n (fun x => { x with portViews := Tbl.upd 0 x.portViews sub.toNat (fun _ => 0) }))

/-- The captain numbers nodes distinctly (R351): where the numbers kept are distinct, so are those of the distribution it
prepares, and every node kept keeps its own. -/
def Obligations.NumbersAreDistinct : Prop :=
  ∀ (c : Chip) (self captain : BitVec 4) (uid : BitVec 64) (all : List (BitVec 4 × BitVec 64))
    (routes : List (BitVec 4 × BitVec 2 × BitVec 4 × BitVec 2 × BitVec 4)) (topo tick : BitVec 16),
    let own : BitVec 4 := if c.fab.valid = true then c.fab.node else 0
    let reach := (c.setInfo Config.uid c.ownInfo).outward 0 ++ (c.setInfo Config.uid c.ownInfo).outward 1
    let kept := (own, Config.uid) :: c.fab.members.filter (fun m => m.2 != Config.uid && reach.contains m.2)
    (kept.map (fun m => m.1)).Nodup →
    c.plan.fab.install = some (.install self captain uid all routes topo tick) →
    (all.map (fun m => m.1)).Nodup ∧ (∀ m ∈ kept, m ∈ all) ∧ uid = Config.uid ∧ topo = c.fab.topo + 1

/-- Election, installation and sleep (R350, R366, R368, R369): the candidate that is the node itself declares and numbers the nodes; a
distribution is installed, here by a node alone; a grant of sleep ends; TAP in RUN or DOZE is a status, and otherwise a wake. -/
def Obligations.ElectionAndSleep : Prop :=
  ∀ (s : State) (p : Fin 2) (t : Word) (node captain : BitVec 4) (uid : BitVec 64) (members : List (BitVec 4 × BitVec 64))
    (routes : List (BitVec 4 × BitVec 2 × BitVec 4 × BitVec 2 × BitVec 4)) (topo tick : BitVec 16),
    let c := s.chip
    let may := c.fabOn = true ∧ c.fab.forming = true ∧ c.fab.candidate = Config.uid ∧ c.fab.role ≠ 2 ∧ c.fab.install = none
    (may → exec .captainDeclare s = .next (s.onward ({ c with fab := { c.fab with role := 2, captainUid := Config.uid } } : Chip).plan))
    ∧ (¬may → exec .captainDeclare s = .next (s.onward c))
    ∧ (c.fab.install = none → exec .topoInstall s = .next (s.onward c))
    ∧ (c.fab.install = some (.install node captain uid members routes topo tick) →
      exec .topoInstall s = .next (s.onward (c.installTopo node captain uid members routes topo))
      ∧ (uid = Config.uid → members = [(node, Config.uid)] → routes = [] → c.fab.valid = false → c.fab.members = [] → c.slots = [] →
        c.peps = [] → c.fab.ports = [] →
        let d : Chip := { c with fab := { c.fab with
          node := node, valid := true, captain := captain, captainUid := uid, members := members, routes := routeTbl node members []
          topo := topo, forming := false, install := none, role := 0, count := 1 } }
        exec .topoInstall s = .next (s.onward (d.setInfo Config.uid d.ownInfo))))
    ∧ exec .sleepGrantLapse s = .next (s.onward { c with fab := { c.fab with sleepGrant := false, asking := false } })
    ∧ (c.pwr.st = .run ∨ c.pwr.st = .doze → exec (.tapSeen p t) s
        = .next (s.onward ((c.updFab p.val (fun q => { q with tapSeen := true })).pend (392 + 8 * p.val + 5))))
    ∧ (c.pwr.st ≠ .run → c.pwr.st ≠ .doze → exec (.tapSeen p t) s = exec (.wakeSource (.tap p) t) s)

/-- Replay checks (R400 to R403, R409): the first queued check whose part is free starts, an SRAM check with a free spare row and
a Fielder's in TEST; the end of a check sets REPLAY_STS and source 449; a LASTING row takes the spare, and a LASTING Fielder is
retired; a row that SPIN_ECC makes fail is LASTING (R420); a check that does not run has no end. Where OTP_COMMIT is set, a repair that no injection led to is due for OTP, which
keeps what is due while it has entries left. -/
def Obligations.ChecksStartAndEnd : Prop :=
  ∀ (s : State) (b : Fin 16) (f : Fin 12) (r : CheckEnd) (bits us : BitVec 16) (row word slot k : Nat) (second : Bool)
    (t : List (CheckJob × Bool)) (due : List (Nat × OtpItem)) (rep : Repair) (fi : Nat),
    let c := s.chip
    let x := c.bank b.val
    let rel (g : Rel → Rel) (c : Chip) : Chip := { c with rel := g c.rel }
    let ends (c : Chip) (kind target : Nat) (res : BitVec 2) : Host.Outcome State Fault Refusal :=
      .next (s.onward ((rel (fun r => { r with
        kind := BitVec.ofNat 2 kind, res := res, target := BitVec.ofNat 5 target, checks := r.checks + 1 }) c).pend 449))
    let freed := c.updBank b.val (fun x => { x with row := none, copied := false, second := false })
    let d1 (e : Flog) : Word := if e.cls = 1 then toWord (bits.toNat + 2 ^ 16 * us.toNat) else e.d1
    (c.clocked = false ∨ c.rel.auto = false ∨ c.rel.queue = [] → exec .replayCheckStart s = .next (s.onward c))
    ∧ (c.clocked = true → c.rel.auto = true →
      (c.rel.queue = (.sram b.val row word slot, second) :: t → x.row = none → c.freeSpare b.val ≠ none →
        exec .replayCheckStart s = .next (s.onward ((rel (fun r => { r with queue := t }) c).updBank b.val (fun x => { x with
          row := some row, slot := slot, copied := false, second := second }))))
      ∧ (c.rel.queue = (.fielder f.val slot, second) :: t → c.rel.fielderJob = none → (c.fielder f.val).st = .halted →
        c.fw.bench ≠ some f.val →
        exec .replayCheckStart s = .next (s.onward (rel (fun r => { r with fielderJob := some (f.val, slot, second) })
          ((rel (fun r => { r with queue := t }) c).updFielder f.val (fun x => { x with st := .test, wfi := false, takes := none }))))))
    ∧ (x.row = none → exec (.sramShadowCopyDone b) s = .next (s.onward c) ∧ exec (.sramCheckDone b r bits us) s = .next (s.onward c))
    ∧ (x.row = some row →
      exec (.sramShadowCopyDone b) s = .next (s.onward (c.updBank b.val (fun x => { x with copied := true })))
      ∧ (x.copied = false → exec (.sramCheckDone b r bits us) s = .next (s.onward c))
      ∧ (x.copied = true →
        exec (.sramCheckDone b .inconclusive bits us) s
          = ends (freed.logResult x.slot (fun e => { e.withOutcome 3 5 false with d1 := d1 e })) 1 b.val 3
        ∧ (c.sticky b.val row = false → (Tbl.get [] c.rel.rowCe (1024 * b.val + row)).length ≠ 3 →
          exec (.sramCheckDone b .transient bits us) s
          = ends (freed.logResult x.slot (fun e => { e.withOutcome 1 0 false with d1 := d1 e })) 1 b.val 1)
        ∧ (c.sticky b.val row = true ∨ (Tbl.get [] c.rel.rowCe (1024 * b.val + row)).length = 3 →
          exec (.sramCheckDone b .transient bits us) s = exec (.sramCheckDone b .lasting bits us) s)
        ∧ (c.freeSpare b.val = some k → c.rel.otpCommit = false → exec (.sramCheckDone b .lasting bits us) s
          = ends (((rel (fun r => { r with repairs := {
              bank := b.val, row := row, spare := k, injected := bitAt (c.flog x.slot).outcome 5 || c.sticky b.val row } :: r.repairs }) freed).logResult x.slot (fun e => { e.withOutcome 2 1 x.second with
                loc := e.loc ||| BitVec.ofNat 64 (2 ^ 32 * k + 2 ^ 38), d1 := d1 e })).markSecond (fun j => j == b.val)) 1 b.val 2)
        ∧ (c.freeSpare b.val = some k → c.rel.otpCommit = true → bitAt (c.flog x.slot).outcome 5 = false → c.sticky b.val row = false →
          exec (.sramCheckDone b .lasting bits us) s
            = ends (rel (fun r => { r with otpDue := r.otpDue ++ [(x.slot, .row { bank := b, row := row, spare := k })] })
              (((rel (fun r => { r with repairs := { bank := b, row := row, spare := k, injected := false } :: r.repairs }) freed).logResult
                x.slot (fun e => { e.withOutcome 2 1 x.second with
                  loc := e.loc ||| BitVec.ofNat 64 (2 ^ 32 * k + 2 ^ 38), d1 := d1 e })).markSecond (fun j => j == b.val))) 1 b.val 2)
        ∧ (c.freeSpare b.val = none → exec (.sramCheckDone b .lasting bits us) s
          = ends ((freed.logResult x.slot (fun e => e.withOutcome 3 5 true)).log 0x20 0x0B b.val 0 0 0) 1 b.val 3)))
    ∧ (c.rel.fielderJob = none → exec (.fielderCheckDone f r) s = .next (s.onward c))
    ∧ (c.rel.fielderJob = some (f.val, slot, second) →
      let d := rel (fun r => { r with fielderJob := none }) c
      exec (.fielderCheckDone f .transient) s
        = ends ((d.logResult slot (fun e => e.withOutcome 1 (fld e.outcome 4 2) false)).afterTransient f.val) 2 f.val 1
      ∧ exec (.fielderCheckDone f .lasting) s
        = ends (((d.logResult slot (fun e => e.withOutcome 2 3 second)).retire f.val slot).markSecond (fun j => j == 16)) 2 f.val 2
      ∧ exec (.fielderCheckDone f .inconclusive) s
        = ends ((d.logResult slot (fun e => e.withOutcome 3 3 second)).retire f.val slot) 2 f.val 3)
    ∧ (c.rel.otpDue = [] → exec .otpCommitDone s = .next (s.onward c))
    ∧ (c.rel.otpDue = (slot, .row rep) :: due → c.rel.otpLeft ≠ 0 → exec .otpCommitDone s = .next (s.onward ((rel (fun r => { r with
        otpDue := due, otpLeft := c.rel.otpLeft - 1, otpRows := rep :: r.otpRows }) c).logResult slot (fun e => { e with
          outcome := e.outcome ||| 0x40 }))))
    ∧ (c.rel.otpDue = (slot, .fielder fi) :: due → c.rel.otpLeft ≠ 0 → exec .otpCommitDone s = .next (s.onward ((rel (fun r => { r with
        otpDue := due, otpLeft := c.rel.otpLeft - 1, otpFielders := fi :: r.otpFielders.filter (fun g => g != fi) }) c).logResult slot
          (fun e => { e with outcome := e.outcome ||| 0x40 }))))
    ∧ (∀ item, c.rel.otpDue = (slot, item) :: due → c.rel.otpLeft = 0 →
      exec .otpCommitDone s = .next (s.onward ((rel (fun r => { r with otpDue := due }) c).log 0x20 0x0B 0x10 0 0 0)))

/-- Lanes (R354, R400, R401, R407): an error of a lane counts in its 1 ms window and sets source 451, one of a fabric lane its
port's source +4 as well, and the port's count where it is a loss; the LANE_TH-th is logged and queued for a check, with no more
than its count where one waits; the end of a check brings a TRANSIENT lane back and drops any other, which for x4 leaves the rest
of the link. The scrubber and the Sideline's (R396, R399, R409): each row in turn, while the core is clocked and SCRUB is not 0; a
corrected error counts for its bank, sets its REPLAY bit and source 432 + bank, and is logged and queued; an uncorrectable one
sets source 448, and in the packet buffer its work is lost, in a Fielder's RAM the Fielder faults. The syndrome is a free value.
-/
def Obligations.LanesAndScrubbing : Prop :=
  (∀ (s : State) (l : Fin 20) (kind : BitVec 3) (slot was : Nat) (second : Bool) (r : CheckEnd),
    let c := s.chip
    let p := (l.val - 16) / 2
    let f := (if bitAt kind 0 = true then c.updFab p (fun q => { q with laneLoss := q.laneLoss + 1 }) else c).pend (392 + 8 * p + 4)
    let d := (if l.val < 16 then c else f).pend 451
    let times := c.us :: (Tbl.get [] c.rel.laneErr l.val).filter (fun t => decide (c.us - t ≤ 1000))
    let withErr (ts : List Nat) : Chip := { d with rel := { d.rel with laneErr := Tbl.set [] d.rel.laneErr l.val ts } }
    (c.laneSlot l.val = some slot → exec (.laneError l kind) s = .next (s.onward (d.logResult slot (fun e => { e with
        count := if e.count.toNat = 65535 then e.count else e.count + 1 }))))
    ∧ (c.laneSlot l.val = none → times.length < c.rel.laneTh.toNat → exec (.laneError l kind) s = .next (s.onward (withErr times)))
    ∧ (c.laneSlot l.val = none → c.rel.laneTh.toNat ≤ times.length →
      let e := (withErr []).log 0x1E 0x05 l.val times.length kind.toNat 0
      exec (.laneError l kind) s = .next (s.onward (e.queueCheck (.lane l.val e.lastLog) e.lastLog)))
    ∧ (c.rel.laneJobs = [] → exec (.laneCheckDone l r) s = .next (s.onward c))
    ∧ (c.rel.laneJobs = [(l.val, slot, second, was)] →
      let e : Chip := { c with rel := { c.rel with laneJobs := [] } }
      let ended (c : Chip) (res : BitVec 2) : Host.Outcome State Fault Refusal :=
        .next (s.onward ({ c with rel := { c.rel with
          kind := 3, res := res, target := BitVec.ofNat 5 l.val, checks := c.rel.checks + 1 } }.pend 449))
      let bad := (e.logResult slot (fun g => g.withOutcome 2 4 second)).markSecond
          (fun k => decide (17 ≤ k) && c.laneLink (k - 17) == c.laneLink l.val)
      exec (.laneCheckDone l .transient) s = ended ((e.logResult slot (fun g => g.withOutcome 1 0 false)).laneBack l.val was) 1
      ∧ exec (.laneCheckDone l .inconclusive) s = ended ((e.logResult slot (fun g => g.withOutcome 3 4 second)).laneDropped l.val) 3
      ∧ exec (.laneCheckDone l .lasting) s = ended (bad.laneDropped l.val) 2)
    ∧ (l.val < 4 → c.laneBack l.val was = c ∧ (c.straps.bifur = false → c.rel.laneDown = 0 →
      c.laneDropped l.val = { c with rel := { c.rel with laneDown := BitVec.ofNat 20 (2 ^ l.val) } })))
  ∧ (∀ (s : State) (w : Fin 128) (bit : BitVec 6) (x : ScrubFind),
    let c := s.chip
    let b := c.rel.scrubRow / 1024
    let row := c.rel.scrubRow % 1024
    let d : Chip := { c with rel := { c.rel with scrubRow := (c.rel.scrubRow + 1) % 16384 } }
    let n := (Config.freeWord c.free).toNat % 128
    let ce : Chip := ({ d with free := c.free + 1 } : Chip).updBank b (fun x => { x with corrected := x.corrected + 1 })
    let ue : Chip := ({ d with free := c.free + 1 } : Chip).updBank b (fun x => { x with
      uncorr := if x.uncorr = 255 then 255 else x.uncorr + 1 })
    let lost : Chip := ({ ue with
      rel := { ue.rel with ue := ue.rel.ue ||| BitVec.ofNat 16 (2 ^ b) } }.pend 448).rowError b row w.val 0x02 n 0
    (c.clocked = false ∨ c.boot.sram = false ∨ c.rel.scrub = 0 → exec (.scrubRow x) s = .next (s.onward c))
    ∧ (c.clocked = true → c.boot.sram = true → c.rel.scrub ≠ 0 →
      exec (.scrubRow .clean) s = .next (s.onward d)
      ∧ exec (.scrubRow (.corrected w bit)) s = .next (s.onward ((({ ce with
          rel := { ce.rel with ce := ce.rel.ce ||| BitVec.ofNat 16 (2 ^ b) } }.pend (432 + b)).countRow b row).rowError b row w.val 0x01
            (n + 2 ^ 8 * bit.toNat) 0))
      ∧ (b < 10 → exec (.scrubRow (.uncorrectable w)) s = .next (s.onward lost.loseBuffer))
      ∧ (12 ≤ b → b < 15 → exec (.scrubRow (.uncorrectable w)) s
        = .next (s.onward (lost.fault (4 * (b - 12) + row / 256) (.uncorrectable (decide (row % 256 < 128))))))
      ∧ (b = 15 → exec (.scrubRow (.uncorrectable w)) s = .next (s.onward lost)))
    ∧ exec (.sidelineScrub true false) s
        = .next (s.onward (({ c with free := c.free + 1 } : Chip).log 0x01 0x01 0 ((Config.freeWord c.free).toNat % 2 ^ 14) 0 0))
    ∧ exec (.sidelineScrub false true) s = .next (s.onward (({ c with free := c.free + 1 } : Chip).log 0x01 0x02 0 n 0 0))
    ∧ exec (.sidelineScrub false false) s = .next (s.onward c))

/-- The Spin registers unlock on two consecutive manager writes of SPIN_KEY within 100 µs, first 0x00005917 and then 0x0000A6E8; any other
value leaves them locked; LOCK returns every perturbation register to its reset value while those in progress finish; ARM arms SPIN_ECC
only while they are unlocked (R419, R420). -/
def Obligations.SpinUnlocksAndLocks : Prop :=
  ∀ (s : State) (w : Writer) (val : Word) (late : Bool),
    let c := s.chip
    let p := c.spin
    let spin (x : Spin) : Host.Outcome State Fault Refusal := .next (s.onward { c with spin := x })
    (c.isMgr w = false →
      exec (.spinKeyWrite w val late) s = .next (s.onward c)
      ∧ exec (.spinLock w) s = spin { p with stage := false } ∧ exec (.spinEccArm w) s = spin { p with stage := false })
    ∧ (c.isMgr w = true →
      (val = 0x00005917 → exec (.spinKeyWrite w val late) s = spin { p with stage := true })
      ∧ (val = 0x0000A6E8 → p.stage = true → late = false →
        exec (.spinKeyWrite w val late) s = spin { p with stage := false, unlocked := true })
      ∧ (val ≠ 0x00005917 → val ≠ 0x0000A6E8 ∨ p.stage = false ∨ late = true →
        exec (.spinKeyWrite w val late) s = spin { p with stage := false })
      ∧ (p.unlocked = false → exec (.spinLock w) s = spin { p with stage := false }
          ∧ exec (.spinEccArm w) s = spin { p with stage := false })
      ∧ (p.unlocked = true → p.fabHold = none → exec (.spinLock w) s = spin { holding := p.holding })
      ∧ (p.unlocked = true → exec (.spinEccArm w) s = spin { p with stage := false, ecc := p.ecc ||| 0x20000000 }))
    ∧ exec (.spinPerturbationEnd .creditHold) s = spin { p with holding := false }
    ∧ (fld p.credit 11 0 ≠ 0 → fld p.credit 31 16 ≠ 0 → exec (.spinPerturbationEnd .creditPeriod) s = spin { p with holding := true })
    ∧ (fld p.credit 11 0 = 0 ∨ fld p.credit 31 16 = 0 → exec (.spinPerturbationEnd .creditPeriod) s = .next (s.onward c))
    ∧ exec (.spinPerturbationEnd .fabDuration) s = spin { p with fabHold := none }

/-- Reset (R22, R23, R26, R288, R333): the state after the reset of a power-up is sound, nothing waits and nothing is out; the chip is
STARTING with its memory and logic not ready; the PF is there with channels 0 to 7 bound to physical channels in order; no slot, endpoint,
schedule, charge or claim exists; and the bring-up events, in order, make the chip READY and WAITING. The values of registers for which
the spec states none are the model's choice and are not named here. -/
def Obligations.ResetStartsTheBringUp : Prop :=
  State.reset.sound = true ∧ State.reset.pending = [] ∧ State.reset.chip.out = [] ∧ State.reset.chip.calmed = true
    ∧ State.reset.chip.boot.mode = .starting ∧ State.reset.chip.boot.ready = false ∧ State.reset.chip.boot.fwRunning = false
    ∧ State.reset.chip.slots = [] ∧ State.reset.chip.eps = [] ∧ State.reset.chip.buses = [] ∧ State.reset.chip.peps = []
    ∧ State.reset.chip.spin.unlocked = false ∧ State.reset.chip.pwr.limit = 3 ∧ State.reset.chip.pwr.high = 110
    ∧ State.reset.chip.pwr.low = 100 ∧ State.reset.chip.pwr.warn = 130 ∧ State.reset.chip.fab.ctl = 0x316
    ∧ (∀ f : Fin 12, (State.reset.chip.fielder f.val).st = .boot ∧ (State.reset.chip.fielder f.val).claim = none)
    ∧ (∀ n : Fin 512, (State.reset.chip.src n.val).rr = 11 ∧ (State.reset.chip.src n.val).pend = false)
    ∧ (∀ k : Fin 8, ((State.reset.chip.inst 0).chan k.val).phys = some k.val)
    ∧ (∀ rest, ∃ t1 t2 t3 t4,
      step { State.reset with pending := [.crystalStable, .pllLock, .sramRdy, .logicRdy] ++ rest } = .next t1
      ∧ step t1 = .next t2 ∧ step t2 = .next t3 ∧ step t3 = .next t4
      ∧ t4.chip.boot.mode = .waiting ∧ t4.chip.boot.ready = true ∧ t4.pending = rest)

/-- CH_CMD writes that are refused (R293): in an ACTIVE instance a reserved OP, START of a channel that is not IDLE, RESUME, SKIP
or ABORT of an IDLE one, RESUME or SKIP of one that is RUNNING, ABORTING or PAUSED, and SKIP of one HALTED with a CAUSE of 6, 7 or
8 set CMD_ERR and change nothing else; ABORT of an ABORTING channel is ignored. -/
def Obligations.RefusedChannelCommands : Prop :=
  ∀ (s : State) (i : Fin 128) (j : Fin 256) (val : Word),
    let n := i.val
    let c := if n = 0 then s.chip.spinBreak else s.chip
    let h := (s.chip.inst n).chan j.val
    let refused : Host.Outcome State Fault Refusal := .next (s.onward (c.updInst n (fun x => { x with
      chans := Tbl.upd {} x.chans j.val (fun h => { h with cmdErr := true }) })))
    (s.chip.inst n).st = .active → j.val < s.chip.chanCount n →
    (fld val 2 0 = 0 ∨ 4 < fld val 2 0 → exec (.chCmdRefused i j val) s = refused)
    ∧ (fld val 2 0 = 1 → exec (.chCmdRefused i j val) s = exec (.chStart i j) s)
    ∧ (fld val 2 0 = 2 → exec (.chCmdRefused i j val) s = exec (.chResume i j) s)
    ∧ (fld val 2 0 = 3 → exec (.chCmdRefused i j val) s = exec (.chSkip i j) s)
    ∧ (fld val 2 0 = 4 → exec (.chCmdRefused i j val) s = exec (.chAbort i j) s)
    ∧ (h.st ≠ .idle → exec (.chStart i j) s = refused)
    ∧ (h.st = .idle ∨ h.st = .running ∨ h.st = .aborting ∨ h.st = .paused →
      exec (.chResume i j) s = refused ∧ exec (.chSkip i j) s = refused)
    ∧ (h.st = .idle → exec (.chAbort i j) s = refused)
    ∧ (h.st = .halted → h.cause = 6 ∨ h.cause = 7 ∨ h.cause = 8 → exec (.chSkip i j) s = refused)
    ∧ (h.st = .aborting → exec (.chAbort i j) s = .next (s.onward (c.updInst n (fun x => x))))

/-- A wake after AP4 (R379): it is recorded and changes no power state; when step 6 ends, the exit begins at once, from RETAIN and from
DORMANT alike. -/
def Obligations.WakesAfterAp4Wait : Prop :=
  ∀ (s : State) (e : WakeEvent) (t : Word),
    s.chip.pwr.st = .ap4 →
    (s.chip.pwr.wakeDue = false → ∃ p : Pwr,
      exec (.wakeSource e t) s = .next (s.onward { s.chip with pwr := p })
      ∧ p.st = .ap4 ∧ p.goal = s.chip.pwr.goal ∧ (p.wakeDue = true ↔ p.wakeOn e = true))
    ∧ (s.chip.pwr.wakeDue = true → s.chip.calmed = true → ∃ u,
      exec .powerEntryComplete s = .next u ∧ u.chip.pwr.st = .exiting 1 ∧ u.chip.hold.wakeOut = true ∧ u.chip.pwr.goal = s.chip.pwr.goal)
end

