-- ==== Sys2Proof/Laws/Table.lean ====
section
/-! SUPPORT. Laws of sparse tables: reading after writing, and the canonical form. -/

namespace Sys2Proof

variable {α : Type}

@[simp] theorem Tbl.get_nil (d : α) (k : Nat) : Tbl.get d [] k = d := rfl

theorem Tbl.get_drop_same (d : α) (t : Tbl α) (k : Nat) : Tbl.get d (Tbl.drop t k) k = d := by
  induction t with
  | nil => rfl
  | cons e t ih =>
    obtain ⟨j, v⟩ := e
    by_cases h : j = k <;> simp [Tbl.drop, Tbl.get, h, ih]

theorem Tbl.get_drop_other (d : α) (t : Tbl α) {j k : Nat} (h : j ≠ k) : Tbl.get d (Tbl.drop t k) j = Tbl.get d t j := by
  induction t with
  | nil => rfl
  | cons e t ih =>
    obtain ⟨i, v⟩ := e
    by_cases hi : i = k
    · have : i ≠ j := fun e => h (e ▸ hi)
      simp [Tbl.drop, Tbl.get, hi, ih, Ne.symm h]
    · simp [Tbl.drop, Tbl.get, hi, ih]

theorem Tbl.get_ins_same (d v : α) (t : Tbl α) (k : Nat) (h : ∀ w, (k, w) ∉ t) : Tbl.get d (Tbl.ins k v t) k = v := by
  induction t with
  | nil => simp [Tbl.ins, Tbl.get]
  | cons e t ih =>
    obtain ⟨j, w⟩ := e
    have hj : j ≠ k := fun e => h w (by simp [e])
    have ht : ∀ w, (k, w) ∉ t := fun w hw => h w (by simp [hw])
    by_cases hk : k < j <;> simp [Tbl.ins, Tbl.get, hk, hj, ih ht]

theorem Tbl.get_ins_other (d v : α) (t : Tbl α) {j k : Nat} (h : j ≠ k) : Tbl.get d (Tbl.ins k v t) j = Tbl.get d t j := by
  induction t with
  | nil => simp [Tbl.ins, Tbl.get, Ne.symm h]
  | cons e t ih =>
    obtain ⟨i, w⟩ := e
    by_cases hk : k < i <;> simp [Tbl.ins, Tbl.get, hk, ih, Ne.symm h]

theorem Tbl.not_mem_drop (t : Tbl α) (k : Nat) (w : α) : (k, w) ∉ Tbl.drop t k := by
  induction t with
  | nil => simp [Tbl.drop]
  | cons e t ih =>
    obtain ⟨j, v⟩ := e
    by_cases h : j = k
    · simp [Tbl.drop, h, ih]
    · simp [Tbl.drop, h, ih, Ne.symm h]

theorem Tbl.mem_drop {t : Tbl α} {k : Nat} {e : Nat × α} (h : e ∈ Tbl.drop t k) : e ∈ t := by
  induction t with
  | nil => simp [Tbl.drop] at h
  | cons x t ih =>
    obtain ⟨j, v⟩ := x
    by_cases hj : j = k
    · simp [Tbl.drop, hj] at h; exact List.mem_cons_of_mem _ (ih h)
    · simp [Tbl.drop, hj] at h
      rcases h with rfl | h
      · simp
      · exact List.mem_cons_of_mem _ (ih h)

theorem Tbl.mem_ins {t : Tbl α} {k : Nat} {v : α} {e : Nat × α} (h : e ∈ Tbl.ins k v t) : e = (k, v) ∨ e ∈ t := by
  induction t with
  | nil => simpa [Tbl.ins] using h
  | cons x t ih =>
    obtain ⟨j, w⟩ := x
    by_cases hk : k < j
    · simpa [Tbl.ins, hk] using h
    · simp [Tbl.ins, hk] at h
      rcases h with rfl | h
      · simp
      · rcases ih h with h | h <;> simp [h]

theorem Tbl.mem_of_get {d : α} {t : Tbl α} {k : Nat} (h : Tbl.get d t k ≠ d) : (k, Tbl.get d t k) ∈ t := by
  induction t with
  | nil => exact absurd rfl h
  | cons e t ih =>
    obtain ⟨j, v⟩ := e
    by_cases hj : j = k
    · simp [Tbl.get, hj]
    · simp only [Tbl.get, hj, if_false] at h ⊢
      exact List.mem_cons_of_mem _ (ih h)

variable [DecidableEq α]

/-- A write is read back. -/
@[simp] theorem Tbl.get_set_same (d v : α) (t : Tbl α) (k : Nat) : Tbl.get d (Tbl.set d t k v) k = v := by
  unfold Tbl.set
  split
  · rename_i h; rw [h]; exact Tbl.get_drop_same d t k
  · exact Tbl.get_ins_same d v _ k (Tbl.not_mem_drop t k)

/-- A write leaves every other key alone, whatever an unlisted key reads as. -/
theorem Tbl.get_set_apart (d d' v : α) (t : Tbl α) {j k : Nat} (h : j ≠ k) : Tbl.get d (Tbl.set d' t k v) j = Tbl.get d t j := by
  unfold Tbl.set
  split
  · exact Tbl.get_drop_other d t h
  · rw [Tbl.get_ins_other d v _ h]; exact Tbl.get_drop_other d t h

theorem Tbl.get_set_other (d v : α) (t : Tbl α) {j k : Nat} (h : j ≠ k) : Tbl.get d (Tbl.set d t k v) j = Tbl.get d t j :=
  Tbl.get_set_apart d d v t h

theorem Tbl.get_set (d v : α) (t : Tbl α) (j k : Nat) : Tbl.get d (Tbl.set d t k v) j = if j = k then v else Tbl.get d t j := by
  by_cases h : j = k
  · simp [h]
  · simp [h, Tbl.get_set_other d v t h]

theorem Tbl.get_upd (d : α) (t : Tbl α) (j k : Nat) (f : α → α) :
    Tbl.get d (Tbl.upd d t k f) j = if j = k then f (Tbl.get d t k) else Tbl.get d t j := Tbl.get_set d _ t j k

@[simp] theorem Tbl.get_upd_same (d : α) (t : Tbl α) (k : Nat) (f : α → α) :
    Tbl.get d (Tbl.upd d t k f) k = f (Tbl.get d t k) := by simp [Tbl.get_upd]

theorem Tbl.mem_set {d v : α} {t : Tbl α} {k : Nat} {e : Nat × α} (h : e ∈ Tbl.set d t k v) : e = (k, v) ∨ e ∈ t := by
  unfold Tbl.set at h
  split at h
  · exact Or.inr (Tbl.mem_drop h)
  · exact (Tbl.mem_ins h).imp_right Tbl.mem_drop

omit [DecidableEq α] in
theorem Tbl.drop_drop (t : Tbl α) (k : Nat) : Tbl.drop (Tbl.drop t k) k = Tbl.drop t k := by
  induction t with
  | nil => rfl
  | cons e t ih =>
    obtain ⟨j, v⟩ := e
    by_cases h : j = k <;> simp [Tbl.drop, h, ih]

omit [DecidableEq α] in
theorem Tbl.drop_ins (t : Tbl α) (k : Nat) (v : α) : Tbl.drop (Tbl.ins k v t) k = Tbl.drop t k := by
  induction t with
  | nil => simp [Tbl.ins, Tbl.drop]
  | cons e t ih =>
    obtain ⟨j, w⟩ := e
    by_cases h : k < j
    · simp [Tbl.ins, Tbl.drop, h]
    · by_cases hj : j = k <;> simp [Tbl.ins, Tbl.drop, h, hj, ih]

/-- Of two writes to one key the second stays. -/
@[simp] theorem Tbl.set_set (d v w : α) (t : Tbl α) (k : Nat) : Tbl.set d (Tbl.set d t k v) k w = Tbl.set d t k w := by
  have h : Tbl.drop (Tbl.set d t k v) k = Tbl.drop t k := by
    unfold Tbl.set
    split
    · exact Tbl.drop_drop t k
    · rw [Tbl.drop_ins, Tbl.drop_drop]
  change (if w = d then Tbl.drop (Tbl.set d t k v) k else Tbl.ins k w (Tbl.drop (Tbl.set d t k v) k)) = _
  rw [h]
  rfl

theorem Tbl.upd_upd (d : α) (t : Tbl α) (k : Nat) (f g : α → α) :
    Tbl.upd d (Tbl.upd d t k f) k g = Tbl.upd d t k (fun x => g (f x)) := by
  simp [Tbl.upd]

/-! ### The canonical form -/

omit [DecidableEq α] in
theorem Tbl.rises_mono {t : Tbl α} {a b : Nat} (h : a ≤ b) (ht : Tbl.rises b t = true) : Tbl.rises a t = true := by
  cases t with
  | nil => rfl
  | cons e t => simp only [Tbl.rises, Bool.and_eq_true, decide_eq_true_eq] at *; exact ⟨by omega, ht.2⟩

omit [DecidableEq α] in
theorem Tbl.rises_drop {t : Tbl α} {a k : Nat} (ht : Tbl.rises a t = true) : Tbl.rises a (Tbl.drop t k) = true := by
  induction t generalizing a with
  | nil => rfl
  | cons e t ih =>
    obtain ⟨j, v⟩ := e
    simp only [Tbl.rises, Bool.and_eq_true, decide_eq_true_eq] at ht
    by_cases h : j = k
    · simp only [Tbl.drop, h, if_true]
      exact Tbl.rises_mono (by omega) (ih ht.2)
    · simp only [Tbl.drop, h, if_false, Tbl.rises, Bool.and_eq_true, decide_eq_true_eq]
      exact ⟨ht.1, ih ht.2⟩

omit [DecidableEq α] in
theorem Tbl.rises_ins {t : Tbl α} {a k : Nat} {v : α} (ha : a ≤ k) (hn : ∀ w, (k, w) ∉ t) (ht : Tbl.rises a t = true) :
    Tbl.rises a (Tbl.ins k v t) = true := by
  induction t generalizing a with
  | nil => simp [Tbl.ins, Tbl.rises, ha]
  | cons e t ih =>
    obtain ⟨j, w⟩ := e
    simp only [Tbl.rises, Bool.and_eq_true, decide_eq_true_eq] at ht
    by_cases h : k < j
    · simp only [Tbl.ins, h, if_true, Tbl.rises, Bool.and_eq_true, decide_eq_true_eq]
      exact ⟨ha, by omega, ht.2⟩
    · have hj : j ≠ k := fun e => hn w (by simp [e])
      simp only [Tbl.ins, h, if_false, Tbl.rises, Bool.and_eq_true, decide_eq_true_eq]
      exact ⟨ht.1, ih (by omega) (fun w hw => hn w (by simp [hw])) ht.2⟩

/-- Writing keeps the canonical form. -/
theorem Tbl.wf_set {d v : α} {t : Tbl α} {k : Nat} (ht : Tbl.wf d t = true) : Tbl.wf d (Tbl.set d t k v) = true := by
  simp only [Tbl.wf, Bool.and_eq_true, List.all_eq_true, decide_eq_true_eq] at *
  unfold Tbl.set
  split
  · exact ⟨Tbl.rises_drop ht.1, fun e he => ht.2 e (Tbl.mem_drop he)⟩
  · rename_i hv
    refine ⟨Tbl.rises_ins (Nat.zero_le k) (Tbl.not_mem_drop t k) (Tbl.rises_drop ht.1), fun e he => ?_⟩
    rcases Tbl.mem_ins he with rfl | he
    · exact hv
    · exact ht.2 e (Tbl.mem_drop he)

end Sys2Proof
end

