-- ==== Sys2Proof/Laws/State.lean ====
section
/-! SUPPORT. One lemma per field per update of the chip, true by `rfl`; what an update of a table leaves at each key; and
what the three ways in which a command acts leave of the state. -/

namespace Sys2Proof.Machine

variable (c : Chip)

/-! ### updInst -/

@[simp] theorem Chip.updInst_straps (k : Nat) (f : Inst → Inst) : (c.updInst k f).straps = c.straps := rfl
@[simp] theorem Chip.updInst_hold (k : Nat) (f : Inst → Inst) : (c.updInst k f).hold = c.hold := rfl
@[simp] theorem Chip.updInst_boot (k : Nat) (f : Inst → Inst) : (c.updInst k f).boot = c.boot := rfl
@[simp] theorem Chip.updInst_link0 (k : Nat) (f : Inst → Inst) : (c.updInst k f).link0 = c.link0 := rfl
@[simp] theorem Chip.updInst_link1 (k : Nat) (f : Inst → Inst) : (c.updInst k f).link1 = c.link1 := rfl
@[simp] theorem Chip.updInst_fuse (k : Nat) (f : Inst → Inst) : (c.updInst k f).fuse = c.fuse := rfl
@[simp] theorem Chip.updInst_jtag (k : Nat) (f : Inst → Inst) : (c.updInst k f).jtag = c.jtag := rfl
@[simp] theorem Chip.updInst_otpKey (k : Nat) (f : Inst → Inst) : (c.updInst k f).otpKey = c.otpKey := rfl
@[simp] theorem Chip.updInst_fw (k : Nat) (f : Inst → Inst) : (c.updInst k f).fw = c.fw := rfl
@[simp] theorem Chip.updInst_mgr (k : Nat) (f : Inst → Inst) : (c.updInst k f).mgr = c.mgr := rfl
@[simp] theorem Chip.updInst_smb (k : Nat) (f : Inst → Inst) : (c.updInst k f).smb = c.smb := rfl
@[simp] theorem Chip.updInst_cap (k : Nat) (f : Inst → Inst) : (c.updInst k f).cap = c.cap := rfl
@[simp] theorem Chip.updInst_mf (k : Nat) (f : Inst → Inst) : (c.updInst k f).mf = c.mf := rfl
@[simp] theorem Chip.updInst_us (k : Nat) (f : Inst → Inst) : (c.updInst k f).us = c.us := rfl
@[simp] theorem Chip.updInst_usNow (k : Nat) (f : Inst → Inst) : (c.updInst k f).usNow = c.usNow := rfl
@[simp] theorem Chip.updInst_slots (k : Nat) (f : Inst → Inst) : (c.updInst k f).slots = c.slots := rfl
@[simp] theorem Chip.updInst_eps (k : Nat) (f : Inst → Inst) : (c.updInst k f).eps = c.eps := rfl
@[simp] theorem Chip.updInst_peps (k : Nat) (f : Inst → Inst) : (c.updInst k f).peps = c.peps := rfl
@[simp] theorem Chip.updInst_pepOrder (k : Nat) (f : Inst → Inst) : (c.updInst k f).pepOrder = c.pepOrder := rfl
@[simp] theorem Chip.updInst_tts (k : Nat) (f : Inst → Inst) : (c.updInst k f).tts = c.tts := rfl
@[simp] theorem Chip.updInst_buses (k : Nat) (f : Inst → Inst) : (c.updInst k f).buses = c.buses := rfl
@[simp] theorem Chip.updInst_queues (k : Nat) (f : Inst → Inst) : (c.updInst k f).queues = c.queues := rfl
@[simp] theorem Chip.updInst_rally (k : Nat) (f : Inst → Inst) : (c.updInst k f).rally = c.rally := rfl
@[simp] theorem Chip.updInst_ports (k : Nat) (f : Inst → Inst) : (c.updInst k f).ports = c.ports := rfl
@[simp] theorem Chip.updInst_ssps (k : Nat) (f : Inst → Inst) : (c.updInst k f).ssps = c.ssps := rfl
@[simp] theorem Chip.updInst_pass (k : Nat) (f : Inst → Inst) : (c.updInst k f).pass = c.pass := rfl
@[simp] theorem Chip.updInst_shares (k : Nat) (f : Inst → Inst) : (c.updInst k f).shares = c.shares := rfl
@[simp] theorem Chip.updInst_jobs (k : Nat) (f : Inst → Inst) : (c.updInst k f).jobs = c.jobs := rfl
@[simp] theorem Chip.updInst_shareWait (k : Nat) (f : Inst → Inst) : (c.updInst k f).shareWait = c.shareWait := rfl
@[simp] theorem Chip.updInst_internals (k : Nat) (f : Inst → Inst) : (c.updInst k f).internals = c.internals := rfl
@[simp] theorem Chip.updInst_fielders (k : Nat) (f : Inst → Inst) : (c.updInst k f).fielders = c.fielders := rfl
@[simp] theorem Chip.updInst_srcs (k : Nat) (f : Inst → Inst) : (c.updInst k f).srcs = c.srcs := rfl
@[simp] theorem Chip.updInst_grps (k : Nat) (f : Inst → Inst) : (c.updInst k f).grps = c.grps := rfl
@[simp] theorem Chip.updInst_locks (k : Nat) (f : Inst → Inst) : (c.updInst k f).locks = c.locks := rfl
@[simp] theorem Chip.updInst_ram (k : Nat) (f : Inst → Inst) : (c.updInst k f).ram = c.ram := rfl
@[simp] theorem Chip.updInst_pwr (k : Nat) (f : Inst → Inst) : (c.updInst k f).pwr = c.pwr := rfl
@[simp] theorem Chip.updInst_rel (k : Nat) (f : Inst → Inst) : (c.updInst k f).rel = c.rel := rfl
@[simp] theorem Chip.updInst_spin (k : Nat) (f : Inst → Inst) : (c.updInst k f).spin = c.spin := rfl
@[simp] theorem Chip.updInst_fab (k : Nat) (f : Inst → Inst) : (c.updInst k f).fab = c.fab := rfl
@[simp] theorem Chip.updInst_waits (k : Nat) (f : Inst → Inst) : (c.updInst k f).waits = c.waits := rfl
@[simp] theorem Chip.updInst_ids (k : Nat) (f : Inst → Inst) : (c.updInst k f).ids = c.ids := rfl
@[simp] theorem Chip.updInst_free (k : Nat) (f : Inst → Inst) : (c.updInst k f).free = c.free := rfl
@[simp] theorem Chip.updInst_out (k : Nat) (f : Inst → Inst) : (c.updInst k f).out = c.out := rfl
theorem Chip.inst_updInst (j k : Nat) (f : Inst → Inst) : (c.updInst k f).inst j = if j = k then f (c.inst k) else c.inst j :=
  Tbl.get_upd ({} : Inst) c.insts j k f
@[simp] theorem Chip.inst_updInst_same (k : Nat) (f : Inst → Inst) : (c.updInst k f).inst k = f (c.inst k) :=
    Tbl.get_upd_same ({} : Inst) c.insts k f
theorem Chip.updInst_updInst (k : Nat) (f g : Inst → Inst) : (c.updInst k f).updInst k g = c.updInst k (fun x => g (f x)) := by
  simp [Chip.updInst, Tbl.upd]
theorem Chip.updInst_congr (k : Nat) (f g : Inst → Inst) (h : f (c.inst k) = g (c.inst k)) : c.updInst k f = c.updInst k g := by
  unfold Chip.updInst Tbl.upd
  rw [show f (Tbl.get ({} : Inst) c.insts k) = g (Tbl.get ({} : Inst) c.insts k) from h]
@[simp] theorem Chip.slot_updInst (j k : Nat) (f : Inst → Inst) : (c.updInst k f).slot j = c.slot j := rfl
@[simp] theorem Chip.ep_updInst (j k : Nat) (f : Inst → Inst) : (c.updInst k f).ep j = c.ep j := rfl
@[simp] theorem Chip.port_updInst (j k : Nat) (f : Inst → Inst) : (c.updInst k f).port j = c.port j := rfl
@[simp] theorem Chip.ssp_updInst (j k : Nat) (f : Inst → Inst) : (c.updInst k f).ssp j = c.ssp j := rfl
@[simp] theorem Chip.bus_updInst (j k : Nat) (f : Inst → Inst) : (c.updInst k f).bus j = c.bus j := rfl
@[simp] theorem Chip.queue_updInst (j k : Nat) (f : Inst → Inst) : (c.updInst k f).queue j = c.queue j := rfl
@[simp] theorem Chip.src_updInst (j k : Nat) (f : Inst → Inst) : (c.updInst k f).src j = c.src j := rfl
@[simp] theorem Chip.grp_updInst (j k : Nat) (f : Inst → Inst) : (c.updInst k f).grp j = c.grp j := rfl
@[simp] theorem Chip.fielder_updInst (j k : Nat) (f : Inst → Inst) : (c.updInst k f).fielder j = c.fielder j := rfl
@[simp] theorem Chip.share_updInst (j k : Nat) (f : Inst → Inst) : (c.updInst k f).share j = c.share j := rfl

/-! ### updSlot -/

@[simp] theorem Chip.updSlot_straps (k : Nat) (f : Slot → Slot) : (c.updSlot k f).straps = c.straps := rfl
@[simp] theorem Chip.updSlot_hold (k : Nat) (f : Slot → Slot) : (c.updSlot k f).hold = c.hold := rfl
@[simp] theorem Chip.updSlot_boot (k : Nat) (f : Slot → Slot) : (c.updSlot k f).boot = c.boot := rfl
@[simp] theorem Chip.updSlot_link0 (k : Nat) (f : Slot → Slot) : (c.updSlot k f).link0 = c.link0 := rfl
@[simp] theorem Chip.updSlot_link1 (k : Nat) (f : Slot → Slot) : (c.updSlot k f).link1 = c.link1 := rfl
@[simp] theorem Chip.updSlot_fuse (k : Nat) (f : Slot → Slot) : (c.updSlot k f).fuse = c.fuse := rfl
@[simp] theorem Chip.updSlot_jtag (k : Nat) (f : Slot → Slot) : (c.updSlot k f).jtag = c.jtag := rfl
@[simp] theorem Chip.updSlot_otpKey (k : Nat) (f : Slot → Slot) : (c.updSlot k f).otpKey = c.otpKey := rfl
@[simp] theorem Chip.updSlot_fw (k : Nat) (f : Slot → Slot) : (c.updSlot k f).fw = c.fw := rfl
@[simp] theorem Chip.updSlot_mgr (k : Nat) (f : Slot → Slot) : (c.updSlot k f).mgr = c.mgr := rfl
@[simp] theorem Chip.updSlot_smb (k : Nat) (f : Slot → Slot) : (c.updSlot k f).smb = c.smb := rfl
@[simp] theorem Chip.updSlot_cap (k : Nat) (f : Slot → Slot) : (c.updSlot k f).cap = c.cap := rfl
@[simp] theorem Chip.updSlot_mf (k : Nat) (f : Slot → Slot) : (c.updSlot k f).mf = c.mf := rfl
@[simp] theorem Chip.updSlot_us (k : Nat) (f : Slot → Slot) : (c.updSlot k f).us = c.us := rfl
@[simp] theorem Chip.updSlot_usNow (k : Nat) (f : Slot → Slot) : (c.updSlot k f).usNow = c.usNow := rfl
@[simp] theorem Chip.updSlot_insts (k : Nat) (f : Slot → Slot) : (c.updSlot k f).insts = c.insts := rfl
@[simp] theorem Chip.updSlot_eps (k : Nat) (f : Slot → Slot) : (c.updSlot k f).eps = c.eps := rfl
@[simp] theorem Chip.updSlot_peps (k : Nat) (f : Slot → Slot) : (c.updSlot k f).peps = c.peps := rfl
@[simp] theorem Chip.updSlot_pepOrder (k : Nat) (f : Slot → Slot) : (c.updSlot k f).pepOrder = c.pepOrder := rfl
@[simp] theorem Chip.updSlot_tts (k : Nat) (f : Slot → Slot) : (c.updSlot k f).tts = c.tts := rfl
@[simp] theorem Chip.updSlot_buses (k : Nat) (f : Slot → Slot) : (c.updSlot k f).buses = c.buses := rfl
@[simp] theorem Chip.updSlot_queues (k : Nat) (f : Slot → Slot) : (c.updSlot k f).queues = c.queues := rfl
@[simp] theorem Chip.updSlot_rally (k : Nat) (f : Slot → Slot) : (c.updSlot k f).rally = c.rally := rfl
@[simp] theorem Chip.updSlot_ports (k : Nat) (f : Slot → Slot) : (c.updSlot k f).ports = c.ports := rfl
@[simp] theorem Chip.updSlot_ssps (k : Nat) (f : Slot → Slot) : (c.updSlot k f).ssps = c.ssps := rfl
@[simp] theorem Chip.updSlot_pass (k : Nat) (f : Slot → Slot) : (c.updSlot k f).pass = c.pass := rfl
@[simp] theorem Chip.updSlot_shares (k : Nat) (f : Slot → Slot) : (c.updSlot k f).shares = c.shares := rfl
@[simp] theorem Chip.updSlot_jobs (k : Nat) (f : Slot → Slot) : (c.updSlot k f).jobs = c.jobs := rfl
@[simp] theorem Chip.updSlot_shareWait (k : Nat) (f : Slot → Slot) : (c.updSlot k f).shareWait = c.shareWait := rfl
@[simp] theorem Chip.updSlot_internals (k : Nat) (f : Slot → Slot) : (c.updSlot k f).internals = c.internals := rfl
@[simp] theorem Chip.updSlot_fielders (k : Nat) (f : Slot → Slot) : (c.updSlot k f).fielders = c.fielders := rfl
@[simp] theorem Chip.updSlot_srcs (k : Nat) (f : Slot → Slot) : (c.updSlot k f).srcs = c.srcs := rfl
@[simp] theorem Chip.updSlot_grps (k : Nat) (f : Slot → Slot) : (c.updSlot k f).grps = c.grps := rfl
@[simp] theorem Chip.updSlot_locks (k : Nat) (f : Slot → Slot) : (c.updSlot k f).locks = c.locks := rfl
@[simp] theorem Chip.updSlot_ram (k : Nat) (f : Slot → Slot) : (c.updSlot k f).ram = c.ram := rfl
@[simp] theorem Chip.updSlot_pwr (k : Nat) (f : Slot → Slot) : (c.updSlot k f).pwr = c.pwr := rfl
@[simp] theorem Chip.updSlot_rel (k : Nat) (f : Slot → Slot) : (c.updSlot k f).rel = c.rel := rfl
@[simp] theorem Chip.updSlot_spin (k : Nat) (f : Slot → Slot) : (c.updSlot k f).spin = c.spin := rfl
@[simp] theorem Chip.updSlot_fab (k : Nat) (f : Slot → Slot) : (c.updSlot k f).fab = c.fab := rfl
@[simp] theorem Chip.updSlot_waits (k : Nat) (f : Slot → Slot) : (c.updSlot k f).waits = c.waits := rfl
@[simp] theorem Chip.updSlot_ids (k : Nat) (f : Slot → Slot) : (c.updSlot k f).ids = c.ids := rfl
@[simp] theorem Chip.updSlot_free (k : Nat) (f : Slot → Slot) : (c.updSlot k f).free = c.free := rfl
@[simp] theorem Chip.updSlot_out (k : Nat) (f : Slot → Slot) : (c.updSlot k f).out = c.out := rfl
theorem Chip.slot_updSlot (j k : Nat) (f : Slot → Slot) : (c.updSlot k f).slot j = if j = k then f (c.slot k) else c.slot j :=
  Tbl.get_upd ({} : Slot) c.slots j k f
@[simp] theorem Chip.slot_updSlot_same (k : Nat) (f : Slot → Slot) : (c.updSlot k f).slot k = f (c.slot k) :=
    Tbl.get_upd_same ({} : Slot) c.slots k f
theorem Chip.updSlot_updSlot (k : Nat) (f g : Slot → Slot) : (c.updSlot k f).updSlot k g = c.updSlot k (fun x => g (f x)) := by
  simp [Chip.updSlot, Tbl.upd]
theorem Chip.updSlot_congr (k : Nat) (f g : Slot → Slot) (h : f (c.slot k) = g (c.slot k)) : c.updSlot k f = c.updSlot k g := by
  unfold Chip.updSlot Tbl.upd
  rw [show f (Tbl.get ({} : Slot) c.slots k) = g (Tbl.get ({} : Slot) c.slots k) from h]
@[simp] theorem Chip.inst_updSlot (j k : Nat) (f : Slot → Slot) : (c.updSlot k f).inst j = c.inst j := rfl
@[simp] theorem Chip.ep_updSlot (j k : Nat) (f : Slot → Slot) : (c.updSlot k f).ep j = c.ep j := rfl
@[simp] theorem Chip.port_updSlot (j k : Nat) (f : Slot → Slot) : (c.updSlot k f).port j = c.port j := rfl
@[simp] theorem Chip.ssp_updSlot (j k : Nat) (f : Slot → Slot) : (c.updSlot k f).ssp j = c.ssp j := rfl
@[simp] theorem Chip.bus_updSlot (j k : Nat) (f : Slot → Slot) : (c.updSlot k f).bus j = c.bus j := rfl
@[simp] theorem Chip.queue_updSlot (j k : Nat) (f : Slot → Slot) : (c.updSlot k f).queue j = c.queue j := rfl
@[simp] theorem Chip.src_updSlot (j k : Nat) (f : Slot → Slot) : (c.updSlot k f).src j = c.src j := rfl
@[simp] theorem Chip.grp_updSlot (j k : Nat) (f : Slot → Slot) : (c.updSlot k f).grp j = c.grp j := rfl
@[simp] theorem Chip.fielder_updSlot (j k : Nat) (f : Slot → Slot) : (c.updSlot k f).fielder j = c.fielder j := rfl
@[simp] theorem Chip.share_updSlot (j k : Nat) (f : Slot → Slot) : (c.updSlot k f).share j = c.share j := rfl

/-! ### updEp -/

@[simp] theorem Chip.updEp_straps (k : Nat) (f : Ep → Ep) : (c.updEp k f).straps = c.straps := rfl
@[simp] theorem Chip.updEp_hold (k : Nat) (f : Ep → Ep) : (c.updEp k f).hold = c.hold := rfl
@[simp] theorem Chip.updEp_boot (k : Nat) (f : Ep → Ep) : (c.updEp k f).boot = c.boot := rfl
@[simp] theorem Chip.updEp_link0 (k : Nat) (f : Ep → Ep) : (c.updEp k f).link0 = c.link0 := rfl
@[simp] theorem Chip.updEp_link1 (k : Nat) (f : Ep → Ep) : (c.updEp k f).link1 = c.link1 := rfl
@[simp] theorem Chip.updEp_fuse (k : Nat) (f : Ep → Ep) : (c.updEp k f).fuse = c.fuse := rfl
@[simp] theorem Chip.updEp_jtag (k : Nat) (f : Ep → Ep) : (c.updEp k f).jtag = c.jtag := rfl
@[simp] theorem Chip.updEp_otpKey (k : Nat) (f : Ep → Ep) : (c.updEp k f).otpKey = c.otpKey := rfl
@[simp] theorem Chip.updEp_fw (k : Nat) (f : Ep → Ep) : (c.updEp k f).fw = c.fw := rfl
@[simp] theorem Chip.updEp_mgr (k : Nat) (f : Ep → Ep) : (c.updEp k f).mgr = c.mgr := rfl
@[simp] theorem Chip.updEp_smb (k : Nat) (f : Ep → Ep) : (c.updEp k f).smb = c.smb := rfl
@[simp] theorem Chip.updEp_cap (k : Nat) (f : Ep → Ep) : (c.updEp k f).cap = c.cap := rfl
@[simp] theorem Chip.updEp_mf (k : Nat) (f : Ep → Ep) : (c.updEp k f).mf = c.mf := rfl
@[simp] theorem Chip.updEp_us (k : Nat) (f : Ep → Ep) : (c.updEp k f).us = c.us := rfl
@[simp] theorem Chip.updEp_usNow (k : Nat) (f : Ep → Ep) : (c.updEp k f).usNow = c.usNow := rfl
@[simp] theorem Chip.updEp_insts (k : Nat) (f : Ep → Ep) : (c.updEp k f).insts = c.insts := rfl
@[simp] theorem Chip.updEp_slots (k : Nat) (f : Ep → Ep) : (c.updEp k f).slots = c.slots := rfl
@[simp] theorem Chip.updEp_peps (k : Nat) (f : Ep → Ep) : (c.updEp k f).peps = c.peps := rfl
@[simp] theorem Chip.updEp_pepOrder (k : Nat) (f : Ep → Ep) : (c.updEp k f).pepOrder = c.pepOrder := rfl
@[simp] theorem Chip.updEp_tts (k : Nat) (f : Ep → Ep) : (c.updEp k f).tts = c.tts := rfl
@[simp] theorem Chip.updEp_buses (k : Nat) (f : Ep → Ep) : (c.updEp k f).buses = c.buses := rfl
@[simp] theorem Chip.updEp_queues (k : Nat) (f : Ep → Ep) : (c.updEp k f).queues = c.queues := rfl
@[simp] theorem Chip.updEp_rally (k : Nat) (f : Ep → Ep) : (c.updEp k f).rally = c.rally := rfl
@[simp] theorem Chip.updEp_ports (k : Nat) (f : Ep → Ep) : (c.updEp k f).ports = c.ports := rfl
@[simp] theorem Chip.updEp_ssps (k : Nat) (f : Ep → Ep) : (c.updEp k f).ssps = c.ssps := rfl
@[simp] theorem Chip.updEp_pass (k : Nat) (f : Ep → Ep) : (c.updEp k f).pass = c.pass := rfl
@[simp] theorem Chip.updEp_shares (k : Nat) (f : Ep → Ep) : (c.updEp k f).shares = c.shares := rfl
@[simp] theorem Chip.updEp_jobs (k : Nat) (f : Ep → Ep) : (c.updEp k f).jobs = c.jobs := rfl
@[simp] theorem Chip.updEp_shareWait (k : Nat) (f : Ep → Ep) : (c.updEp k f).shareWait = c.shareWait := rfl
@[simp] theorem Chip.updEp_internals (k : Nat) (f : Ep → Ep) : (c.updEp k f).internals = c.internals := rfl
@[simp] theorem Chip.updEp_fielders (k : Nat) (f : Ep → Ep) : (c.updEp k f).fielders = c.fielders := rfl
@[simp] theorem Chip.updEp_srcs (k : Nat) (f : Ep → Ep) : (c.updEp k f).srcs = c.srcs := rfl
@[simp] theorem Chip.updEp_grps (k : Nat) (f : Ep → Ep) : (c.updEp k f).grps = c.grps := rfl
@[simp] theorem Chip.updEp_locks (k : Nat) (f : Ep → Ep) : (c.updEp k f).locks = c.locks := rfl
@[simp] theorem Chip.updEp_ram (k : Nat) (f : Ep → Ep) : (c.updEp k f).ram = c.ram := rfl
@[simp] theorem Chip.updEp_pwr (k : Nat) (f : Ep → Ep) : (c.updEp k f).pwr = c.pwr := rfl
@[simp] theorem Chip.updEp_rel (k : Nat) (f : Ep → Ep) : (c.updEp k f).rel = c.rel := rfl
@[simp] theorem Chip.updEp_spin (k : Nat) (f : Ep → Ep) : (c.updEp k f).spin = c.spin := rfl
@[simp] theorem Chip.updEp_fab (k : Nat) (f : Ep → Ep) : (c.updEp k f).fab = c.fab := rfl
@[simp] theorem Chip.updEp_waits (k : Nat) (f : Ep → Ep) : (c.updEp k f).waits = c.waits := rfl
@[simp] theorem Chip.updEp_ids (k : Nat) (f : Ep → Ep) : (c.updEp k f).ids = c.ids := rfl
@[simp] theorem Chip.updEp_free (k : Nat) (f : Ep → Ep) : (c.updEp k f).free = c.free := rfl
@[simp] theorem Chip.updEp_out (k : Nat) (f : Ep → Ep) : (c.updEp k f).out = c.out := rfl
theorem Chip.ep_updEp (j k : Nat) (f : Ep → Ep) : (c.updEp k f).ep j = if j = k then f (c.ep k) else c.ep j :=
  Tbl.get_upd ({} : Ep) c.eps j k f
@[simp] theorem Chip.ep_updEp_same (k : Nat) (f : Ep → Ep) : (c.updEp k f).ep k = f (c.ep k) := Tbl.get_upd_same ({} : Ep) c.eps k f
theorem Chip.updEp_updEp (k : Nat) (f g : Ep → Ep) : (c.updEp k f).updEp k g = c.updEp k (fun x => g (f x)) := by
  simp [Chip.updEp, Tbl.upd]
theorem Chip.updEp_congr (k : Nat) (f g : Ep → Ep) (h : f (c.ep k) = g (c.ep k)) : c.updEp k f = c.updEp k g := by
  unfold Chip.updEp Tbl.upd
  rw [show f (Tbl.get ({} : Ep) c.eps k) = g (Tbl.get ({} : Ep) c.eps k) from h]
@[simp] theorem Chip.inst_updEp (j k : Nat) (f : Ep → Ep) : (c.updEp k f).inst j = c.inst j := rfl
@[simp] theorem Chip.slot_updEp (j k : Nat) (f : Ep → Ep) : (c.updEp k f).slot j = c.slot j := rfl
@[simp] theorem Chip.port_updEp (j k : Nat) (f : Ep → Ep) : (c.updEp k f).port j = c.port j := rfl
@[simp] theorem Chip.ssp_updEp (j k : Nat) (f : Ep → Ep) : (c.updEp k f).ssp j = c.ssp j := rfl
@[simp] theorem Chip.bus_updEp (j k : Nat) (f : Ep → Ep) : (c.updEp k f).bus j = c.bus j := rfl
@[simp] theorem Chip.queue_updEp (j k : Nat) (f : Ep → Ep) : (c.updEp k f).queue j = c.queue j := rfl
@[simp] theorem Chip.src_updEp (j k : Nat) (f : Ep → Ep) : (c.updEp k f).src j = c.src j := rfl
@[simp] theorem Chip.grp_updEp (j k : Nat) (f : Ep → Ep) : (c.updEp k f).grp j = c.grp j := rfl
@[simp] theorem Chip.fielder_updEp (j k : Nat) (f : Ep → Ep) : (c.updEp k f).fielder j = c.fielder j := rfl
@[simp] theorem Chip.share_updEp (j k : Nat) (f : Ep → Ep) : (c.updEp k f).share j = c.share j := rfl

/-! ### updPort -/

@[simp] theorem Chip.updPort_straps (k : Nat) (f : Port → Port) : (c.updPort k f).straps = c.straps := rfl
@[simp] theorem Chip.updPort_hold (k : Nat) (f : Port → Port) : (c.updPort k f).hold = c.hold := rfl
@[simp] theorem Chip.updPort_boot (k : Nat) (f : Port → Port) : (c.updPort k f).boot = c.boot := rfl
@[simp] theorem Chip.updPort_link0 (k : Nat) (f : Port → Port) : (c.updPort k f).link0 = c.link0 := rfl
@[simp] theorem Chip.updPort_link1 (k : Nat) (f : Port → Port) : (c.updPort k f).link1 = c.link1 := rfl
@[simp] theorem Chip.updPort_fuse (k : Nat) (f : Port → Port) : (c.updPort k f).fuse = c.fuse := rfl
@[simp] theorem Chip.updPort_jtag (k : Nat) (f : Port → Port) : (c.updPort k f).jtag = c.jtag := rfl
@[simp] theorem Chip.updPort_otpKey (k : Nat) (f : Port → Port) : (c.updPort k f).otpKey = c.otpKey := rfl
@[simp] theorem Chip.updPort_fw (k : Nat) (f : Port → Port) : (c.updPort k f).fw = c.fw := rfl
@[simp] theorem Chip.updPort_mgr (k : Nat) (f : Port → Port) : (c.updPort k f).mgr = c.mgr := rfl
@[simp] theorem Chip.updPort_smb (k : Nat) (f : Port → Port) : (c.updPort k f).smb = c.smb := rfl
@[simp] theorem Chip.updPort_cap (k : Nat) (f : Port → Port) : (c.updPort k f).cap = c.cap := rfl
@[simp] theorem Chip.updPort_mf (k : Nat) (f : Port → Port) : (c.updPort k f).mf = c.mf := rfl
@[simp] theorem Chip.updPort_us (k : Nat) (f : Port → Port) : (c.updPort k f).us = c.us := rfl
@[simp] theorem Chip.updPort_usNow (k : Nat) (f : Port → Port) : (c.updPort k f).usNow = c.usNow := rfl
@[simp] theorem Chip.updPort_insts (k : Nat) (f : Port → Port) : (c.updPort k f).insts = c.insts := rfl
@[simp] theorem Chip.updPort_slots (k : Nat) (f : Port → Port) : (c.updPort k f).slots = c.slots := rfl
@[simp] theorem Chip.updPort_eps (k : Nat) (f : Port → Port) : (c.updPort k f).eps = c.eps := rfl
@[simp] theorem Chip.updPort_peps (k : Nat) (f : Port → Port) : (c.updPort k f).peps = c.peps := rfl
@[simp] theorem Chip.updPort_pepOrder (k : Nat) (f : Port → Port) : (c.updPort k f).pepOrder = c.pepOrder := rfl
@[simp] theorem Chip.updPort_tts (k : Nat) (f : Port → Port) : (c.updPort k f).tts = c.tts := rfl
@[simp] theorem Chip.updPort_buses (k : Nat) (f : Port → Port) : (c.updPort k f).buses = c.buses := rfl
@[simp] theorem Chip.updPort_queues (k : Nat) (f : Port → Port) : (c.updPort k f).queues = c.queues := rfl
@[simp] theorem Chip.updPort_rally (k : Nat) (f : Port → Port) : (c.updPort k f).rally = c.rally := rfl
@[simp] theorem Chip.updPort_ssps (k : Nat) (f : Port → Port) : (c.updPort k f).ssps = c.ssps := rfl
@[simp] theorem Chip.updPort_pass (k : Nat) (f : Port → Port) : (c.updPort k f).pass = c.pass := rfl
@[simp] theorem Chip.updPort_shares (k : Nat) (f : Port → Port) : (c.updPort k f).shares = c.shares := rfl
@[simp] theorem Chip.updPort_jobs (k : Nat) (f : Port → Port) : (c.updPort k f).jobs = c.jobs := rfl
@[simp] theorem Chip.updPort_shareWait (k : Nat) (f : Port → Port) : (c.updPort k f).shareWait = c.shareWait := rfl
@[simp] theorem Chip.updPort_internals (k : Nat) (f : Port → Port) : (c.updPort k f).internals = c.internals := rfl
@[simp] theorem Chip.updPort_fielders (k : Nat) (f : Port → Port) : (c.updPort k f).fielders = c.fielders := rfl
@[simp] theorem Chip.updPort_srcs (k : Nat) (f : Port → Port) : (c.updPort k f).srcs = c.srcs := rfl
@[simp] theorem Chip.updPort_grps (k : Nat) (f : Port → Port) : (c.updPort k f).grps = c.grps := rfl
@[simp] theorem Chip.updPort_locks (k : Nat) (f : Port → Port) : (c.updPort k f).locks = c.locks := rfl
@[simp] theorem Chip.updPort_ram (k : Nat) (f : Port → Port) : (c.updPort k f).ram = c.ram := rfl
@[simp] theorem Chip.updPort_pwr (k : Nat) (f : Port → Port) : (c.updPort k f).pwr = c.pwr := rfl
@[simp] theorem Chip.updPort_rel (k : Nat) (f : Port → Port) : (c.updPort k f).rel = c.rel := rfl
@[simp] theorem Chip.updPort_spin (k : Nat) (f : Port → Port) : (c.updPort k f).spin = c.spin := rfl
@[simp] theorem Chip.updPort_fab (k : Nat) (f : Port → Port) : (c.updPort k f).fab = c.fab := rfl
@[simp] theorem Chip.updPort_waits (k : Nat) (f : Port → Port) : (c.updPort k f).waits = c.waits := rfl
@[simp] theorem Chip.updPort_ids (k : Nat) (f : Port → Port) : (c.updPort k f).ids = c.ids := rfl
@[simp] theorem Chip.updPort_free (k : Nat) (f : Port → Port) : (c.updPort k f).free = c.free := rfl
@[simp] theorem Chip.updPort_out (k : Nat) (f : Port → Port) : (c.updPort k f).out = c.out := rfl
theorem Chip.port_updPort (j k : Nat) (f : Port → Port) : (c.updPort k f).port j = if j = k then f (c.port k) else c.port j :=
  Tbl.get_upd ({} : Port) c.ports j k f
@[simp] theorem Chip.port_updPort_same (k : Nat) (f : Port → Port) : (c.updPort k f).port k = f (c.port k) :=
    Tbl.get_upd_same ({} : Port) c.ports k f
theorem Chip.updPort_updPort (k : Nat) (f g : Port → Port) : (c.updPort k f).updPort k g = c.updPort k (fun x => g (f x)) := by
  simp [Chip.updPort, Tbl.upd]
theorem Chip.updPort_congr (k : Nat) (f g : Port → Port) (h : f (c.port k) = g (c.port k)) : c.updPort k f = c.updPort k g := by
  unfold Chip.updPort Tbl.upd
  rw [show f (Tbl.get ({} : Port) c.ports k) = g (Tbl.get ({} : Port) c.ports k) from h]
@[simp] theorem Chip.inst_updPort (j k : Nat) (f : Port → Port) : (c.updPort k f).inst j = c.inst j := rfl
@[simp] theorem Chip.slot_updPort (j k : Nat) (f : Port → Port) : (c.updPort k f).slot j = c.slot j := rfl
@[simp] theorem Chip.ep_updPort (j k : Nat) (f : Port → Port) : (c.updPort k f).ep j = c.ep j := rfl
@[simp] theorem Chip.ssp_updPort (j k : Nat) (f : Port → Port) : (c.updPort k f).ssp j = c.ssp j := rfl
@[simp] theorem Chip.bus_updPort (j k : Nat) (f : Port → Port) : (c.updPort k f).bus j = c.bus j := rfl
@[simp] theorem Chip.queue_updPort (j k : Nat) (f : Port → Port) : (c.updPort k f).queue j = c.queue j := rfl
@[simp] theorem Chip.src_updPort (j k : Nat) (f : Port → Port) : (c.updPort k f).src j = c.src j := rfl
@[simp] theorem Chip.grp_updPort (j k : Nat) (f : Port → Port) : (c.updPort k f).grp j = c.grp j := rfl
@[simp] theorem Chip.fielder_updPort (j k : Nat) (f : Port → Port) : (c.updPort k f).fielder j = c.fielder j := rfl
@[simp] theorem Chip.share_updPort (j k : Nat) (f : Port → Port) : (c.updPort k f).share j = c.share j := rfl

/-! ### updSsp -/

@[simp] theorem Chip.updSsp_straps (k : Nat) (f : Ssp → Ssp) : (c.updSsp k f).straps = c.straps := rfl
@[simp] theorem Chip.updSsp_hold (k : Nat) (f : Ssp → Ssp) : (c.updSsp k f).hold = c.hold := rfl
@[simp] theorem Chip.updSsp_boot (k : Nat) (f : Ssp → Ssp) : (c.updSsp k f).boot = c.boot := rfl
@[simp] theorem Chip.updSsp_link0 (k : Nat) (f : Ssp → Ssp) : (c.updSsp k f).link0 = c.link0 := rfl
@[simp] theorem Chip.updSsp_link1 (k : Nat) (f : Ssp → Ssp) : (c.updSsp k f).link1 = c.link1 := rfl
@[simp] theorem Chip.updSsp_fuse (k : Nat) (f : Ssp → Ssp) : (c.updSsp k f).fuse = c.fuse := rfl
@[simp] theorem Chip.updSsp_jtag (k : Nat) (f : Ssp → Ssp) : (c.updSsp k f).jtag = c.jtag := rfl
@[simp] theorem Chip.updSsp_otpKey (k : Nat) (f : Ssp → Ssp) : (c.updSsp k f).otpKey = c.otpKey := rfl
@[simp] theorem Chip.updSsp_fw (k : Nat) (f : Ssp → Ssp) : (c.updSsp k f).fw = c.fw := rfl
@[simp] theorem Chip.updSsp_mgr (k : Nat) (f : Ssp → Ssp) : (c.updSsp k f).mgr = c.mgr := rfl
@[simp] theorem Chip.updSsp_smb (k : Nat) (f : Ssp → Ssp) : (c.updSsp k f).smb = c.smb := rfl
@[simp] theorem Chip.updSsp_cap (k : Nat) (f : Ssp → Ssp) : (c.updSsp k f).cap = c.cap := rfl
@[simp] theorem Chip.updSsp_mf (k : Nat) (f : Ssp → Ssp) : (c.updSsp k f).mf = c.mf := rfl
@[simp] theorem Chip.updSsp_us (k : Nat) (f : Ssp → Ssp) : (c.updSsp k f).us = c.us := rfl
@[simp] theorem Chip.updSsp_usNow (k : Nat) (f : Ssp → Ssp) : (c.updSsp k f).usNow = c.usNow := rfl
@[simp] theorem Chip.updSsp_insts (k : Nat) (f : Ssp → Ssp) : (c.updSsp k f).insts = c.insts := rfl
@[simp] theorem Chip.updSsp_slots (k : Nat) (f : Ssp → Ssp) : (c.updSsp k f).slots = c.slots := rfl
@[simp] theorem Chip.updSsp_eps (k : Nat) (f : Ssp → Ssp) : (c.updSsp k f).eps = c.eps := rfl
@[simp] theorem Chip.updSsp_peps (k : Nat) (f : Ssp → Ssp) : (c.updSsp k f).peps = c.peps := rfl
@[simp] theorem Chip.updSsp_pepOrder (k : Nat) (f : Ssp → Ssp) : (c.updSsp k f).pepOrder = c.pepOrder := rfl
@[simp] theorem Chip.updSsp_tts (k : Nat) (f : Ssp → Ssp) : (c.updSsp k f).tts = c.tts := rfl
@[simp] theorem Chip.updSsp_buses (k : Nat) (f : Ssp → Ssp) : (c.updSsp k f).buses = c.buses := rfl
@[simp] theorem Chip.updSsp_queues (k : Nat) (f : Ssp → Ssp) : (c.updSsp k f).queues = c.queues := rfl
@[simp] theorem Chip.updSsp_rally (k : Nat) (f : Ssp → Ssp) : (c.updSsp k f).rally = c.rally := rfl
@[simp] theorem Chip.updSsp_ports (k : Nat) (f : Ssp → Ssp) : (c.updSsp k f).ports = c.ports := rfl
@[simp] theorem Chip.updSsp_pass (k : Nat) (f : Ssp → Ssp) : (c.updSsp k f).pass = c.pass := rfl
@[simp] theorem Chip.updSsp_shares (k : Nat) (f : Ssp → Ssp) : (c.updSsp k f).shares = c.shares := rfl
@[simp] theorem Chip.updSsp_jobs (k : Nat) (f : Ssp → Ssp) : (c.updSsp k f).jobs = c.jobs := rfl
@[simp] theorem Chip.updSsp_shareWait (k : Nat) (f : Ssp → Ssp) : (c.updSsp k f).shareWait = c.shareWait := rfl
@[simp] theorem Chip.updSsp_internals (k : Nat) (f : Ssp → Ssp) : (c.updSsp k f).internals = c.internals := rfl
@[simp] theorem Chip.updSsp_fielders (k : Nat) (f : Ssp → Ssp) : (c.updSsp k f).fielders = c.fielders := rfl
@[simp] theorem Chip.updSsp_srcs (k : Nat) (f : Ssp → Ssp) : (c.updSsp k f).srcs = c.srcs := rfl
@[simp] theorem Chip.updSsp_grps (k : Nat) (f : Ssp → Ssp) : (c.updSsp k f).grps = c.grps := rfl
@[simp] theorem Chip.updSsp_locks (k : Nat) (f : Ssp → Ssp) : (c.updSsp k f).locks = c.locks := rfl
@[simp] theorem Chip.updSsp_ram (k : Nat) (f : Ssp → Ssp) : (c.updSsp k f).ram = c.ram := rfl
@[simp] theorem Chip.updSsp_pwr (k : Nat) (f : Ssp → Ssp) : (c.updSsp k f).pwr = c.pwr := rfl
@[simp] theorem Chip.updSsp_rel (k : Nat) (f : Ssp → Ssp) : (c.updSsp k f).rel = c.rel := rfl
@[simp] theorem Chip.updSsp_spin (k : Nat) (f : Ssp → Ssp) : (c.updSsp k f).spin = c.spin := rfl
@[simp] theorem Chip.updSsp_fab (k : Nat) (f : Ssp → Ssp) : (c.updSsp k f).fab = c.fab := rfl
@[simp] theorem Chip.updSsp_waits (k : Nat) (f : Ssp → Ssp) : (c.updSsp k f).waits = c.waits := rfl
@[simp] theorem Chip.updSsp_ids (k : Nat) (f : Ssp → Ssp) : (c.updSsp k f).ids = c.ids := rfl
@[simp] theorem Chip.updSsp_free (k : Nat) (f : Ssp → Ssp) : (c.updSsp k f).free = c.free := rfl
@[simp] theorem Chip.updSsp_out (k : Nat) (f : Ssp → Ssp) : (c.updSsp k f).out = c.out := rfl
theorem Chip.ssp_updSsp (j k : Nat) (f : Ssp → Ssp) : (c.updSsp k f).ssp j = if j = k then f (c.ssp k) else c.ssp j :=
  Tbl.get_upd ({} : Ssp) c.ssps j k f
@[simp] theorem Chip.ssp_updSsp_same (k : Nat) (f : Ssp → Ssp) : (c.updSsp k f).ssp k = f (c.ssp k) :=
    Tbl.get_upd_same ({} : Ssp) c.ssps k f
theorem Chip.updSsp_updSsp (k : Nat) (f g : Ssp → Ssp) : (c.updSsp k f).updSsp k g = c.updSsp k (fun x => g (f x)) := by
  simp [Chip.updSsp, Tbl.upd]
theorem Chip.updSsp_congr (k : Nat) (f g : Ssp → Ssp) (h : f (c.ssp k) = g (c.ssp k)) : c.updSsp k f = c.updSsp k g := by
  unfold Chip.updSsp Tbl.upd
  rw [show f (Tbl.get ({} : Ssp) c.ssps k) = g (Tbl.get ({} : Ssp) c.ssps k) from h]
@[simp] theorem Chip.inst_updSsp (j k : Nat) (f : Ssp → Ssp) : (c.updSsp k f).inst j = c.inst j := rfl
@[simp] theorem Chip.slot_updSsp (j k : Nat) (f : Ssp → Ssp) : (c.updSsp k f).slot j = c.slot j := rfl
@[simp] theorem Chip.ep_updSsp (j k : Nat) (f : Ssp → Ssp) : (c.updSsp k f).ep j = c.ep j := rfl
@[simp] theorem Chip.port_updSsp (j k : Nat) (f : Ssp → Ssp) : (c.updSsp k f).port j = c.port j := rfl
@[simp] theorem Chip.bus_updSsp (j k : Nat) (f : Ssp → Ssp) : (c.updSsp k f).bus j = c.bus j := rfl
@[simp] theorem Chip.queue_updSsp (j k : Nat) (f : Ssp → Ssp) : (c.updSsp k f).queue j = c.queue j := rfl
@[simp] theorem Chip.src_updSsp (j k : Nat) (f : Ssp → Ssp) : (c.updSsp k f).src j = c.src j := rfl
@[simp] theorem Chip.grp_updSsp (j k : Nat) (f : Ssp → Ssp) : (c.updSsp k f).grp j = c.grp j := rfl
@[simp] theorem Chip.fielder_updSsp (j k : Nat) (f : Ssp → Ssp) : (c.updSsp k f).fielder j = c.fielder j := rfl
@[simp] theorem Chip.share_updSsp (j k : Nat) (f : Ssp → Ssp) : (c.updSsp k f).share j = c.share j := rfl

/-! ### updBus -/

@[simp] theorem Chip.updBus_straps (k : Nat) (f : Bus → Bus) : (c.updBus k f).straps = c.straps := rfl
@[simp] theorem Chip.updBus_hold (k : Nat) (f : Bus → Bus) : (c.updBus k f).hold = c.hold := rfl
@[simp] theorem Chip.updBus_boot (k : Nat) (f : Bus → Bus) : (c.updBus k f).boot = c.boot := rfl
@[simp] theorem Chip.updBus_link0 (k : Nat) (f : Bus → Bus) : (c.updBus k f).link0 = c.link0 := rfl
@[simp] theorem Chip.updBus_link1 (k : Nat) (f : Bus → Bus) : (c.updBus k f).link1 = c.link1 := rfl
@[simp] theorem Chip.updBus_fuse (k : Nat) (f : Bus → Bus) : (c.updBus k f).fuse = c.fuse := rfl
@[simp] theorem Chip.updBus_jtag (k : Nat) (f : Bus → Bus) : (c.updBus k f).jtag = c.jtag := rfl
@[simp] theorem Chip.updBus_otpKey (k : Nat) (f : Bus → Bus) : (c.updBus k f).otpKey = c.otpKey := rfl
@[simp] theorem Chip.updBus_fw (k : Nat) (f : Bus → Bus) : (c.updBus k f).fw = c.fw := rfl
@[simp] theorem Chip.updBus_mgr (k : Nat) (f : Bus → Bus) : (c.updBus k f).mgr = c.mgr := rfl
@[simp] theorem Chip.updBus_smb (k : Nat) (f : Bus → Bus) : (c.updBus k f).smb = c.smb := rfl
@[simp] theorem Chip.updBus_cap (k : Nat) (f : Bus → Bus) : (c.updBus k f).cap = c.cap := rfl
@[simp] theorem Chip.updBus_mf (k : Nat) (f : Bus → Bus) : (c.updBus k f).mf = c.mf := rfl
@[simp] theorem Chip.updBus_us (k : Nat) (f : Bus → Bus) : (c.updBus k f).us = c.us := rfl
@[simp] theorem Chip.updBus_usNow (k : Nat) (f : Bus → Bus) : (c.updBus k f).usNow = c.usNow := rfl
@[simp] theorem Chip.updBus_insts (k : Nat) (f : Bus → Bus) : (c.updBus k f).insts = c.insts := rfl
@[simp] theorem Chip.updBus_slots (k : Nat) (f : Bus → Bus) : (c.updBus k f).slots = c.slots := rfl
@[simp] theorem Chip.updBus_eps (k : Nat) (f : Bus → Bus) : (c.updBus k f).eps = c.eps := rfl
@[simp] theorem Chip.updBus_peps (k : Nat) (f : Bus → Bus) : (c.updBus k f).peps = c.peps := rfl
@[simp] theorem Chip.updBus_pepOrder (k : Nat) (f : Bus → Bus) : (c.updBus k f).pepOrder = c.pepOrder := rfl
@[simp] theorem Chip.updBus_tts (k : Nat) (f : Bus → Bus) : (c.updBus k f).tts = c.tts := rfl
@[simp] theorem Chip.updBus_queues (k : Nat) (f : Bus → Bus) : (c.updBus k f).queues = c.queues := rfl
@[simp] theorem Chip.updBus_rally (k : Nat) (f : Bus → Bus) : (c.updBus k f).rally = c.rally := rfl
@[simp] theorem Chip.updBus_ports (k : Nat) (f : Bus → Bus) : (c.updBus k f).ports = c.ports := rfl
@[simp] theorem Chip.updBus_ssps (k : Nat) (f : Bus → Bus) : (c.updBus k f).ssps = c.ssps := rfl
@[simp] theorem Chip.updBus_pass (k : Nat) (f : Bus → Bus) : (c.updBus k f).pass = c.pass := rfl
@[simp] theorem Chip.updBus_shares (k : Nat) (f : Bus → Bus) : (c.updBus k f).shares = c.shares := rfl
@[simp] theorem Chip.updBus_jobs (k : Nat) (f : Bus → Bus) : (c.updBus k f).jobs = c.jobs := rfl
@[simp] theorem Chip.updBus_shareWait (k : Nat) (f : Bus → Bus) : (c.updBus k f).shareWait = c.shareWait := rfl
@[simp] theorem Chip.updBus_internals (k : Nat) (f : Bus → Bus) : (c.updBus k f).internals = c.internals := rfl
@[simp] theorem Chip.updBus_fielders (k : Nat) (f : Bus → Bus) : (c.updBus k f).fielders = c.fielders := rfl
@[simp] theorem Chip.updBus_srcs (k : Nat) (f : Bus → Bus) : (c.updBus k f).srcs = c.srcs := rfl
@[simp] theorem Chip.updBus_grps (k : Nat) (f : Bus → Bus) : (c.updBus k f).grps = c.grps := rfl
@[simp] theorem Chip.updBus_locks (k : Nat) (f : Bus → Bus) : (c.updBus k f).locks = c.locks := rfl
@[simp] theorem Chip.updBus_ram (k : Nat) (f : Bus → Bus) : (c.updBus k f).ram = c.ram := rfl
@[simp] theorem Chip.updBus_pwr (k : Nat) (f : Bus → Bus) : (c.updBus k f).pwr = c.pwr := rfl
@[simp] theorem Chip.updBus_rel (k : Nat) (f : Bus → Bus) : (c.updBus k f).rel = c.rel := rfl
@[simp] theorem Chip.updBus_spin (k : Nat) (f : Bus → Bus) : (c.updBus k f).spin = c.spin := rfl
@[simp] theorem Chip.updBus_fab (k : Nat) (f : Bus → Bus) : (c.updBus k f).fab = c.fab := rfl
@[simp] theorem Chip.updBus_waits (k : Nat) (f : Bus → Bus) : (c.updBus k f).waits = c.waits := rfl
@[simp] theorem Chip.updBus_ids (k : Nat) (f : Bus → Bus) : (c.updBus k f).ids = c.ids := rfl
@[simp] theorem Chip.updBus_free (k : Nat) (f : Bus → Bus) : (c.updBus k f).free = c.free := rfl
@[simp] theorem Chip.updBus_out (k : Nat) (f : Bus → Bus) : (c.updBus k f).out = c.out := rfl
theorem Chip.bus_updBus (j k : Nat) (f : Bus → Bus) : (c.updBus k f).bus j = if j = k then f (c.bus k) else c.bus j :=
  Tbl.get_upd ({} : Bus) c.buses j k f
@[simp] theorem Chip.bus_updBus_same (k : Nat) (f : Bus → Bus) : (c.updBus k f).bus k = f (c.bus k) :=
    Tbl.get_upd_same ({} : Bus) c.buses k f
theorem Chip.updBus_updBus (k : Nat) (f g : Bus → Bus) : (c.updBus k f).updBus k g = c.updBus k (fun x => g (f x)) := by
  simp [Chip.updBus, Tbl.upd]
theorem Chip.updBus_congr (k : Nat) (f g : Bus → Bus) (h : f (c.bus k) = g (c.bus k)) : c.updBus k f = c.updBus k g := by
  unfold Chip.updBus Tbl.upd
  rw [show f (Tbl.get ({} : Bus) c.buses k) = g (Tbl.get ({} : Bus) c.buses k) from h]
@[simp] theorem Chip.inst_updBus (j k : Nat) (f : Bus → Bus) : (c.updBus k f).inst j = c.inst j := rfl
@[simp] theorem Chip.slot_updBus (j k : Nat) (f : Bus → Bus) : (c.updBus k f).slot j = c.slot j := rfl
@[simp] theorem Chip.ep_updBus (j k : Nat) (f : Bus → Bus) : (c.updBus k f).ep j = c.ep j := rfl
@[simp] theorem Chip.port_updBus (j k : Nat) (f : Bus → Bus) : (c.updBus k f).port j = c.port j := rfl
@[simp] theorem Chip.ssp_updBus (j k : Nat) (f : Bus → Bus) : (c.updBus k f).ssp j = c.ssp j := rfl
@[simp] theorem Chip.src_updBus (j k : Nat) (f : Bus → Bus) : (c.updBus k f).src j = c.src j := rfl
@[simp] theorem Chip.grp_updBus (j k : Nat) (f : Bus → Bus) : (c.updBus k f).grp j = c.grp j := rfl
@[simp] theorem Chip.fielder_updBus (j k : Nat) (f : Bus → Bus) : (c.updBus k f).fielder j = c.fielder j := rfl
@[simp] theorem Chip.share_updBus (j k : Nat) (f : Bus → Bus) : (c.updBus k f).share j = c.share j := rfl
theorem Chip.queue_updBus (j k : Nat) (f : Bus → Bus) (h : (f (c.bus k)).idleTag = (c.bus k).idleTag) :
    (c.updBus k f).queue j = c.queue j := by
  simp only [Chip.queue, Chip.idleQueue, Chip.updBus_queues, Chip.bus_updBus]
  split
  · next e => rw [h, e]
  · rfl

/-! ### updQueue -/

@[simp] theorem Chip.updQueue_straps (k : Nat) (f : Queue → Queue) : (c.updQueue k f).straps = c.straps := rfl
@[simp] theorem Chip.updQueue_hold (k : Nat) (f : Queue → Queue) : (c.updQueue k f).hold = c.hold := rfl
@[simp] theorem Chip.updQueue_boot (k : Nat) (f : Queue → Queue) : (c.updQueue k f).boot = c.boot := rfl
@[simp] theorem Chip.updQueue_link0 (k : Nat) (f : Queue → Queue) : (c.updQueue k f).link0 = c.link0 := rfl
@[simp] theorem Chip.updQueue_link1 (k : Nat) (f : Queue → Queue) : (c.updQueue k f).link1 = c.link1 := rfl
@[simp] theorem Chip.updQueue_fuse (k : Nat) (f : Queue → Queue) : (c.updQueue k f).fuse = c.fuse := rfl
@[simp] theorem Chip.updQueue_jtag (k : Nat) (f : Queue → Queue) : (c.updQueue k f).jtag = c.jtag := rfl
@[simp] theorem Chip.updQueue_otpKey (k : Nat) (f : Queue → Queue) : (c.updQueue k f).otpKey = c.otpKey := rfl
@[simp] theorem Chip.updQueue_fw (k : Nat) (f : Queue → Queue) : (c.updQueue k f).fw = c.fw := rfl
@[simp] theorem Chip.updQueue_mgr (k : Nat) (f : Queue → Queue) : (c.updQueue k f).mgr = c.mgr := rfl
@[simp] theorem Chip.updQueue_smb (k : Nat) (f : Queue → Queue) : (c.updQueue k f).smb = c.smb := rfl
@[simp] theorem Chip.updQueue_cap (k : Nat) (f : Queue → Queue) : (c.updQueue k f).cap = c.cap := rfl
@[simp] theorem Chip.updQueue_mf (k : Nat) (f : Queue → Queue) : (c.updQueue k f).mf = c.mf := rfl
@[simp] theorem Chip.updQueue_us (k : Nat) (f : Queue → Queue) : (c.updQueue k f).us = c.us := rfl
@[simp] theorem Chip.updQueue_usNow (k : Nat) (f : Queue → Queue) : (c.updQueue k f).usNow = c.usNow := rfl
@[simp] theorem Chip.updQueue_insts (k : Nat) (f : Queue → Queue) : (c.updQueue k f).insts = c.insts := rfl
@[simp] theorem Chip.updQueue_slots (k : Nat) (f : Queue → Queue) : (c.updQueue k f).slots = c.slots := rfl
@[simp] theorem Chip.updQueue_eps (k : Nat) (f : Queue → Queue) : (c.updQueue k f).eps = c.eps := rfl
@[simp] theorem Chip.updQueue_peps (k : Nat) (f : Queue → Queue) : (c.updQueue k f).peps = c.peps := rfl
@[simp] theorem Chip.updQueue_pepOrder (k : Nat) (f : Queue → Queue) : (c.updQueue k f).pepOrder = c.pepOrder := rfl
@[simp] theorem Chip.updQueue_tts (k : Nat) (f : Queue → Queue) : (c.updQueue k f).tts = c.tts := rfl
@[simp] theorem Chip.updQueue_buses (k : Nat) (f : Queue → Queue) : (c.updQueue k f).buses = c.buses := rfl
@[simp] theorem Chip.updQueue_rally (k : Nat) (f : Queue → Queue) : (c.updQueue k f).rally = c.rally := rfl
@[simp] theorem Chip.updQueue_ports (k : Nat) (f : Queue → Queue) : (c.updQueue k f).ports = c.ports := rfl
@[simp] theorem Chip.updQueue_ssps (k : Nat) (f : Queue → Queue) : (c.updQueue k f).ssps = c.ssps := rfl
@[simp] theorem Chip.updQueue_pass (k : Nat) (f : Queue → Queue) : (c.updQueue k f).pass = c.pass := rfl
@[simp] theorem Chip.updQueue_shares (k : Nat) (f : Queue → Queue) : (c.updQueue k f).shares = c.shares := rfl
@[simp] theorem Chip.updQueue_jobs (k : Nat) (f : Queue → Queue) : (c.updQueue k f).jobs = c.jobs := rfl
@[simp] theorem Chip.updQueue_shareWait (k : Nat) (f : Queue → Queue) : (c.updQueue k f).shareWait = c.shareWait := rfl
@[simp] theorem Chip.updQueue_internals (k : Nat) (f : Queue → Queue) : (c.updQueue k f).internals = c.internals := rfl
@[simp] theorem Chip.updQueue_fielders (k : Nat) (f : Queue → Queue) : (c.updQueue k f).fielders = c.fielders := rfl
@[simp] theorem Chip.updQueue_srcs (k : Nat) (f : Queue → Queue) : (c.updQueue k f).srcs = c.srcs := rfl
@[simp] theorem Chip.updQueue_grps (k : Nat) (f : Queue → Queue) : (c.updQueue k f).grps = c.grps := rfl
@[simp] theorem Chip.updQueue_locks (k : Nat) (f : Queue → Queue) : (c.updQueue k f).locks = c.locks := rfl
@[simp] theorem Chip.updQueue_ram (k : Nat) (f : Queue → Queue) : (c.updQueue k f).ram = c.ram := rfl
@[simp] theorem Chip.updQueue_pwr (k : Nat) (f : Queue → Queue) : (c.updQueue k f).pwr = c.pwr := rfl
@[simp] theorem Chip.updQueue_rel (k : Nat) (f : Queue → Queue) : (c.updQueue k f).rel = c.rel := rfl
@[simp] theorem Chip.updQueue_spin (k : Nat) (f : Queue → Queue) : (c.updQueue k f).spin = c.spin := rfl
@[simp] theorem Chip.updQueue_fab (k : Nat) (f : Queue → Queue) : (c.updQueue k f).fab = c.fab := rfl
@[simp] theorem Chip.updQueue_waits (k : Nat) (f : Queue → Queue) : (c.updQueue k f).waits = c.waits := rfl
@[simp] theorem Chip.updQueue_ids (k : Nat) (f : Queue → Queue) : (c.updQueue k f).ids = c.ids := rfl
@[simp] theorem Chip.updQueue_free (k : Nat) (f : Queue → Queue) : (c.updQueue k f).free = c.free := rfl
@[simp] theorem Chip.updQueue_out (k : Nat) (f : Queue → Queue) : (c.updQueue k f).out = c.out := rfl
@[simp] theorem Chip.idleQueue_updQueue (k b : Nat) (f : Queue → Queue) : (c.updQueue k f).idleQueue b = c.idleQueue b := rfl
theorem Chip.queue_updQueue (j k : Nat) (f : Queue → Queue) : (c.updQueue k f).queue j = if j = k then f (c.queue k) else c.queue j := by
  by_cases h : j = k
  · subst h; simp [Chip.queue, Chip.updQueue, Chip.idleQueue, Chip.bus]
  · simp only [h, if_false]; exact Tbl.get_set_apart _ _ _ _ h
@[simp] theorem Chip.queue_updQueue_same (k : Nat) (f : Queue → Queue) : (c.updQueue k f).queue k = f (c.queue k) := by
  rw [Chip.queue_updQueue]; simp
theorem Chip.updQueue_updQueue (k : Nat) (f g : Queue → Queue) : (c.updQueue k f).updQueue k g = c.updQueue k (fun x => g (f x)) := by
  simp [Chip.updQueue, Chip.idleQueue, Chip.bus, Tbl.upd]
theorem Chip.updQueue_congr (k : Nat) (f g : Queue → Queue) (h : f (c.queue k) = g (c.queue k)) : c.updQueue k f = c.updQueue k g := by
  unfold Chip.updQueue Tbl.upd
  rw [show f (Tbl.get (c.idleQueue (k / 256)) c.queues k) = g (Tbl.get (c.idleQueue (k / 256)) c.queues k) from h]
@[simp] theorem Chip.inst_updQueue (j k : Nat) (f : Queue → Queue) : (c.updQueue k f).inst j = c.inst j := rfl
@[simp] theorem Chip.slot_updQueue (j k : Nat) (f : Queue → Queue) : (c.updQueue k f).slot j = c.slot j := rfl
@[simp] theorem Chip.ep_updQueue (j k : Nat) (f : Queue → Queue) : (c.updQueue k f).ep j = c.ep j := rfl
@[simp] theorem Chip.port_updQueue (j k : Nat) (f : Queue → Queue) : (c.updQueue k f).port j = c.port j := rfl
@[simp] theorem Chip.ssp_updQueue (j k : Nat) (f : Queue → Queue) : (c.updQueue k f).ssp j = c.ssp j := rfl
@[simp] theorem Chip.bus_updQueue (j k : Nat) (f : Queue → Queue) : (c.updQueue k f).bus j = c.bus j := rfl
@[simp] theorem Chip.src_updQueue (j k : Nat) (f : Queue → Queue) : (c.updQueue k f).src j = c.src j := rfl
@[simp] theorem Chip.grp_updQueue (j k : Nat) (f : Queue → Queue) : (c.updQueue k f).grp j = c.grp j := rfl
@[simp] theorem Chip.fielder_updQueue (j k : Nat) (f : Queue → Queue) : (c.updQueue k f).fielder j = c.fielder j := rfl
@[simp] theorem Chip.share_updQueue (j k : Nat) (f : Queue → Queue) : (c.updQueue k f).share j = c.share j := rfl

/-! ### updSrc -/

@[simp] theorem Chip.updSrc_straps (k : Nat) (f : Src → Src) : (c.updSrc k f).straps = c.straps := rfl
@[simp] theorem Chip.updSrc_hold (k : Nat) (f : Src → Src) : (c.updSrc k f).hold = c.hold := rfl
@[simp] theorem Chip.updSrc_boot (k : Nat) (f : Src → Src) : (c.updSrc k f).boot = c.boot := rfl
@[simp] theorem Chip.updSrc_link0 (k : Nat) (f : Src → Src) : (c.updSrc k f).link0 = c.link0 := rfl
@[simp] theorem Chip.updSrc_link1 (k : Nat) (f : Src → Src) : (c.updSrc k f).link1 = c.link1 := rfl
@[simp] theorem Chip.updSrc_fuse (k : Nat) (f : Src → Src) : (c.updSrc k f).fuse = c.fuse := rfl
@[simp] theorem Chip.updSrc_jtag (k : Nat) (f : Src → Src) : (c.updSrc k f).jtag = c.jtag := rfl
@[simp] theorem Chip.updSrc_otpKey (k : Nat) (f : Src → Src) : (c.updSrc k f).otpKey = c.otpKey := rfl
@[simp] theorem Chip.updSrc_fw (k : Nat) (f : Src → Src) : (c.updSrc k f).fw = c.fw := rfl
@[simp] theorem Chip.updSrc_mgr (k : Nat) (f : Src → Src) : (c.updSrc k f).mgr = c.mgr := rfl
@[simp] theorem Chip.updSrc_smb (k : Nat) (f : Src → Src) : (c.updSrc k f).smb = c.smb := rfl
@[simp] theorem Chip.updSrc_cap (k : Nat) (f : Src → Src) : (c.updSrc k f).cap = c.cap := rfl
@[simp] theorem Chip.updSrc_mf (k : Nat) (f : Src → Src) : (c.updSrc k f).mf = c.mf := rfl
@[simp] theorem Chip.updSrc_us (k : Nat) (f : Src → Src) : (c.updSrc k f).us = c.us := rfl
@[simp] theorem Chip.updSrc_usNow (k : Nat) (f : Src → Src) : (c.updSrc k f).usNow = c.usNow := rfl
@[simp] theorem Chip.updSrc_insts (k : Nat) (f : Src → Src) : (c.updSrc k f).insts = c.insts := rfl
@[simp] theorem Chip.updSrc_slots (k : Nat) (f : Src → Src) : (c.updSrc k f).slots = c.slots := rfl
@[simp] theorem Chip.updSrc_eps (k : Nat) (f : Src → Src) : (c.updSrc k f).eps = c.eps := rfl
@[simp] theorem Chip.updSrc_peps (k : Nat) (f : Src → Src) : (c.updSrc k f).peps = c.peps := rfl
@[simp] theorem Chip.updSrc_pepOrder (k : Nat) (f : Src → Src) : (c.updSrc k f).pepOrder = c.pepOrder := rfl
@[simp] theorem Chip.updSrc_tts (k : Nat) (f : Src → Src) : (c.updSrc k f).tts = c.tts := rfl
@[simp] theorem Chip.updSrc_buses (k : Nat) (f : Src → Src) : (c.updSrc k f).buses = c.buses := rfl
@[simp] theorem Chip.updSrc_queues (k : Nat) (f : Src → Src) : (c.updSrc k f).queues = c.queues := rfl
@[simp] theorem Chip.updSrc_rally (k : Nat) (f : Src → Src) : (c.updSrc k f).rally = c.rally := rfl
@[simp] theorem Chip.updSrc_ports (k : Nat) (f : Src → Src) : (c.updSrc k f).ports = c.ports := rfl
@[simp] theorem Chip.updSrc_ssps (k : Nat) (f : Src → Src) : (c.updSrc k f).ssps = c.ssps := rfl
@[simp] theorem Chip.updSrc_pass (k : Nat) (f : Src → Src) : (c.updSrc k f).pass = c.pass := rfl
@[simp] theorem Chip.updSrc_shares (k : Nat) (f : Src → Src) : (c.updSrc k f).shares = c.shares := rfl
@[simp] theorem Chip.updSrc_jobs (k : Nat) (f : Src → Src) : (c.updSrc k f).jobs = c.jobs := rfl
@[simp] theorem Chip.updSrc_shareWait (k : Nat) (f : Src → Src) : (c.updSrc k f).shareWait = c.shareWait := rfl
@[simp] theorem Chip.updSrc_internals (k : Nat) (f : Src → Src) : (c.updSrc k f).internals = c.internals := rfl
@[simp] theorem Chip.updSrc_fielders (k : Nat) (f : Src → Src) : (c.updSrc k f).fielders = c.fielders := rfl
@[simp] theorem Chip.updSrc_grps (k : Nat) (f : Src → Src) : (c.updSrc k f).grps = c.grps := rfl
@[simp] theorem Chip.updSrc_locks (k : Nat) (f : Src → Src) : (c.updSrc k f).locks = c.locks := rfl
@[simp] theorem Chip.updSrc_ram (k : Nat) (f : Src → Src) : (c.updSrc k f).ram = c.ram := rfl
@[simp] theorem Chip.updSrc_pwr (k : Nat) (f : Src → Src) : (c.updSrc k f).pwr = c.pwr := rfl
@[simp] theorem Chip.updSrc_rel (k : Nat) (f : Src → Src) : (c.updSrc k f).rel = c.rel := rfl
@[simp] theorem Chip.updSrc_spin (k : Nat) (f : Src → Src) : (c.updSrc k f).spin = c.spin := rfl
@[simp] theorem Chip.updSrc_fab (k : Nat) (f : Src → Src) : (c.updSrc k f).fab = c.fab := rfl
@[simp] theorem Chip.updSrc_waits (k : Nat) (f : Src → Src) : (c.updSrc k f).waits = c.waits := rfl
@[simp] theorem Chip.updSrc_ids (k : Nat) (f : Src → Src) : (c.updSrc k f).ids = c.ids := rfl
@[simp] theorem Chip.updSrc_free (k : Nat) (f : Src → Src) : (c.updSrc k f).free = c.free := rfl
@[simp] theorem Chip.updSrc_out (k : Nat) (f : Src → Src) : (c.updSrc k f).out = c.out := rfl
theorem Chip.src_updSrc (j k : Nat) (f : Src → Src) : (c.updSrc k f).src j = if j = k then f (c.src k) else c.src j :=
  Tbl.get_upd ({} : Src) c.srcs j k f
@[simp] theorem Chip.src_updSrc_same (k : Nat) (f : Src → Src) : (c.updSrc k f).src k = f (c.src k) :=
    Tbl.get_upd_same ({} : Src) c.srcs k f
theorem Chip.updSrc_updSrc (k : Nat) (f g : Src → Src) : (c.updSrc k f).updSrc k g = c.updSrc k (fun x => g (f x)) := by
  simp [Chip.updSrc, Tbl.upd]
theorem Chip.updSrc_congr (k : Nat) (f g : Src → Src) (h : f (c.src k) = g (c.src k)) : c.updSrc k f = c.updSrc k g := by
  unfold Chip.updSrc Tbl.upd
  rw [show f (Tbl.get ({} : Src) c.srcs k) = g (Tbl.get ({} : Src) c.srcs k) from h]
@[simp] theorem Chip.inst_updSrc (j k : Nat) (f : Src → Src) : (c.updSrc k f).inst j = c.inst j := rfl
@[simp] theorem Chip.slot_updSrc (j k : Nat) (f : Src → Src) : (c.updSrc k f).slot j = c.slot j := rfl
@[simp] theorem Chip.ep_updSrc (j k : Nat) (f : Src → Src) : (c.updSrc k f).ep j = c.ep j := rfl
@[simp] theorem Chip.port_updSrc (j k : Nat) (f : Src → Src) : (c.updSrc k f).port j = c.port j := rfl
@[simp] theorem Chip.ssp_updSrc (j k : Nat) (f : Src → Src) : (c.updSrc k f).ssp j = c.ssp j := rfl
@[simp] theorem Chip.bus_updSrc (j k : Nat) (f : Src → Src) : (c.updSrc k f).bus j = c.bus j := rfl
@[simp] theorem Chip.queue_updSrc (j k : Nat) (f : Src → Src) : (c.updSrc k f).queue j = c.queue j := rfl
@[simp] theorem Chip.grp_updSrc (j k : Nat) (f : Src → Src) : (c.updSrc k f).grp j = c.grp j := rfl
@[simp] theorem Chip.fielder_updSrc (j k : Nat) (f : Src → Src) : (c.updSrc k f).fielder j = c.fielder j := rfl
@[simp] theorem Chip.share_updSrc (j k : Nat) (f : Src → Src) : (c.updSrc k f).share j = c.share j := rfl

/-! ### updGrp -/

@[simp] theorem Chip.updGrp_straps (k : Nat) (f : Grp → Grp) : (c.updGrp k f).straps = c.straps := rfl
@[simp] theorem Chip.updGrp_hold (k : Nat) (f : Grp → Grp) : (c.updGrp k f).hold = c.hold := rfl
@[simp] theorem Chip.updGrp_boot (k : Nat) (f : Grp → Grp) : (c.updGrp k f).boot = c.boot := rfl
@[simp] theorem Chip.updGrp_link0 (k : Nat) (f : Grp → Grp) : (c.updGrp k f).link0 = c.link0 := rfl
@[simp] theorem Chip.updGrp_link1 (k : Nat) (f : Grp → Grp) : (c.updGrp k f).link1 = c.link1 := rfl
@[simp] theorem Chip.updGrp_fuse (k : Nat) (f : Grp → Grp) : (c.updGrp k f).fuse = c.fuse := rfl
@[simp] theorem Chip.updGrp_jtag (k : Nat) (f : Grp → Grp) : (c.updGrp k f).jtag = c.jtag := rfl
@[simp] theorem Chip.updGrp_otpKey (k : Nat) (f : Grp → Grp) : (c.updGrp k f).otpKey = c.otpKey := rfl
@[simp] theorem Chip.updGrp_fw (k : Nat) (f : Grp → Grp) : (c.updGrp k f).fw = c.fw := rfl
@[simp] theorem Chip.updGrp_mgr (k : Nat) (f : Grp → Grp) : (c.updGrp k f).mgr = c.mgr := rfl
@[simp] theorem Chip.updGrp_smb (k : Nat) (f : Grp → Grp) : (c.updGrp k f).smb = c.smb := rfl
@[simp] theorem Chip.updGrp_cap (k : Nat) (f : Grp → Grp) : (c.updGrp k f).cap = c.cap := rfl
@[simp] theorem Chip.updGrp_mf (k : Nat) (f : Grp → Grp) : (c.updGrp k f).mf = c.mf := rfl
@[simp] theorem Chip.updGrp_us (k : Nat) (f : Grp → Grp) : (c.updGrp k f).us = c.us := rfl
@[simp] theorem Chip.updGrp_usNow (k : Nat) (f : Grp → Grp) : (c.updGrp k f).usNow = c.usNow := rfl
@[simp] theorem Chip.updGrp_insts (k : Nat) (f : Grp → Grp) : (c.updGrp k f).insts = c.insts := rfl
@[simp] theorem Chip.updGrp_slots (k : Nat) (f : Grp → Grp) : (c.updGrp k f).slots = c.slots := rfl
@[simp] theorem Chip.updGrp_eps (k : Nat) (f : Grp → Grp) : (c.updGrp k f).eps = c.eps := rfl
@[simp] theorem Chip.updGrp_peps (k : Nat) (f : Grp → Grp) : (c.updGrp k f).peps = c.peps := rfl
@[simp] theorem Chip.updGrp_pepOrder (k : Nat) (f : Grp → Grp) : (c.updGrp k f).pepOrder = c.pepOrder := rfl
@[simp] theorem Chip.updGrp_tts (k : Nat) (f : Grp → Grp) : (c.updGrp k f).tts = c.tts := rfl
@[simp] theorem Chip.updGrp_buses (k : Nat) (f : Grp → Grp) : (c.updGrp k f).buses = c.buses := rfl
@[simp] theorem Chip.updGrp_queues (k : Nat) (f : Grp → Grp) : (c.updGrp k f).queues = c.queues := rfl
@[simp] theorem Chip.updGrp_rally (k : Nat) (f : Grp → Grp) : (c.updGrp k f).rally = c.rally := rfl
@[simp] theorem Chip.updGrp_ports (k : Nat) (f : Grp → Grp) : (c.updGrp k f).ports = c.ports := rfl
@[simp] theorem Chip.updGrp_ssps (k : Nat) (f : Grp → Grp) : (c.updGrp k f).ssps = c.ssps := rfl
@[simp] theorem Chip.updGrp_pass (k : Nat) (f : Grp → Grp) : (c.updGrp k f).pass = c.pass := rfl
@[simp] theorem Chip.updGrp_shares (k : Nat) (f : Grp → Grp) : (c.updGrp k f).shares = c.shares := rfl
@[simp] theorem Chip.updGrp_jobs (k : Nat) (f : Grp → Grp) : (c.updGrp k f).jobs = c.jobs := rfl
@[simp] theorem Chip.updGrp_shareWait (k : Nat) (f : Grp → Grp) : (c.updGrp k f).shareWait = c.shareWait := rfl
@[simp] theorem Chip.updGrp_internals (k : Nat) (f : Grp → Grp) : (c.updGrp k f).internals = c.internals := rfl
@[simp] theorem Chip.updGrp_fielders (k : Nat) (f : Grp → Grp) : (c.updGrp k f).fielders = c.fielders := rfl
@[simp] theorem Chip.updGrp_srcs (k : Nat) (f : Grp → Grp) : (c.updGrp k f).srcs = c.srcs := rfl
@[simp] theorem Chip.updGrp_locks (k : Nat) (f : Grp → Grp) : (c.updGrp k f).locks = c.locks := rfl
@[simp] theorem Chip.updGrp_ram (k : Nat) (f : Grp → Grp) : (c.updGrp k f).ram = c.ram := rfl
@[simp] theorem Chip.updGrp_pwr (k : Nat) (f : Grp → Grp) : (c.updGrp k f).pwr = c.pwr := rfl
@[simp] theorem Chip.updGrp_rel (k : Nat) (f : Grp → Grp) : (c.updGrp k f).rel = c.rel := rfl
@[simp] theorem Chip.updGrp_spin (k : Nat) (f : Grp → Grp) : (c.updGrp k f).spin = c.spin := rfl
@[simp] theorem Chip.updGrp_fab (k : Nat) (f : Grp → Grp) : (c.updGrp k f).fab = c.fab := rfl
@[simp] theorem Chip.updGrp_waits (k : Nat) (f : Grp → Grp) : (c.updGrp k f).waits = c.waits := rfl
@[simp] theorem Chip.updGrp_ids (k : Nat) (f : Grp → Grp) : (c.updGrp k f).ids = c.ids := rfl
@[simp] theorem Chip.updGrp_free (k : Nat) (f : Grp → Grp) : (c.updGrp k f).free = c.free := rfl
@[simp] theorem Chip.updGrp_out (k : Nat) (f : Grp → Grp) : (c.updGrp k f).out = c.out := rfl
theorem Chip.grp_updGrp (j k : Nat) (f : Grp → Grp) : (c.updGrp k f).grp j = if j = k then f (c.grp k) else c.grp j :=
  Tbl.get_upd ({} : Grp) c.grps j k f
@[simp] theorem Chip.grp_updGrp_same (k : Nat) (f : Grp → Grp) : (c.updGrp k f).grp k = f (c.grp k) :=
    Tbl.get_upd_same ({} : Grp) c.grps k f
theorem Chip.updGrp_updGrp (k : Nat) (f g : Grp → Grp) : (c.updGrp k f).updGrp k g = c.updGrp k (fun x => g (f x)) := by
  simp [Chip.updGrp, Tbl.upd]
theorem Chip.updGrp_congr (k : Nat) (f g : Grp → Grp) (h : f (c.grp k) = g (c.grp k)) : c.updGrp k f = c.updGrp k g := by
  unfold Chip.updGrp Tbl.upd
  rw [show f (Tbl.get ({} : Grp) c.grps k) = g (Tbl.get ({} : Grp) c.grps k) from h]
@[simp] theorem Chip.inst_updGrp (j k : Nat) (f : Grp → Grp) : (c.updGrp k f).inst j = c.inst j := rfl
@[simp] theorem Chip.slot_updGrp (j k : Nat) (f : Grp → Grp) : (c.updGrp k f).slot j = c.slot j := rfl
@[simp] theorem Chip.ep_updGrp (j k : Nat) (f : Grp → Grp) : (c.updGrp k f).ep j = c.ep j := rfl
@[simp] theorem Chip.port_updGrp (j k : Nat) (f : Grp → Grp) : (c.updGrp k f).port j = c.port j := rfl
@[simp] theorem Chip.ssp_updGrp (j k : Nat) (f : Grp → Grp) : (c.updGrp k f).ssp j = c.ssp j := rfl
@[simp] theorem Chip.bus_updGrp (j k : Nat) (f : Grp → Grp) : (c.updGrp k f).bus j = c.bus j := rfl
@[simp] theorem Chip.queue_updGrp (j k : Nat) (f : Grp → Grp) : (c.updGrp k f).queue j = c.queue j := rfl
@[simp] theorem Chip.src_updGrp (j k : Nat) (f : Grp → Grp) : (c.updGrp k f).src j = c.src j := rfl
@[simp] theorem Chip.fielder_updGrp (j k : Nat) (f : Grp → Grp) : (c.updGrp k f).fielder j = c.fielder j := rfl
@[simp] theorem Chip.share_updGrp (j k : Nat) (f : Grp → Grp) : (c.updGrp k f).share j = c.share j := rfl

/-! ### updFielder -/

@[simp] theorem Chip.updFielder_straps (k : Nat) (f : Fielder → Fielder) : (c.updFielder k f).straps = c.straps := rfl
@[simp] theorem Chip.updFielder_hold (k : Nat) (f : Fielder → Fielder) : (c.updFielder k f).hold = c.hold := rfl
@[simp] theorem Chip.updFielder_boot (k : Nat) (f : Fielder → Fielder) : (c.updFielder k f).boot = c.boot := rfl
@[simp] theorem Chip.updFielder_link0 (k : Nat) (f : Fielder → Fielder) : (c.updFielder k f).link0 = c.link0 := rfl
@[simp] theorem Chip.updFielder_link1 (k : Nat) (f : Fielder → Fielder) : (c.updFielder k f).link1 = c.link1 := rfl
@[simp] theorem Chip.updFielder_fuse (k : Nat) (f : Fielder → Fielder) : (c.updFielder k f).fuse = c.fuse := rfl
@[simp] theorem Chip.updFielder_jtag (k : Nat) (f : Fielder → Fielder) : (c.updFielder k f).jtag = c.jtag := rfl
@[simp] theorem Chip.updFielder_otpKey (k : Nat) (f : Fielder → Fielder) : (c.updFielder k f).otpKey = c.otpKey := rfl
@[simp] theorem Chip.updFielder_fw (k : Nat) (f : Fielder → Fielder) : (c.updFielder k f).fw = c.fw := rfl
@[simp] theorem Chip.updFielder_mgr (k : Nat) (f : Fielder → Fielder) : (c.updFielder k f).mgr = c.mgr := rfl
@[simp] theorem Chip.updFielder_smb (k : Nat) (f : Fielder → Fielder) : (c.updFielder k f).smb = c.smb := rfl
@[simp] theorem Chip.updFielder_cap (k : Nat) (f : Fielder → Fielder) : (c.updFielder k f).cap = c.cap := rfl
@[simp] theorem Chip.updFielder_mf (k : Nat) (f : Fielder → Fielder) : (c.updFielder k f).mf = c.mf := rfl
@[simp] theorem Chip.updFielder_us (k : Nat) (f : Fielder → Fielder) : (c.updFielder k f).us = c.us := rfl
@[simp] theorem Chip.updFielder_usNow (k : Nat) (f : Fielder → Fielder) : (c.updFielder k f).usNow = c.usNow := rfl
@[simp] theorem Chip.updFielder_insts (k : Nat) (f : Fielder → Fielder) : (c.updFielder k f).insts = c.insts := rfl
@[simp] theorem Chip.updFielder_slots (k : Nat) (f : Fielder → Fielder) : (c.updFielder k f).slots = c.slots := rfl
@[simp] theorem Chip.updFielder_eps (k : Nat) (f : Fielder → Fielder) : (c.updFielder k f).eps = c.eps := rfl
@[simp] theorem Chip.updFielder_peps (k : Nat) (f : Fielder → Fielder) : (c.updFielder k f).peps = c.peps := rfl
@[simp] theorem Chip.updFielder_pepOrder (k : Nat) (f : Fielder → Fielder) : (c.updFielder k f).pepOrder = c.pepOrder := rfl
@[simp] theorem Chip.updFielder_tts (k : Nat) (f : Fielder → Fielder) : (c.updFielder k f).tts = c.tts := rfl
@[simp] theorem Chip.updFielder_buses (k : Nat) (f : Fielder → Fielder) : (c.updFielder k f).buses = c.buses := rfl
@[simp] theorem Chip.updFielder_queues (k : Nat) (f : Fielder → Fielder) : (c.updFielder k f).queues = c.queues := rfl
@[simp] theorem Chip.updFielder_rally (k : Nat) (f : Fielder → Fielder) : (c.updFielder k f).rally = c.rally := rfl
@[simp] theorem Chip.updFielder_ports (k : Nat) (f : Fielder → Fielder) : (c.updFielder k f).ports = c.ports := rfl
@[simp] theorem Chip.updFielder_ssps (k : Nat) (f : Fielder → Fielder) : (c.updFielder k f).ssps = c.ssps := rfl
@[simp] theorem Chip.updFielder_pass (k : Nat) (f : Fielder → Fielder) : (c.updFielder k f).pass = c.pass := rfl
@[simp] theorem Chip.updFielder_shares (k : Nat) (f : Fielder → Fielder) : (c.updFielder k f).shares = c.shares := rfl
@[simp] theorem Chip.updFielder_jobs (k : Nat) (f : Fielder → Fielder) : (c.updFielder k f).jobs = c.jobs := rfl
@[simp] theorem Chip.updFielder_shareWait (k : Nat) (f : Fielder → Fielder) : (c.updFielder k f).shareWait = c.shareWait := rfl
@[simp] theorem Chip.updFielder_internals (k : Nat) (f : Fielder → Fielder) : (c.updFielder k f).internals = c.internals := rfl
@[simp] theorem Chip.updFielder_srcs (k : Nat) (f : Fielder → Fielder) : (c.updFielder k f).srcs = c.srcs := rfl
@[simp] theorem Chip.updFielder_grps (k : Nat) (f : Fielder → Fielder) : (c.updFielder k f).grps = c.grps := rfl
@[simp] theorem Chip.updFielder_locks (k : Nat) (f : Fielder → Fielder) : (c.updFielder k f).locks = c.locks := rfl
@[simp] theorem Chip.updFielder_ram (k : Nat) (f : Fielder → Fielder) : (c.updFielder k f).ram = c.ram := rfl
@[simp] theorem Chip.updFielder_pwr (k : Nat) (f : Fielder → Fielder) : (c.updFielder k f).pwr = c.pwr := rfl
@[simp] theorem Chip.updFielder_rel (k : Nat) (f : Fielder → Fielder) : (c.updFielder k f).rel = c.rel := rfl
@[simp] theorem Chip.updFielder_spin (k : Nat) (f : Fielder → Fielder) : (c.updFielder k f).spin = c.spin := rfl
@[simp] theorem Chip.updFielder_fab (k : Nat) (f : Fielder → Fielder) : (c.updFielder k f).fab = c.fab := rfl
@[simp] theorem Chip.updFielder_waits (k : Nat) (f : Fielder → Fielder) : (c.updFielder k f).waits = c.waits := rfl
@[simp] theorem Chip.updFielder_ids (k : Nat) (f : Fielder → Fielder) : (c.updFielder k f).ids = c.ids := rfl
@[simp] theorem Chip.updFielder_free (k : Nat) (f : Fielder → Fielder) : (c.updFielder k f).free = c.free := rfl
@[simp] theorem Chip.updFielder_out (k : Nat) (f : Fielder → Fielder) : (c.updFielder k f).out = c.out := rfl
theorem Chip.fielder_updFielder (j k : Nat) (f : Fielder → Fielder) : (c.updFielder k f).fielder j = if j = k then
    f (c.fielder k) else c.fielder j :=
  Tbl.get_upd ({} : Fielder) c.fielders j k f
@[simp] theorem Chip.fielder_updFielder_same (k : Nat) (f : Fielder → Fielder) : (c.updFielder k f).fielder k = f (c.fielder k) :=
    Tbl.get_upd_same ({} : Fielder) c.fielders k f
theorem Chip.updFielder_updFielder (k : Nat) (f g : Fielder → Fielder) :
    (c.updFielder k f).updFielder k g = c.updFielder k (fun x => g (f x)) := by
  simp [Chip.updFielder, Tbl.upd]
theorem Chip.updFielder_congr (k : Nat) (f g : Fielder → Fielder)
    (h : f (c.fielder k) = g (c.fielder k)) : c.updFielder k f = c.updFielder k g := by
  unfold Chip.updFielder Tbl.upd
  rw [show f (Tbl.get ({} : Fielder) c.fielders k) = g (Tbl.get ({} : Fielder) c.fielders k) from h]
@[simp] theorem Chip.inst_updFielder (j k : Nat) (f : Fielder → Fielder) : (c.updFielder k f).inst j = c.inst j := rfl
@[simp] theorem Chip.slot_updFielder (j k : Nat) (f : Fielder → Fielder) : (c.updFielder k f).slot j = c.slot j := rfl
@[simp] theorem Chip.ep_updFielder (j k : Nat) (f : Fielder → Fielder) : (c.updFielder k f).ep j = c.ep j := rfl
@[simp] theorem Chip.port_updFielder (j k : Nat) (f : Fielder → Fielder) : (c.updFielder k f).port j = c.port j := rfl
@[simp] theorem Chip.ssp_updFielder (j k : Nat) (f : Fielder → Fielder) : (c.updFielder k f).ssp j = c.ssp j := rfl
@[simp] theorem Chip.bus_updFielder (j k : Nat) (f : Fielder → Fielder) : (c.updFielder k f).bus j = c.bus j := rfl
@[simp] theorem Chip.queue_updFielder (j k : Nat) (f : Fielder → Fielder) : (c.updFielder k f).queue j = c.queue j := rfl
@[simp] theorem Chip.src_updFielder (j k : Nat) (f : Fielder → Fielder) : (c.updFielder k f).src j = c.src j := rfl
@[simp] theorem Chip.grp_updFielder (j k : Nat) (f : Fielder → Fielder) : (c.updFielder k f).grp j = c.grp j := rfl
@[simp] theorem Chip.share_updFielder (j k : Nat) (f : Fielder → Fielder) : (c.updFielder k f).share j = c.share j := rfl

/-! ### updShare -/

@[simp] theorem Chip.updShare_straps (k : Nat) (f : Share → Share) : (c.updShare k f).straps = c.straps := rfl
@[simp] theorem Chip.updShare_hold (k : Nat) (f : Share → Share) : (c.updShare k f).hold = c.hold := rfl
@[simp] theorem Chip.updShare_boot (k : Nat) (f : Share → Share) : (c.updShare k f).boot = c.boot := rfl
@[simp] theorem Chip.updShare_link0 (k : Nat) (f : Share → Share) : (c.updShare k f).link0 = c.link0 := rfl
@[simp] theorem Chip.updShare_link1 (k : Nat) (f : Share → Share) : (c.updShare k f).link1 = c.link1 := rfl
@[simp] theorem Chip.updShare_fuse (k : Nat) (f : Share → Share) : (c.updShare k f).fuse = c.fuse := rfl
@[simp] theorem Chip.updShare_jtag (k : Nat) (f : Share → Share) : (c.updShare k f).jtag = c.jtag := rfl
@[simp] theorem Chip.updShare_otpKey (k : Nat) (f : Share → Share) : (c.updShare k f).otpKey = c.otpKey := rfl
@[simp] theorem Chip.updShare_fw (k : Nat) (f : Share → Share) : (c.updShare k f).fw = c.fw := rfl
@[simp] theorem Chip.updShare_mgr (k : Nat) (f : Share → Share) : (c.updShare k f).mgr = c.mgr := rfl
@[simp] theorem Chip.updShare_smb (k : Nat) (f : Share → Share) : (c.updShare k f).smb = c.smb := rfl
@[simp] theorem Chip.updShare_cap (k : Nat) (f : Share → Share) : (c.updShare k f).cap = c.cap := rfl
@[simp] theorem Chip.updShare_mf (k : Nat) (f : Share → Share) : (c.updShare k f).mf = c.mf := rfl
@[simp] theorem Chip.updShare_us (k : Nat) (f : Share → Share) : (c.updShare k f).us = c.us := rfl
@[simp] theorem Chip.updShare_usNow (k : Nat) (f : Share → Share) : (c.updShare k f).usNow = c.usNow := rfl
@[simp] theorem Chip.updShare_insts (k : Nat) (f : Share → Share) : (c.updShare k f).insts = c.insts := rfl
@[simp] theorem Chip.updShare_slots (k : Nat) (f : Share → Share) : (c.updShare k f).slots = c.slots := rfl
@[simp] theorem Chip.updShare_eps (k : Nat) (f : Share → Share) : (c.updShare k f).eps = c.eps := rfl
@[simp] theorem Chip.updShare_peps (k : Nat) (f : Share → Share) : (c.updShare k f).peps = c.peps := rfl
@[simp] theorem Chip.updShare_pepOrder (k : Nat) (f : Share → Share) : (c.updShare k f).pepOrder = c.pepOrder := rfl
@[simp] theorem Chip.updShare_tts (k : Nat) (f : Share → Share) : (c.updShare k f).tts = c.tts := rfl
@[simp] theorem Chip.updShare_buses (k : Nat) (f : Share → Share) : (c.updShare k f).buses = c.buses := rfl
@[simp] theorem Chip.updShare_queues (k : Nat) (f : Share → Share) : (c.updShare k f).queues = c.queues := rfl
@[simp] theorem Chip.updShare_rally (k : Nat) (f : Share → Share) : (c.updShare k f).rally = c.rally := rfl
@[simp] theorem Chip.updShare_ports (k : Nat) (f : Share → Share) : (c.updShare k f).ports = c.ports := rfl
@[simp] theorem Chip.updShare_ssps (k : Nat) (f : Share → Share) : (c.updShare k f).ssps = c.ssps := rfl
@[simp] theorem Chip.updShare_pass (k : Nat) (f : Share → Share) : (c.updShare k f).pass = c.pass := rfl
@[simp] theorem Chip.updShare_jobs (k : Nat) (f : Share → Share) : (c.updShare k f).jobs = c.jobs := rfl
@[simp] theorem Chip.updShare_shareWait (k : Nat) (f : Share → Share) : (c.updShare k f).shareWait = c.shareWait := rfl
@[simp] theorem Chip.updShare_internals (k : Nat) (f : Share → Share) : (c.updShare k f).internals = c.internals := rfl
@[simp] theorem Chip.updShare_fielders (k : Nat) (f : Share → Share) : (c.updShare k f).fielders = c.fielders := rfl
@[simp] theorem Chip.updShare_srcs (k : Nat) (f : Share → Share) : (c.updShare k f).srcs = c.srcs := rfl
@[simp] theorem Chip.updShare_grps (k : Nat) (f : Share → Share) : (c.updShare k f).grps = c.grps := rfl
@[simp] theorem Chip.updShare_locks (k : Nat) (f : Share → Share) : (c.updShare k f).locks = c.locks := rfl
@[simp] theorem Chip.updShare_ram (k : Nat) (f : Share → Share) : (c.updShare k f).ram = c.ram := rfl
@[simp] theorem Chip.updShare_pwr (k : Nat) (f : Share → Share) : (c.updShare k f).pwr = c.pwr := rfl
@[simp] theorem Chip.updShare_rel (k : Nat) (f : Share → Share) : (c.updShare k f).rel = c.rel := rfl
@[simp] theorem Chip.updShare_spin (k : Nat) (f : Share → Share) : (c.updShare k f).spin = c.spin := rfl
@[simp] theorem Chip.updShare_fab (k : Nat) (f : Share → Share) : (c.updShare k f).fab = c.fab := rfl
@[simp] theorem Chip.updShare_waits (k : Nat) (f : Share → Share) : (c.updShare k f).waits = c.waits := rfl
@[simp] theorem Chip.updShare_ids (k : Nat) (f : Share → Share) : (c.updShare k f).ids = c.ids := rfl
@[simp] theorem Chip.updShare_free (k : Nat) (f : Share → Share) : (c.updShare k f).free = c.free := rfl
@[simp] theorem Chip.updShare_out (k : Nat) (f : Share → Share) : (c.updShare k f).out = c.out := rfl
theorem Chip.share_updShare (j k : Nat) (f : Share → Share) : (c.updShare k f).share j = if j = k then f (c.share k) else c.share j :=
  Tbl.get_upd ({} : Share) c.shares j k f
@[simp] theorem Chip.share_updShare_same (k : Nat) (f : Share → Share) : (c.updShare k f).share k = f (c.share k) :=
    Tbl.get_upd_same ({} : Share) c.shares k f
theorem Chip.updShare_updShare (k : Nat) (f g : Share → Share) : (c.updShare k f).updShare k g = c.updShare k (fun x => g (f x)) := by
  simp [Chip.updShare, Tbl.upd]
theorem Chip.updShare_congr (k : Nat) (f g : Share → Share) (h : f (c.share k) = g (c.share k)) : c.updShare k f = c.updShare k g := by
  unfold Chip.updShare Tbl.upd
  rw [show f (Tbl.get ({} : Share) c.shares k) = g (Tbl.get ({} : Share) c.shares k) from h]
@[simp] theorem Chip.inst_updShare (j k : Nat) (f : Share → Share) : (c.updShare k f).inst j = c.inst j := rfl
@[simp] theorem Chip.slot_updShare (j k : Nat) (f : Share → Share) : (c.updShare k f).slot j = c.slot j := rfl
@[simp] theorem Chip.ep_updShare (j k : Nat) (f : Share → Share) : (c.updShare k f).ep j = c.ep j := rfl
@[simp] theorem Chip.port_updShare (j k : Nat) (f : Share → Share) : (c.updShare k f).port j = c.port j := rfl
@[simp] theorem Chip.ssp_updShare (j k : Nat) (f : Share → Share) : (c.updShare k f).ssp j = c.ssp j := rfl
@[simp] theorem Chip.bus_updShare (j k : Nat) (f : Share → Share) : (c.updShare k f).bus j = c.bus j := rfl
@[simp] theorem Chip.queue_updShare (j k : Nat) (f : Share → Share) : (c.updShare k f).queue j = c.queue j := rfl
@[simp] theorem Chip.src_updShare (j k : Nat) (f : Share → Share) : (c.updShare k f).src j = c.src j := rfl
@[simp] theorem Chip.grp_updShare (j k : Nat) (f : Share → Share) : (c.updShare k f).grp j = c.grp j := rfl
@[simp] theorem Chip.fielder_updShare (j k : Nat) (f : Share → Share) : (c.updShare k f).fielder j = c.fielder j := rfl

/-! ### updFab -/

@[simp] theorem Chip.updFab_straps (k : Nat) (f : FabPort → FabPort) : (c.updFab k f).straps = c.straps := rfl
@[simp] theorem Chip.updFab_hold (k : Nat) (f : FabPort → FabPort) : (c.updFab k f).hold = c.hold := rfl
@[simp] theorem Chip.updFab_boot (k : Nat) (f : FabPort → FabPort) : (c.updFab k f).boot = c.boot := rfl
@[simp] theorem Chip.updFab_link0 (k : Nat) (f : FabPort → FabPort) : (c.updFab k f).link0 = c.link0 := rfl
@[simp] theorem Chip.updFab_link1 (k : Nat) (f : FabPort → FabPort) : (c.updFab k f).link1 = c.link1 := rfl
@[simp] theorem Chip.updFab_fuse (k : Nat) (f : FabPort → FabPort) : (c.updFab k f).fuse = c.fuse := rfl
@[simp] theorem Chip.updFab_jtag (k : Nat) (f : FabPort → FabPort) : (c.updFab k f).jtag = c.jtag := rfl
@[simp] theorem Chip.updFab_otpKey (k : Nat) (f : FabPort → FabPort) : (c.updFab k f).otpKey = c.otpKey := rfl
@[simp] theorem Chip.updFab_fw (k : Nat) (f : FabPort → FabPort) : (c.updFab k f).fw = c.fw := rfl
@[simp] theorem Chip.updFab_mgr (k : Nat) (f : FabPort → FabPort) : (c.updFab k f).mgr = c.mgr := rfl
@[simp] theorem Chip.updFab_smb (k : Nat) (f : FabPort → FabPort) : (c.updFab k f).smb = c.smb := rfl
@[simp] theorem Chip.updFab_cap (k : Nat) (f : FabPort → FabPort) : (c.updFab k f).cap = c.cap := rfl
@[simp] theorem Chip.updFab_mf (k : Nat) (f : FabPort → FabPort) : (c.updFab k f).mf = c.mf := rfl
@[simp] theorem Chip.updFab_us (k : Nat) (f : FabPort → FabPort) : (c.updFab k f).us = c.us := rfl
@[simp] theorem Chip.updFab_usNow (k : Nat) (f : FabPort → FabPort) : (c.updFab k f).usNow = c.usNow := rfl
@[simp] theorem Chip.updFab_insts (k : Nat) (f : FabPort → FabPort) : (c.updFab k f).insts = c.insts := rfl
@[simp] theorem Chip.updFab_slots (k : Nat) (f : FabPort → FabPort) : (c.updFab k f).slots = c.slots := rfl
@[simp] theorem Chip.updFab_eps (k : Nat) (f : FabPort → FabPort) : (c.updFab k f).eps = c.eps := rfl
@[simp] theorem Chip.updFab_peps (k : Nat) (f : FabPort → FabPort) : (c.updFab k f).peps = c.peps := rfl
@[simp] theorem Chip.updFab_pepOrder (k : Nat) (f : FabPort → FabPort) : (c.updFab k f).pepOrder = c.pepOrder := rfl
@[simp] theorem Chip.updFab_tts (k : Nat) (f : FabPort → FabPort) : (c.updFab k f).tts = c.tts := rfl
@[simp] theorem Chip.updFab_buses (k : Nat) (f : FabPort → FabPort) : (c.updFab k f).buses = c.buses := rfl
@[simp] theorem Chip.updFab_queues (k : Nat) (f : FabPort → FabPort) : (c.updFab k f).queues = c.queues := rfl
@[simp] theorem Chip.updFab_rally (k : Nat) (f : FabPort → FabPort) : (c.updFab k f).rally = c.rally := rfl
@[simp] theorem Chip.updFab_ports (k : Nat) (f : FabPort → FabPort) : (c.updFab k f).ports = c.ports := rfl
@[simp] theorem Chip.updFab_ssps (k : Nat) (f : FabPort → FabPort) : (c.updFab k f).ssps = c.ssps := rfl
@[simp] theorem Chip.updFab_pass (k : Nat) (f : FabPort → FabPort) : (c.updFab k f).pass = c.pass := rfl
@[simp] theorem Chip.updFab_shares (k : Nat) (f : FabPort → FabPort) : (c.updFab k f).shares = c.shares := rfl
@[simp] theorem Chip.updFab_jobs (k : Nat) (f : FabPort → FabPort) : (c.updFab k f).jobs = c.jobs := rfl
@[simp] theorem Chip.updFab_shareWait (k : Nat) (f : FabPort → FabPort) : (c.updFab k f).shareWait = c.shareWait := rfl
@[simp] theorem Chip.updFab_internals (k : Nat) (f : FabPort → FabPort) : (c.updFab k f).internals = c.internals := rfl
@[simp] theorem Chip.updFab_fielders (k : Nat) (f : FabPort → FabPort) : (c.updFab k f).fielders = c.fielders := rfl
@[simp] theorem Chip.updFab_srcs (k : Nat) (f : FabPort → FabPort) : (c.updFab k f).srcs = c.srcs := rfl
@[simp] theorem Chip.updFab_grps (k : Nat) (f : FabPort → FabPort) : (c.updFab k f).grps = c.grps := rfl
@[simp] theorem Chip.updFab_locks (k : Nat) (f : FabPort → FabPort) : (c.updFab k f).locks = c.locks := rfl
@[simp] theorem Chip.updFab_ram (k : Nat) (f : FabPort → FabPort) : (c.updFab k f).ram = c.ram := rfl
@[simp] theorem Chip.updFab_pwr (k : Nat) (f : FabPort → FabPort) : (c.updFab k f).pwr = c.pwr := rfl
@[simp] theorem Chip.updFab_rel (k : Nat) (f : FabPort → FabPort) : (c.updFab k f).rel = c.rel := rfl
@[simp] theorem Chip.updFab_spin (k : Nat) (f : FabPort → FabPort) : (c.updFab k f).spin = c.spin := rfl
@[simp] theorem Chip.updFab_waits (k : Nat) (f : FabPort → FabPort) : (c.updFab k f).waits = c.waits := rfl
@[simp] theorem Chip.updFab_ids (k : Nat) (f : FabPort → FabPort) : (c.updFab k f).ids = c.ids := rfl
@[simp] theorem Chip.updFab_free (k : Nat) (f : FabPort → FabPort) : (c.updFab k f).free = c.free := rfl
@[simp] theorem Chip.updFab_out (k : Nat) (f : FabPort → FabPort) : (c.updFab k f).out = c.out := rfl

/-! ### updBank -/

@[simp] theorem Chip.updBank_straps (k : Nat) (f : Bank → Bank) : (c.updBank k f).straps = c.straps := rfl
@[simp] theorem Chip.updBank_hold (k : Nat) (f : Bank → Bank) : (c.updBank k f).hold = c.hold := rfl
@[simp] theorem Chip.updBank_boot (k : Nat) (f : Bank → Bank) : (c.updBank k f).boot = c.boot := rfl
@[simp] theorem Chip.updBank_link0 (k : Nat) (f : Bank → Bank) : (c.updBank k f).link0 = c.link0 := rfl
@[simp] theorem Chip.updBank_link1 (k : Nat) (f : Bank → Bank) : (c.updBank k f).link1 = c.link1 := rfl
@[simp] theorem Chip.updBank_fuse (k : Nat) (f : Bank → Bank) : (c.updBank k f).fuse = c.fuse := rfl
@[simp] theorem Chip.updBank_jtag (k : Nat) (f : Bank → Bank) : (c.updBank k f).jtag = c.jtag := rfl
@[simp] theorem Chip.updBank_otpKey (k : Nat) (f : Bank → Bank) : (c.updBank k f).otpKey = c.otpKey := rfl
@[simp] theorem Chip.updBank_fw (k : Nat) (f : Bank → Bank) : (c.updBank k f).fw = c.fw := rfl
@[simp] theorem Chip.updBank_mgr (k : Nat) (f : Bank → Bank) : (c.updBank k f).mgr = c.mgr := rfl
@[simp] theorem Chip.updBank_smb (k : Nat) (f : Bank → Bank) : (c.updBank k f).smb = c.smb := rfl
@[simp] theorem Chip.updBank_cap (k : Nat) (f : Bank → Bank) : (c.updBank k f).cap = c.cap := rfl
@[simp] theorem Chip.updBank_mf (k : Nat) (f : Bank → Bank) : (c.updBank k f).mf = c.mf := rfl
@[simp] theorem Chip.updBank_us (k : Nat) (f : Bank → Bank) : (c.updBank k f).us = c.us := rfl
@[simp] theorem Chip.updBank_usNow (k : Nat) (f : Bank → Bank) : (c.updBank k f).usNow = c.usNow := rfl
@[simp] theorem Chip.updBank_insts (k : Nat) (f : Bank → Bank) : (c.updBank k f).insts = c.insts := rfl
@[simp] theorem Chip.updBank_slots (k : Nat) (f : Bank → Bank) : (c.updBank k f).slots = c.slots := rfl
@[simp] theorem Chip.updBank_eps (k : Nat) (f : Bank → Bank) : (c.updBank k f).eps = c.eps := rfl
@[simp] theorem Chip.updBank_peps (k : Nat) (f : Bank → Bank) : (c.updBank k f).peps = c.peps := rfl
@[simp] theorem Chip.updBank_pepOrder (k : Nat) (f : Bank → Bank) : (c.updBank k f).pepOrder = c.pepOrder := rfl
@[simp] theorem Chip.updBank_tts (k : Nat) (f : Bank → Bank) : (c.updBank k f).tts = c.tts := rfl
@[simp] theorem Chip.updBank_buses (k : Nat) (f : Bank → Bank) : (c.updBank k f).buses = c.buses := rfl
@[simp] theorem Chip.updBank_queues (k : Nat) (f : Bank → Bank) : (c.updBank k f).queues = c.queues := rfl
@[simp] theorem Chip.updBank_rally (k : Nat) (f : Bank → Bank) : (c.updBank k f).rally = c.rally := rfl
@[simp] theorem Chip.updBank_ports (k : Nat) (f : Bank → Bank) : (c.updBank k f).ports = c.ports := rfl
@[simp] theorem Chip.updBank_ssps (k : Nat) (f : Bank → Bank) : (c.updBank k f).ssps = c.ssps := rfl
@[simp] theorem Chip.updBank_pass (k : Nat) (f : Bank → Bank) : (c.updBank k f).pass = c.pass := rfl
@[simp] theorem Chip.updBank_shares (k : Nat) (f : Bank → Bank) : (c.updBank k f).shares = c.shares := rfl
@[simp] theorem Chip.updBank_jobs (k : Nat) (f : Bank → Bank) : (c.updBank k f).jobs = c.jobs := rfl
@[simp] theorem Chip.updBank_shareWait (k : Nat) (f : Bank → Bank) : (c.updBank k f).shareWait = c.shareWait := rfl
@[simp] theorem Chip.updBank_internals (k : Nat) (f : Bank → Bank) : (c.updBank k f).internals = c.internals := rfl
@[simp] theorem Chip.updBank_fielders (k : Nat) (f : Bank → Bank) : (c.updBank k f).fielders = c.fielders := rfl
@[simp] theorem Chip.updBank_srcs (k : Nat) (f : Bank → Bank) : (c.updBank k f).srcs = c.srcs := rfl
@[simp] theorem Chip.updBank_grps (k : Nat) (f : Bank → Bank) : (c.updBank k f).grps = c.grps := rfl
@[simp] theorem Chip.updBank_locks (k : Nat) (f : Bank → Bank) : (c.updBank k f).locks = c.locks := rfl
@[simp] theorem Chip.updBank_ram (k : Nat) (f : Bank → Bank) : (c.updBank k f).ram = c.ram := rfl
@[simp] theorem Chip.updBank_pwr (k : Nat) (f : Bank → Bank) : (c.updBank k f).pwr = c.pwr := rfl
@[simp] theorem Chip.updBank_spin (k : Nat) (f : Bank → Bank) : (c.updBank k f).spin = c.spin := rfl
@[simp] theorem Chip.updBank_fab (k : Nat) (f : Bank → Bank) : (c.updBank k f).fab = c.fab := rfl
@[simp] theorem Chip.updBank_waits (k : Nat) (f : Bank → Bank) : (c.updBank k f).waits = c.waits := rfl
@[simp] theorem Chip.updBank_ids (k : Nat) (f : Bank → Bank) : (c.updBank k f).ids = c.ids := rfl
@[simp] theorem Chip.updBank_free (k : Nat) (f : Bank → Bank) : (c.updBank k f).free = c.free := rfl
@[simp] theorem Chip.updBank_out (k : Nat) (f : Bank → Bank) : (c.updBank k f).out = c.out := rfl

/-! ### emit -/

@[simp] theorem Chip.emit_straps (o : Out) : (c.emit o).straps = c.straps := rfl
@[simp] theorem Chip.emit_hold (o : Out) : (c.emit o).hold = c.hold := rfl
@[simp] theorem Chip.emit_boot (o : Out) : (c.emit o).boot = c.boot := rfl
@[simp] theorem Chip.emit_link0 (o : Out) : (c.emit o).link0 = c.link0 := rfl
@[simp] theorem Chip.emit_link1 (o : Out) : (c.emit o).link1 = c.link1 := rfl
@[simp] theorem Chip.emit_fuse (o : Out) : (c.emit o).fuse = c.fuse := rfl
@[simp] theorem Chip.emit_jtag (o : Out) : (c.emit o).jtag = c.jtag := rfl
@[simp] theorem Chip.emit_otpKey (o : Out) : (c.emit o).otpKey = c.otpKey := rfl
@[simp] theorem Chip.emit_fw (o : Out) : (c.emit o).fw = c.fw := rfl
@[simp] theorem Chip.emit_mgr (o : Out) : (c.emit o).mgr = c.mgr := rfl
@[simp] theorem Chip.emit_smb (o : Out) : (c.emit o).smb = c.smb := rfl
@[simp] theorem Chip.emit_cap (o : Out) : (c.emit o).cap = c.cap := rfl
@[simp] theorem Chip.emit_mf (o : Out) : (c.emit o).mf = c.mf := rfl
@[simp] theorem Chip.emit_us (o : Out) : (c.emit o).us = c.us := rfl
@[simp] theorem Chip.emit_usNow (o : Out) : (c.emit o).usNow = c.usNow := rfl
@[simp] theorem Chip.emit_insts (o : Out) : (c.emit o).insts = c.insts := rfl
@[simp] theorem Chip.emit_slots (o : Out) : (c.emit o).slots = c.slots := rfl
@[simp] theorem Chip.emit_eps (o : Out) : (c.emit o).eps = c.eps := rfl
@[simp] theorem Chip.emit_peps (o : Out) : (c.emit o).peps = c.peps := rfl
@[simp] theorem Chip.emit_pepOrder (o : Out) : (c.emit o).pepOrder = c.pepOrder := rfl
@[simp] theorem Chip.emit_tts (o : Out) : (c.emit o).tts = c.tts := rfl
@[simp] theorem Chip.emit_buses (o : Out) : (c.emit o).buses = c.buses := rfl
@[simp] theorem Chip.emit_queues (o : Out) : (c.emit o).queues = c.queues := rfl
@[simp] theorem Chip.emit_rally (o : Out) : (c.emit o).rally = c.rally := rfl
@[simp] theorem Chip.emit_ports (o : Out) : (c.emit o).ports = c.ports := rfl
@[simp] theorem Chip.emit_ssps (o : Out) : (c.emit o).ssps = c.ssps := rfl
@[simp] theorem Chip.emit_pass (o : Out) : (c.emit o).pass = c.pass := rfl
@[simp] theorem Chip.emit_shares (o : Out) : (c.emit o).shares = c.shares := rfl
@[simp] theorem Chip.emit_jobs (o : Out) : (c.emit o).jobs = c.jobs := rfl
@[simp] theorem Chip.emit_shareWait (o : Out) : (c.emit o).shareWait = c.shareWait := rfl
@[simp] theorem Chip.emit_internals (o : Out) : (c.emit o).internals = c.internals := rfl
@[simp] theorem Chip.emit_fielders (o : Out) : (c.emit o).fielders = c.fielders := rfl
@[simp] theorem Chip.emit_srcs (o : Out) : (c.emit o).srcs = c.srcs := rfl
@[simp] theorem Chip.emit_grps (o : Out) : (c.emit o).grps = c.grps := rfl
@[simp] theorem Chip.emit_locks (o : Out) : (c.emit o).locks = c.locks := rfl
@[simp] theorem Chip.emit_ram (o : Out) : (c.emit o).ram = c.ram := rfl
@[simp] theorem Chip.emit_pwr (o : Out) : (c.emit o).pwr = c.pwr := rfl
@[simp] theorem Chip.emit_rel (o : Out) : (c.emit o).rel = c.rel := rfl
@[simp] theorem Chip.emit_spin (o : Out) : (c.emit o).spin = c.spin := rfl
@[simp] theorem Chip.emit_fab (o : Out) : (c.emit o).fab = c.fab := rfl
@[simp] theorem Chip.emit_waits (o : Out) : (c.emit o).waits = c.waits := rfl
@[simp] theorem Chip.emit_ids (o : Out) : (c.emit o).ids = c.ids := rfl
@[simp] theorem Chip.emit_free (o : Out) : (c.emit o).free = c.free := rfl

/-! ### spinBreak -/

@[simp] theorem Chip.spinBreak_straps : c.spinBreak.straps = c.straps := rfl
@[simp] theorem Chip.spinBreak_hold : c.spinBreak.hold = c.hold := rfl
@[simp] theorem Chip.spinBreak_boot : c.spinBreak.boot = c.boot := rfl
@[simp] theorem Chip.spinBreak_link0 : c.spinBreak.link0 = c.link0 := rfl
@[simp] theorem Chip.spinBreak_link1 : c.spinBreak.link1 = c.link1 := rfl
@[simp] theorem Chip.spinBreak_fuse : c.spinBreak.fuse = c.fuse := rfl
@[simp] theorem Chip.spinBreak_jtag : c.spinBreak.jtag = c.jtag := rfl
@[simp] theorem Chip.spinBreak_otpKey : c.spinBreak.otpKey = c.otpKey := rfl
@[simp] theorem Chip.spinBreak_fw : c.spinBreak.fw = c.fw := rfl
@[simp] theorem Chip.spinBreak_mgr : c.spinBreak.mgr = c.mgr := rfl
@[simp] theorem Chip.spinBreak_smb : c.spinBreak.smb = c.smb := rfl
@[simp] theorem Chip.spinBreak_cap : c.spinBreak.cap = c.cap := rfl
@[simp] theorem Chip.spinBreak_mf : c.spinBreak.mf = c.mf := rfl
@[simp] theorem Chip.spinBreak_us : c.spinBreak.us = c.us := rfl
@[simp] theorem Chip.spinBreak_usNow : c.spinBreak.usNow = c.usNow := rfl
@[simp] theorem Chip.spinBreak_insts : c.spinBreak.insts = c.insts := rfl
@[simp] theorem Chip.spinBreak_slots : c.spinBreak.slots = c.slots := rfl
@[simp] theorem Chip.spinBreak_eps : c.spinBreak.eps = c.eps := rfl
@[simp] theorem Chip.spinBreak_peps : c.spinBreak.peps = c.peps := rfl
@[simp] theorem Chip.spinBreak_pepOrder : c.spinBreak.pepOrder = c.pepOrder := rfl
@[simp] theorem Chip.spinBreak_tts : c.spinBreak.tts = c.tts := rfl
@[simp] theorem Chip.spinBreak_buses : c.spinBreak.buses = c.buses := rfl
@[simp] theorem Chip.spinBreak_queues : c.spinBreak.queues = c.queues := rfl
@[simp] theorem Chip.spinBreak_rally : c.spinBreak.rally = c.rally := rfl
@[simp] theorem Chip.spinBreak_ports : c.spinBreak.ports = c.ports := rfl
@[simp] theorem Chip.spinBreak_ssps : c.spinBreak.ssps = c.ssps := rfl
@[simp] theorem Chip.spinBreak_pass : c.spinBreak.pass = c.pass := rfl
@[simp] theorem Chip.spinBreak_shares : c.spinBreak.shares = c.shares := rfl
@[simp] theorem Chip.spinBreak_jobs : c.spinBreak.jobs = c.jobs := rfl
@[simp] theorem Chip.spinBreak_shareWait : c.spinBreak.shareWait = c.shareWait := rfl
@[simp] theorem Chip.spinBreak_internals : c.spinBreak.internals = c.internals := rfl
@[simp] theorem Chip.spinBreak_fielders : c.spinBreak.fielders = c.fielders := rfl
@[simp] theorem Chip.spinBreak_srcs : c.spinBreak.srcs = c.srcs := rfl
@[simp] theorem Chip.spinBreak_grps : c.spinBreak.grps = c.grps := rfl
@[simp] theorem Chip.spinBreak_locks : c.spinBreak.locks = c.locks := rfl
@[simp] theorem Chip.spinBreak_ram : c.spinBreak.ram = c.ram := rfl
@[simp] theorem Chip.spinBreak_pwr : c.spinBreak.pwr = c.pwr := rfl
@[simp] theorem Chip.spinBreak_rel : c.spinBreak.rel = c.rel := rfl
@[simp] theorem Chip.spinBreak_fab : c.spinBreak.fab = c.fab := rfl
@[simp] theorem Chip.spinBreak_waits : c.spinBreak.waits = c.waits := rfl
@[simp] theorem Chip.spinBreak_ids : c.spinBreak.ids = c.ids := rfl
@[simp] theorem Chip.spinBreak_free : c.spinBreak.free = c.free := rfl
@[simp] theorem Chip.spinBreak_out : c.spinBreak.out = c.out := rfl
@[simp] theorem Chip.inst_spinBreak (j : Nat) : c.spinBreak.inst j = c.inst j := rfl
@[simp] theorem Chip.slot_spinBreak (j : Nat) : c.spinBreak.slot j = c.slot j := rfl
@[simp] theorem Chip.ep_spinBreak (j : Nat) : c.spinBreak.ep j = c.ep j := rfl
@[simp] theorem Chip.port_spinBreak (j : Nat) : c.spinBreak.port j = c.port j := rfl
@[simp] theorem Chip.ssp_spinBreak (j : Nat) : c.spinBreak.ssp j = c.ssp j := rfl
@[simp] theorem Chip.bus_spinBreak (j : Nat) : c.spinBreak.bus j = c.bus j := rfl
@[simp] theorem Chip.queue_spinBreak (j : Nat) : c.spinBreak.queue j = c.queue j := rfl
@[simp] theorem Chip.src_spinBreak (j : Nat) : c.spinBreak.src j = c.src j := rfl
@[simp] theorem Chip.grp_spinBreak (j : Nat) : c.spinBreak.grp j = c.grp j := rfl
@[simp] theorem Chip.fielder_spinBreak (j : Nat) : c.spinBreak.fielder j = c.fielder j := rfl
@[simp] theorem Chip.share_spinBreak (j : Nat) : c.spinBreak.share j = c.share j := rfl
@[simp] theorem Chip.isMgr_spinBreak (w : Writer) : c.spinBreak.isMgr w = c.isMgr w := by cases w <;> rfl

@[simp] theorem Chip.emit_out (o : Out) : (c.emit o).out = o :: c.out := rfl
@[simp] theorem Chip.inst_emit (j : Nat) (o : Out) : (c.emit o).inst j = c.inst j := rfl
@[simp] theorem Chip.slot_emit (j : Nat) (o : Out) : (c.emit o).slot j = c.slot j := rfl
@[simp] theorem Chip.ep_emit (j : Nat) (o : Out) : (c.emit o).ep j = c.ep j := rfl
@[simp] theorem Chip.port_emit (j : Nat) (o : Out) : (c.emit o).port j = c.port j := rfl
@[simp] theorem Chip.ssp_emit (j : Nat) (o : Out) : (c.emit o).ssp j = c.ssp j := rfl
@[simp] theorem Chip.bus_emit (j : Nat) (o : Out) : (c.emit o).bus j = c.bus j := rfl
@[simp] theorem Chip.queue_emit (j : Nat) (o : Out) : (c.emit o).queue j = c.queue j := rfl
@[simp] theorem Chip.src_emit (j : Nat) (o : Out) : (c.emit o).src j = c.src j := rfl
@[simp] theorem Chip.grp_emit (j : Nat) (o : Out) : (c.emit o).grp j = c.grp j := rfl
@[simp] theorem Chip.fielder_emit (j : Nat) (o : Out) : (c.emit o).fielder j = c.fielder j := rfl
@[simp] theorem Chip.share_emit (j : Nat) (o : Out) : (c.emit o).share j = c.share j := rfl

/-! ### How a command acts -/

variable (s : State)

@[simp] theorem State.act_pending (f : Chip → Chip) : (s.act f).pending = s.pending := rfl
@[simp] theorem State.act_stage (f : Chip → Chip) : (s.act f).stage = s.stage := rfl
@[simp] theorem State.act_chip (f : Chip → Chip) : (s.act f).chip = (f s.chip).pump := rfl
@[simp] theorem State.actReset_pending (f : Chip → Chip) : (s.actReset f).pending = s.pending := rfl
@[simp] theorem State.actReset_chip (f : Chip → Chip) : (s.actReset f).chip = (f s.chip).pump := rfl
@[simp] theorem State.settled_pending : s.settled.pending = s.pending := rfl
@[simp] theorem State.settled_stage : s.settled.stage = s.stage := rfl
@[simp] theorem State.settled_chip : s.settled.chip = s.chip.pump := rfl
@[simp] theorem State.put_pending : (s.put c).pending = s.pending := rfl
@[simp] theorem State.put_chip : (s.put c).chip = c := rfl

end Sys2Proof.Machine
end

