-- ==== Sys2Proof/Laws/Settle.lean ====
section
/-! SUPPORT. What ends every command: on a chip where nothing waits, nothing goes on. -/

namespace Sys2Proof.Machine

theorem Chip.calmed_iff (c : Chip) :
    c.calmed = true ↔ c.waits = [] ∧ ∀ x ∈ c.insts, ∀ m ∈ x.2.cmds, m.phase ≠ .waiting := by
  simp [Chip.calmed]

theorem Chip.nextCmd_none {c : Chip} {n : Nat} {past ms : List Cmd} (h : ∀ m ∈ ms, m.phase ≠ .waiting) :
    c.nextCmd n past ms = none := by
  induction ms generalizing past with
  | nil => rfl
  | cons m t ih =>
    have ht : ∀ m ∈ t, m.phase ≠ .waiting := fun m hm => h m (List.mem_cons_of_mem _ hm)
    simp [Chip.nextCmd, h m (by simp), ih ht]

theorem Chip.nextStart_calmed {c : Chip} (h : c.calmed = true) : c.nextStart = none := by
  have hi := ((Chip.calmed_iff c).1 h).2
  simp only [Chip.nextStart, List.findSome?_eq_none_iff]
  intro x hx
  simp [Chip.nextCmd_none (hi x hx)]

/-- On a calmed chip everything that could go on has. -/
theorem Chip.pump_calmed {c : Chip} (h : c.calmed = true) : c.pump = c := by
  have hw := ((Chip.calmed_iff c).1 h).1
  unfold Chip.pump
  rw [show 1024 + 8 * c.waits.length + c.insts.foldl (fun n x => n + 8 * x.2.cmds.length) 0
    = (1023 + 8 * c.waits.length + c.insts.foldl (fun n x => n + 8 * x.2.cmds.length) 0) + 1 by omega]
  rw [Chip.pumpN, Chip.nextStart_calmed h, hw]
  rfl

/-- A chip with the same waits and instances is calmed as well. -/
theorem Chip.calmed_congr {c d : Chip} (hw : d.waits = c.waits) (hi : d.insts = c.insts) : d.calmed = c.calmed := by
  simp [Chip.calmed, hw, hi]

/-- An update of one instance that leaves its commands alone keeps the chip calmed. -/
theorem Chip.calmed_updInst {c : Chip} {n : Nat} {f : Inst → Inst} (h : c.calmed = true) (hf : ∀ x, (f x).cmds = x.cmds) :
    (c.updInst n f).calmed = true := by
  rw [Chip.calmed_iff] at *
  refine ⟨h.1, fun x hx => ?_⟩
  rcases Tbl.mem_set hx with rfl | hx
  · simp only [hf]
    by_cases hd : Tbl.get {} c.insts n = {}
    · rw [hd]; simp
    · exact h.2 _ (Tbl.mem_of_get hd)
  · exact h.2 x hx

end Sys2Proof.Machine
end

