-- ==== Sys2Proof/Laws/Records.lean ====
section
/-! SUPPORT. What posting a record can do to an instance and to the chip, and what finishing a command can do. -/

namespace Sys2Proof.Machine

/-- What a posting changes of an instance: completion rings, MSI-X pending bits and the overflow flags. -/
def Inst.SameButRings (x y : Inst) : Prop :=
  ∃ cr p a b, y = { x with crings := cr, pend := p, evtOvf := a, ovfDue := b }

theorem Inst.SameButRings.refl (x : Inst) : x.SameButRings x := ⟨x.crings, x.pend, x.evtOvf, x.ovfDue, rfl⟩

theorem Inst.SameButRings.trans {x y z : Inst} (h : x.SameButRings y) (g : y.SameButRings z) : x.SameButRings z := by
  obtain ⟨_, _, _, _, rfl⟩ := h
  obtain ⟨_, _, _, _, rfl⟩ := g
  exact ⟨_, _, _, _, rfl⟩

theorem Inst.SameButRings.updCring (x : Inst) (k : Nat) (f : CRing → CRing) : x.SameButRings (x.updCring k f) :=
  ⟨_, _, _, _, rfl⟩

theorem IW.msix_same (w : IW) (n e : Nat) : w.x.SameButRings (w.msix n e).x := by
  unfold IW.msix
  split
  · exact .refl _
  · split
    · exact ⟨_, _, _, _, rfl⟩
    · exact .refl _

theorem IW.decision_same (w : IW) (n k : Nat) : w.x.SameButRings (w.decision n k).x := by
  unfold IW.decision
  dsimp only [IW.emit]
  split
  · exact .updCring _ _ _
  · exact (Inst.SameButRings.updCring _ _ _).trans (IW.msix_same _ _ _)

theorem IW.count_same (w : IW) (n k : Nat) (u : Bool) : w.x.SameButRings (w.count n k u).x := by
  unfold IW.count
  dsimp only
  split
  · exact (Inst.SameButRings.updCring _ _ _).trans (IW.decision_same _ _ _)
  · exact .updCring _ _ _

theorem IW.put_same (w : IW) (n k : Nat) (mf : BitVec 16) (b : Rec) : w.x.SameButRings (w.put n k mf b).x := by
  unfold IW.put
  refine Inst.SameButRings.trans ?_ (IW.count_same _ _ _ _)
  by_cases h : (w.x.compat && b.opens) = true
  · simp only [h, if_true]; exact .updCring _ _ _
  · simp only [h]; exact .updCring _ _ _

theorem IW.hold_same (w : IW) (k : Nat) (h : Held) : w.x.SameButRings (w.hold k h).x := by
  unfold IW.hold
  split
  · exact ⟨_, _, _, _, rfl⟩
  · exact .updCring _ _ _

theorem IW.post_same (w : IW) (n k : Nat) (mf : BitVec 16) (h : Held) : w.x.SameButRings (w.post n k mf h).x := by
  unfold IW.post
  split
  · exact .refl _
  · split
    · exact IW.put_same _ _ _ _ _
    · exact IW.hold_same _ _ _

/-- What a posting to an instance of this node can do to the chip: that instance's completion rings, pending bits and overflow
flags, the outputs and the count of free values. -/
theorem Chip.post_frame (c : Chip) {n : Nat} (k : Nat) (h : Held) (hn : n < 128) :
    ∃ x o fr, (c.inst n).SameButRings x ∧ c.post n k h = { c with insts := Tbl.set {} c.insts n x, out := o, free := fr } := by
  unfold Chip.post
  rw [if_neg (by omega)]
  refine ⟨_, _, _, ?_, rfl⟩
  dsimp only
  split
  · exact .refl _
  · exact IW.post_same _ _ _ _ _

/-- A posting keeps the commands of every instance. -/
theorem Chip.post_cmds (c : Chip) {n : Nat} (k : Nat) (h : Held) (hn : n < 128) (m : Nat) :
    ((c.post n k h).inst m).cmds = (c.inst m).cmds := by
  obtain ⟨x, o, fr, ⟨_, _, _, _, rfl⟩, e⟩ := c.post_frame k h hn
  rw [e]
  show (Tbl.get {} (Tbl.set {} c.insts n _) m).cmds = _
  rw [Tbl.get_set]
  split
  · rename_i h; subst h; rfl
  · rfl

/-- What sending frames can do to the chip: its fabric ports and outputs. -/
def Chip.SameButFab (c d : Chip) : Prop := ∃ f o, d = { c with fab := f, out := o }

theorem Chip.SameButFab.refl (c : Chip) : c.SameButFab c := ⟨c.fab, c.out, rfl⟩

theorem Chip.SameButFab.trans {a b c : Chip} (h : a.SameButFab b) (g : b.SameButFab c) : a.SameButFab c := by
  obtain ⟨_, _, rfl⟩ := h
  obtain ⟨_, _, rfl⟩ := g
  exact ⟨_, _, rfl⟩

theorem Chip.SameButFab.foldl {α : Type} {f : Chip → α → Chip} (h : ∀ (c : Chip) (a : α), c.SameButFab (f c a)) (l : List α) (c : Chip) :
    c.SameButFab (l.foldl f c) := by
  induction l generalizing c with
  | nil => exact .refl c
  | cons a t ih => exact (h c a).trans (ih _)

theorem Chip.drainFab_same (c : Chip) (p f : Nat) : c.SameButFab (c.drainFab p f) := by
  induction f generalizing c with
  | zero => exact .refl c
  | succ f ih =>
    rw [Chip.drainFab]
    split
    · exact .refl c
    · exact .trans ⟨_, _, rfl⟩ (ih _)

theorem Chip.sendFrame_same (c : Chip) (dst kind val : Nat) (per : Bool) : c.SameButFab (c.sendFrame dst kind val per) := by
  unfold Chip.sendFrame
  dsimp only
  split
  · exact .trans ⟨_, _, rfl⟩ (Chip.drainFab_same _ _ _)
  · exact ⟨_, _, rfl⟩

/-- A table whose value at one key changed without its commands has no command that is due to begin, if it had none. -/
theorem Chip.calmed_set {c d : Chip} {n : Nat} {x : Inst} (h : c.calmed = true) (hw : d.waits = c.waits)
    (hi : d.insts = Tbl.set {} c.insts n x) (hx : ∀ m ∈ x.cmds, m.phase ≠ .waiting) : d.calmed = true := by
  rw [Chip.calmed_iff] at *
  refine ⟨hw.trans h.1, fun y hy => ?_⟩
  rw [hi] at hy
  rcases Tbl.mem_set hy with rfl | hy
  · exact hx
  · exact h.2 y hy

theorem Chip.cmds_calmed {c : Chip} (h : c.calmed = true) (n : Nat) : ∀ m ∈ (c.inst n).cmds, m.phase ≠ .waiting := by
  rw [Chip.calmed_iff] at h
  by_cases hd : c.inst n = {}
  · rw [hd]; simp
  · exact h.2 _ (Tbl.mem_of_get hd)

/-- A posting to an instance of this node leaves nothing to go on. -/
theorem Chip.calmed_post {c : Chip} {n : Nat} (k : Nat) (r : Held) (hn : n < 128) (h : c.calmed = true) :
    (c.post n k r).calmed = true := by
  obtain ⟨x, o, fr, ⟨_, _, _, _, rfl⟩, e⟩ := c.post_frame k r hn
  rw [e]
  exact Chip.calmed_set h rfl rfl (Chip.cmds_calmed h n)

/-- Asking for command elements leaves nothing to go on. -/
theorem Chip.calmed_fetchCmds {c : Chip} {n : Nat} (h : c.calmed = true) : (c.fetchCmds n).calmed = true :=
  Chip.calmed_set (x := { c.inst n with cmdReads := _ }) h rfl rfl (Chip.cmds_calmed h n)

end Sys2Proof.Machine
end

