-- ==== Sys2Proof/Laws/Commands.lean ====
section
/-! SUPPORT. How an instance's one command is carried out by its row, on a chip where nothing else waits. -/

namespace Sys2Proof.Machine

/-- The one fetched command of an instance is marked as due. -/
theorem markWaiting_one {m : Cmd} {p : Cmd → Bool} (hf : m.phase = .fetched)
    (hp : p m = true) : markWaiting p [m] = [{m with phase := .waiting}] := by
  simp [markWaiting, hf, hp]

/-- The row of the one fetched command of an instance marks it as due. -/
theorem Chip.cmdRow_sole {c : Chip} {n : Nat} {m : Cmd} (h : c.soleCmd n m) :
    c.cmdRow n m.kind m.tag m.par = c.updInst n (fun x => { x with cmds := [{ m with phase := .waiting }] }) := by
  obtain ⟨h1, h2, h3, h4, h5, h6, h7, h8⟩ := h
  have ha : (c.inst n).cmds.any (fun x => x.kind == m.kind && x.tag == m.tag && x.par == m.par && x.phase == CmdPhase.fetched) = true := by
    simp [h4, h5]
  unfold Chip.cmdRow
  simp only [h3, Bool.false_eq_true, if_false, ha, if_true]
  apply Chip.updInst_congr
  rw [h4, markWaiting_one h5 (by simp [h5])]

/-- A search in which every hit is the same value finds it. -/
theorem findSome_of_unique {α β : Type} {f : α → Option β} {v : β} {l : List α} (h1 : ∃ a ∈ l, f a = some v)
    (h2 : ∀ a ∈ l, f a = none ∨ f a = some v) : l.findSome? f = some v := by
  induction l with
  | nil => simp at h1
  | cons a t ih =>
    rcases h2 a (by simp) with h | h
    · simp only [List.findSome?_cons, h]
      refine ih ?_ (fun b hb => h2 b (by simp [hb]))
      obtain ⟨b, hb, hv⟩ := h1
      rcases List.mem_cons.1 hb with rfl | hb
      · simp [h] at hv
      · exact ⟨b, hb, hv⟩
    · simp [h]

/-- A value that is not the default is listed where it was set. -/
theorem Tbl.mem_set_self {α} [DecidableEq α] (d : α) (t : Tbl α) (k : Nat) (v : α) (h : v ≠ d) : (k, v) ∈ Tbl.set d t k v := by
  have := Tbl.get_set d v t k k
  simp only [if_true] at this
  have h2 : Tbl.get d (Tbl.set d t k v) k ≠ d := by rw [this]; exact h
  have := Tbl.mem_of_get h2
  rwa [Tbl.get_set, if_pos rfl] at this

/-- Where nothing else waits, the one due command begins next. -/
theorem Chip.nextStart_sole {c : Chip} {n : Nat} {m : Cmd} (h : c.calmed = true) (hm : m.phase = .waiting) :
    (c.updInst n (fun x => { x with cmds := [m] })).nextStart = some (n, m) := by
  unfold Chip.nextStart
  apply findSome_of_unique
  · refine ⟨(n, { c.inst n with cmds := [m] }), Tbl.mem_set_self _ _ _ _ ?_, ?_⟩
    · intro e; have := congrArg Inst.cmds e; simp at this
    · simp [Chip.nextCmd, hm]
  · intro a ha
    rcases Tbl.mem_set ha with rfl | ha
    · right; simp [Chip.nextCmd, hm]
    · left
      rw [Chip.nextCmd_none (((Chip.calmed_iff c).1 h).2 a ha)]; rfl

/-- The node a command names does not depend on the commands that wait. -/
theorem Chip.cmdNode_cmds (c : Chip) (n : Nat) (m m' : Cmd) (l : List Cmd) (hk : m'.kind = m.kind) (hp : m'.par = m.par) :
    (c.updInst n (fun x => { x with cmds := l })).cmdNode n m' = c.cmdNode n m := by
  have hr : ∀ k, (c.updInst n (fun x => { x with cmds := l })).ring n k = c.ring n k := by
    intro k; simp [Chip.ring]
  have e1 : (c.updInst n (fun x => { x with cmds := l })).cmdSlot n m' = c.cmdSlot n m := by
    simp only [Chip.cmdSlot, hr, hk, hp]; rfl
  have e2 : cmdPort m' = cmdPort m := by simp only [cmdPort, hk, hp]
  have e3 : (c.updInst n (fun x => { x with cmds := l })).nodeNo = c.nodeNo := rfl
  simp only [Chip.cmdNode, e1, e2, e3]

/-- Choosing the Fielder of a piece of work changes the count of free values at most. -/
theorem Chip.dispatch_frame (c : Chip) (k : Nat) : ∃ fr, (c.dispatch k).2 = { c with free := fr } := by
  unfold Chip.dispatch
  split
  · exact ⟨c.free, rfl⟩
  · split <;> exact ⟨_, rfl⟩

/-- The choice does not depend on the instances. -/
theorem Chip.dispatch_updInst (c : Chip) (k n : Nat) (f : Inst → Inst) :
    (c.updInst n f).dispatch k = ((c.dispatch k).1, (c.dispatch k).2.updInst n f) := by
  unfold Chip.dispatch
  have e : (c.updInst n f).workers (Config.roleOf k).val = c.workers (Config.roleOf k).val := rfl
  simp only [Chip.updInst_boot, e, Chip.updInst_free]
  split
  · rfl
  · split <;> rfl

/-- The row of the one command of an instance carries it out on this node; what goes on after it has fuel left. -/
theorem State.act_cmdRow_pumpN {s : State} {n : Nat} {m : Cmd} (h : s.chip.soleCmd n m) :
    ∃ F, s.act (fun c => c.cmdRow n m.kind m.tag m.par)
      = { s with chip := Chip.pumpN (F + 1022) ((s.chip.begun n m).localCmd n { m with phase := .waiting }) } := by
  have h0 := h
  obtain ⟨h1, h2, h3, h4, h5, h6, h7, h8⟩ := h
  simp only [State.act, Chip.cmdRow_sole h0]
  have hw : s.chip.waits = [] := ((Chip.calmed_iff _).1 h1).1
  unfold Chip.pump
  refine ⟨8 * s.chip.waits.length + (s.chip.updInst n (fun x => { x with cmds := [{ m with phase := .waiting }] })).insts.foldl
    (fun n x => n + 8 * x.2.cmds.length) 0 + 1, ?_⟩
  have e := Chip.nextStart_sole (n := n) (m := { m with phase := .waiting }) h1 rfl
  have e2 : (s.chip.updInst n (fun x => { x with cmds := [{ m with phase := .waiting }] })).beginCmd n { m with phase := .waiting }
      = (s.chip.begun n m).localCmd n { m with phase := .waiting } := by
    unfold Chip.beginCmd
    obtain ⟨fr, hfr⟩ := s.chip.dispatch_frame (cmdKinds.idxOf m.kind)
    have e3 : (s.chip.updInst n (fun x => { x with cmds := [{ m with phase := .waiting }] })).takeUp n { m with phase := .waiting }
        = s.chip.begun n m := by
      unfold Chip.takeUp Chip.begun
      rw [Chip.dispatch_updInst]
      dsimp only
      rw [Chip.updInst_updInst]
      apply Chip.updInst_congr
      simp [updFirst]
    have e6 : (s.chip.begun n m).boot = s.chip.boot ∧ (s.chip.begun n m).rel = s.chip.rel := by
      unfold Chip.begun; dsimp only; rw [hfr]; exact ⟨rfl, rfl⟩
    have e7 : (s.chip.begun n m).cmdNode n { m with phase := .waiting } = s.chip.cmdNode n m := by
      unfold Chip.begun; dsimp only; rw [hfr]; exact Chip.cmdNode_cmds _ n m _ _ rfl rfl
    dsimp only
    rw [e3]
    have e4 : (s.chip.begun n m).cmdNode n { m with phase := .waiting } = none := e7.trans h8
    rw [e4, h6]
    have e5 : ((s.chip.begun n m).boot.fwRunning && (s.chip.begun n m).roleDown (cmdKinds.idxOf m.kind)) = false := by
      simp only [Chip.roleDown, e6] at h7 ⊢; exact h7
    rw [e5]
    rfl
  rw [show 1024 + 8 * (s.chip.updInst n (fun x => { x with cmds := [{ m with phase := .waiting }] })).waits.length
    + (s.chip.updInst n (fun x => { x with cmds := [{ m with phase := .waiting }] })).insts.foldl (fun n x => n + 8 * x.2.cmds.length) 0
    = (8 * s.chip.waits.length + (s.chip.updInst n (fun x => { x with cmds := [{ m with phase := .waiting }] })).insts.foldl
    (fun n x => n + 8 * x.2.cmds.length) 0 + 1 + 1022) + 1 by
      rw [show (s.chip.updInst n (fun x => { x with cmds := [{ m with phase := .waiting }] })).waits = s.chip.waits from rfl]; omega]
  rw [Chip.pumpN, e, show (s.chip.updInst n (fun x => { x with cmds := [{ m with phase := .waiting }] })).waits = [] from hw]
  dsimp only [takeReady]
  rw [e2]

/-- Nothing goes on where nothing waits, whatever the fuel. -/
theorem Chip.pumpN_calmed {c : Chip} (h : c.calmed = true) (F : Nat) : c.pumpN F = c := by
  cases F with
  | zero => rfl
  | succ F => rw [Chip.pumpN, Chip.nextStart_calmed h, ((Chip.calmed_iff c).1 h).1]; rfl

/-- Finishing the one command of an instance reports it. -/
theorem Chip.finish_sole (d : Chip) (n : Nat) (m : Cmd) (code : Byte) (r : Nat) {h : Option Nat}
    (hc : (d.inst n).cmds = [{ m with phase := .running, holder := h }]) :
    d.finish n m.id code r = d.reported n m code r := by
  unfold Chip.finish Chip.reported
  have e1 : d.updInst n (fun x =>
      { x with cmds := updFirst (fun y => y.id == m.id) (fun y => { y with phase := .done code (BitVec.ofNat 24 r) }) x.cmds })
      = d.updInst n (fun x => { x with cmds := [{ m with phase := .done code (BitVec.ofNat 24 r), holder := h }] }) := by
    apply Chip.updInst_congr; simp [hc, updFirst]
  dsimp only
  rw [e1]
  have e2 : ((d.updInst n (fun x =>
      { x with cmds := [{ m with phase := .done code (BitVec.ofNat 24 r), holder := h }] })).inst n).cmds.length = 1 := by simp
  rw [e2]
  simp [Chip.postCmds, Chip.updInst_updInst]

/-- Where the command leaves nothing waiting, its row answers exactly what it does. -/
theorem State.act_cmdRow {s : State} {n : Nat} {m : Cmd} (h : s.chip.soleCmd n m) {d : Chip} (hd : d.calmed = true)
    (e : (s.chip.begun n m).localCmd n { m with phase := .waiting } = d) :
    s.act (fun c => c.cmdRow n m.kind m.tag m.par) = { s with chip := d } := by
  obtain ⟨F, hF⟩ := State.act_cmdRow_pumpN h
  rw [hF, e, Chip.pumpN_calmed hd]

/-- Reporting a command leaves nothing waiting. -/
theorem Chip.calmed_reported {d : Chip} {n : Nat} (m : Cmd) (code : Byte) (r : Nat) (hn : n < 128) (h : d.calmed = true) :
    (d.reported n m code r).calmed = true := by
  unfold Chip.reported
  exact Chip.calmed_fetchCmds
      (Chip.calmed_post _ _ hn (Chip.calmed_set (x := { d.inst n with cmds := [], cmdCons := _ }) h rfl rfl (by simp)))

/-- Beginning a command leaves nothing waiting. -/
theorem Chip.calmed_begun {c : Chip} {n : Nat} (m : Cmd) (h : c.calmed = true) : (c.begun n m).calmed = true := by
  obtain ⟨fr, e⟩ := c.dispatch_frame (cmdKinds.idxOf m.kind)
  unfold Chip.begun
  dsimp only
  rw [e]
  exact Chip.calmed_set (x := { c.inst n with cmds := _ }) h rfl rfl (by simp)

/-- The command that has begun is the one running. -/
theorem Chip.begun_cmds (c : Chip) (n : Nat) (m : Cmd) :
    ((c.begun n m).inst n).cmds = [{ m with phase := .running, holder := (c.dispatch (cmdKinds.idxOf m.kind)).1 }] := by
  unfold Chip.begun; simp

/-- Whether anything waits depends on the waits and the instances alone. -/
theorem Chip.calmed_same {c d : Chip} (h : c.calmed = true) (hw : d.waits = c.waits) (hi : d.insts = c.insts) : d.calmed = true :=
  (Chip.calmed_congr hw hi).trans h

/-- A slot that is no orphan is not adopted. -/
theorem Chip.adopt_owned {c : Chip} {sk : Nat} (h : (c.slot sk).orphan = false) : c.adopt sk = c := by unfold Chip.adopt; rw [h]; rfl

/-- A slot in no share group is not shared. -/
theorem Chip.sharedBy_none {c : Chip} {sk : Nat}
    (h : (c.slot sk).shared = none) : c.sharedBy sk = false := by unfold Chip.sharedBy; rw [h]; rfl

/-- Work that is ready, with nothing else waiting, is done. -/
theorem Chip.pumpN_wait {c : Chip} {w : Wait} (hw : c.waits = []) (hd : (c.wait w).detachRoot w = none)
    (hr : (c.wait w).ready w = true) (F : Nat) :
    (c.wait w).pumpN (F + 1) = (c.runCont w.cont).pumpN F := by
  have e : (c.wait w).waits = [w] := by simp [Chip.wait, hw]
  have t : takeReady (c.wait w) [] [w] = some (w, []) := by simp [takeReady, hd, hr]
  rw [Chip.pumpN, e, t]
  dsimp only
  have : ({ c.wait w with waits := [] } : Chip) = c := by
    unfold Chip.wait; cases c; simp_all
  rw [this]

/-- The same for the settling of a chip on which nothing else waits. -/
theorem Chip.pump_wait {c d : Chip} {w : Wait} (h : c.calmed = true) (hd : (c.wait w).detachRoot w = none) (hr : (c.wait w).ready w = true)
    (hc : c.runCont w.cont = d) (h2 : d.calmed = true) : (c.wait w).pump = d := by
  unfold Chip.pump
  rw [show 1024 + 8 * (c.wait w).waits.length + (c.wait w).insts.foldl (fun n x => n + 8 * x.2.cmds.length) 0
    = (1023 + 8 * (c.wait w).waits.length + (c.wait w).insts.foldl (fun n x => n + 8 * x.2.cmds.length) 0) + 1 by omega]
  rw [Chip.pumpN_wait ((Chip.calmed_iff c).1 h).1 hd hr, hc, Chip.pumpN_calmed h2]

/-- What a report leaves: the instance's commands are gone, and only its record and element fetches have been sent. -/
theorem Chip.reported_frame (d : Chip) {n : Nat} (m : Cmd) (code : Byte) (r : Nat) (hn : n < 128) :
    ∃ x o fr, d.reported n m code r = { d with insts := Tbl.set {} d.insts n x, out := o, free := fr }
        ∧ x.cmds = [] ∧ x.mbox = (d.inst n).mbox := by
  unfold Chip.reported
  dsimp only
  obtain ⟨x, o, fr, ⟨_, _, _, _, rfl⟩, e⟩ := (d.updInst n (fun x => { x with
    cmds := [], cmdCons := if m.old then x.cmdCons else (m.entry + 1) % 2 ^ (d.inst n).cmdLog2 })).post_frame 0
      { body := .command code m.tag (BitVec.ofNat 24 r) ((m.entry + 1) % 2 ^ (d.inst n).cmdLog2) m.entry } hn
  rw [e]
  unfold Chip.fetchCmds Chip.updInst
  simp only [Tbl.upd, Tbl.set_set, Tbl.get_set_same, Chip.inst]
  exact ⟨_, _, _, rfl, rfl, rfl⟩

/-- Where the command leaves work that is ready, its row answers what that work does. -/
theorem State.act_cmdRow_wait {s : State} {n : Nat} {m : Cmd} (h : s.chip.soleCmd n m)
    {d e : Chip} {w : Wait} (hl : (s.chip.begun n m).localCmd n
    { m with phase := .waiting } = d.wait w) (hw : d.waits = []) (hd : (d.wait w).detachRoot w = none) (hr : (d.wait w).ready w = true)
    (hc : d.runCont w.cont = e) (he : e.calmed = true) : s.act (fun c => c.cmdRow n m.kind m.tag m.par) = { s with chip := e } := by
  obtain ⟨F, hF⟩ := State.act_cmdRow_pumpN h
  rw [hF, hl, show F + 1022 = (F + 1021) + 1 by omega, Chip.pumpN_wait hw hd hr, hc, Chip.pumpN_calmed he]

/-- The same, where that work leaves further work that is ready. -/
theorem State.act_cmdRow_waits {s : State} {n : Nat} {m : Cmd} (h : s.chip.soleCmd n m)
    {d d' e : Chip} {w w' : Wait} (hl : (s.chip.begun n m).localCmd n
    { m with phase := .waiting } = d.wait w) (hw : d.waits = []) (hd : (d.wait w).detachRoot w = none) (hr : (d.wait w).ready w = true)
    (hc : d.runCont w.cont = d'.wait w') (hw' : d'.waits = []) (hd' : (d'.wait w').detachRoot w' = none)
        (hr' : (d'.wait w').ready w' = true)
    (hc' : d'.runCont w'.cont = e) (he : e.calmed = true) : s.act (fun c => c.cmdRow n m.kind m.tag m.par) = { s with chip := e } := by
  obtain ⟨F, hF⟩ := State.act_cmdRow_pumpN h
  rw [hF, hl, show F + 1022 = (F + 1020 + 1) + 1 by omega, Chip.pumpN_wait hw hd hr,
      hc, Chip.pumpN_wait hw' hd' hr', hc', Chip.pumpN_calmed he]

end Sys2Proof.Machine
end

