-- ==== Sys2Proof/Laws/Memory.lean ====
section
/-! SUPPORT. Laws of the staging memory: what a store leaves at each address, and its canonical form. -/

namespace Sys2Proof.Machine

theorem Memory.byte_put (m : Memory) (a b : Nat) (v : Byte) : (m.put b v).byte a = if a = b then v else m.byte a :=
  Tbl.get_set 0 v m a b

/-- A store changes the bytes it names and no other. -/
theorem Memory.byte_store (m : Memory) (b : Nat) (vs : List Byte) (a : Nat) :
    (m.store b vs).byte a = if b ≤ a ∧ a < b + vs.length then vs.getD (a - b) 0 else m.byte a := by
  induction vs generalizing m b with
  | nil => rw [Memory.store, if_neg (by simp)]
  | cons v vs ih =>
    rw [Memory.store, ih, Memory.byte_put]
    by_cases h1 : b + 1 ≤ a ∧ a < b + 1 + vs.length
    · rw [if_pos h1, if_pos (by simp; omega), show a - b = (a - (b + 1)) + 1 by omega]; rfl
    · rw [if_neg h1]
      by_cases h2 : a = b
      · subst h2; simp
      · rw [if_neg h2, if_neg (by simp at *; omega)]

theorem Memory.wf_put {m : Memory} {a : Nat} {v : Byte} (hm : m.wf = true) (ha : a < stageSize) : (m.put a v).wf = true := by
  simp only [Memory.wf, Bool.and_eq_true, List.all_eq_true, decide_eq_true_eq] at *
  refine ⟨Tbl.wf_set hm.1, fun e he => ?_⟩
  rcases Tbl.mem_set he with rfl | he
  · exact ha
  · exact hm.2 e he

/-- A store inside the memory keeps the canonical form. -/
theorem Memory.wf_store {m : Memory} {a : Nat} {vs : List Byte} (hm : m.wf = true) (ha : a + vs.length ≤ stageSize) :
    (m.store a vs).wf = true := by
  induction vs generalizing m a with
  | nil => exact hm
  | cons v vs ih =>
    simp only [List.length_cons] at ha
    exact ih (Memory.wf_put hm (by omega)) (by omega)

theorem Memory.rises_ofBytes (vs : List Byte) (a : Nat) : Tbl.rises a (Memory.ofBytes a vs) = true := by
  induction vs generalizing a with
  | nil => rfl
  | cons v vs ih =>
    simp only [Memory.ofBytes]
    split
    · exact Tbl.rises_mono (Nat.le_succ a) (ih (a + 1))
    · simp [Tbl.rises, ih]

theorem Memory.mem_ofBytes {vs : List Byte} {a : Nat} {e : Nat × Byte} (h : e ∈ Memory.ofBytes a vs) :
    e.1 < a + vs.length ∧ e.2 ≠ 0 := by
  induction vs generalizing a with
  | nil => simp [Memory.ofBytes] at h
  | cons v vs ih =>
    simp only [Memory.ofBytes] at h
    split at h
    · have := ih h; exact ⟨by simp only [List.length_cons]; omega, this.2⟩
    · rcases List.mem_cons.1 h with rfl | h
      · rename_i hv; exact ⟨by simp, hv⟩
      · have := ih h; exact ⟨by simp only [List.length_cons]; omega, this.2⟩

/-- A memory made of bytes that fit is canonical. -/
theorem Memory.wf_ofBytes {vs : List Byte} (h : vs.length ≤ stageSize) : (Memory.ofBytes 0 vs).wf = true := by
  simp only [Memory.wf, Tbl.wf, Bool.and_eq_true, List.all_eq_true, decide_eq_true_eq]
  exact ⟨⟨Memory.rises_ofBytes vs 0, fun e he => (Memory.mem_ofBytes he).2⟩,
    fun e he => by have := (Memory.mem_ofBytes he).1; omega⟩

theorem leBytes_length (k n : Nat) : (leBytes k n).length = k := by
  induction k generalizing n with
  | zero => rfl
  | succ k ih => simp [leBytes, ih]

theorem Memory.wf_nil : Memory.wf [] = true := rfl

end Sys2Proof.Machine
end

