-- ==== Sys2Proof/Laws/Registers.lean ====
section
/-! SUPPORT. Bit fields and register accesses. -/

namespace Sys2Proof.Machine

/-- A field is below its width. -/
theorem fld_lt (v : Word) (h l : Nat) : fld v h l < 2 ^ (h - l + 1) := by
  unfold fld; exact Nat.lt_of_lt_of_le (Nat.mod_lt _ (by positivity)) (Nat.pow_le_pow_right (by omega) (by omega))

/-- The low word of a widened word is the word. -/
theorem word_of_widened (v : Word) : BitVec.ofNat 32 (v.setWidth 64).toNat = v := by
  apply BitVec.eq_of_toNat_eq; simp; omega

/-- An aligned 32-bit write is the write of one word (R4). -/
theorem State.hostWrite_word (s : State) (n : Fin 128) (bar off : Nat) (v : Word) (h : off % 4 = 0) :
    s.hostWrite n bar off (v.setWidth 64) 4 = s.hostWord n bar off v := by
  unfold State.hostWrite; rw [if_neg (by omega), if_pos rfl, word_of_widened]

/-- When a source's line asserts it (R328). -/
theorem asserted_eq (n : Nat) (y : Src) : asserted n y = (isLevel n y && (y.line == (senseOf n y == 0))) := by
  unfold asserted
  by_cases h : senseOf n y = 0
  · simp [h]
  · have : (senseOf n y == 0) = false := by simpa using h
    rw [if_neg h, this]; cases y.line <;> rfl

end Sys2Proof.Machine
end

