-- ==== Sys2Proof/Laws/Stops.lean ====
section
/-! SUPPORT. What the stop of an endpoint that rests does (R94 to R97). -/

namespace Sys2Proof.Machine

/-- What a change of endpoint `key` leaves: every other endpoint, the slots, rings, buses' transactions, and whether anything waits. -/
structure Chip.KeptBut (key : Nat) (c d : Chip) : Prop where
  ep : ∀ j, j ≠ key → d.ep j = c.ep j
  slots : d.slots = c.slots
  ring : ∀ n k, d.ring n k = c.ring n k
  inst : ∀ n, { d.inst n with rings := (c.inst n).rings } = c.inst n
  on : ∀ b, (d.bus b).on = (c.bus b).on ∧ (d.bus b).paused = (c.bus b).paused
  us : d.us = c.us
  rest : d.waits = c.waits ∧ d.boot = c.boot ∧ d.ports = c.ports ∧ d.ssps = c.ssps
      ∧ d.peps = c.peps ∧ d.fab = c.fab ∧ d.rel = c.rel ∧ d.mf = c.mf
  calm : c.calmed = true → d.calmed = true

/-- Nothing changed. -/
theorem Chip.KeptBut.refl (key : Nat) (c : Chip) : c.KeptBut key c :=
  ⟨fun _ _ => rfl, rfl, fun _ _ => rfl, fun _ => rfl, fun _ => ⟨rfl, rfl⟩, rfl, ⟨rfl, rfl, rfl, rfl, rfl, rfl, rfl, rfl⟩, id⟩

/-- One change after another, of the same endpoint. -/
theorem Chip.KeptBut.trans {key : Nat} {a b c : Chip} (h : a.KeptBut key b) (g : b.KeptBut key c) : a.KeptBut key c := by
  refine ⟨fun j hj => (g.ep j hj).trans (h.ep j hj), g.slots.trans h.slots, fun n k => (g.ring n k).trans (h.ring n k), fun n => ?_,
    fun b => ⟨(g.on b).1.trans (h.on b).1, (g.on b).2.trans (h.on b).2⟩, g.us.trans h.us, ?_, fun x => g.calm (h.calm x)⟩
  · have := h.inst n; rw [← g.inst n] at this; exact this
  · obtain ⟨h1, h2, h3, h4, h5, h6, h7, h8⟩ := h.rest
    obtain ⟨g1, g2, g3, g4, g5, g6, g7, g8⟩ := g.rest
    exact ⟨g1.trans h1, g2.trans h2, g3.trans h3, g4.trans h4, g5.trans h5, g6.trans h6, g7.trans h7, g8.trans h8⟩

/-- A change of the endpoint itself. -/
theorem Chip.KeptBut.updEp (c : Chip) (key : Nat) (f : Ep → Ep) : c.KeptBut key (c.updEp key f) :=
  ⟨fun j hj => by simp [Chip.ep, Chip.updEp, Tbl.upd, Tbl.get_set_other _ _ _ hj], rfl,
      fun _ _ => rfl, fun _ => rfl, fun _ => ⟨rfl, rfl⟩, rfl,
    ⟨rfl, rfl, rfl, rfl, rfl, rfl, rfl, rfl⟩, fun h => (Chip.calmed_congr rfl rfl).trans h⟩

/-- A ring written back as it is. -/
theorem Chip.KeptBut.updRing {c : Chip} (key : Nat) {n k : Nat} {f : Ring → Ring}
    (h : f (c.ring n k) = c.ring n k) : c.KeptBut key (c.updRing n k f) := by
  refine ⟨fun _ _ => rfl, rfl, ?_, ?_, fun _ => ⟨rfl, rfl⟩, rfl, ⟨rfl, rfl, rfl, rfl, rfl, rfl, rfl, rfl⟩,
      fun h => Chip.calmed_updInst h (fun _ => rfl)⟩
  · intro m j
    simp only [Chip.ring, Chip.updRing, Chip.updInst, Chip.inst, Tbl.get_upd] at *
    split
    · rename_i e; subst e
      rw [Tbl.get_upd]; split
      · rename_i e; subst e; exact h
      · rfl
    · rfl
  · intro m
    simp only [Chip.updRing, Chip.updInst, Chip.inst, Tbl.get_upd]
    split
    · rename_i e; subst e; rfl
    · rfl

/-- Outputs are not among what is kept (log entry 1). -/
theorem Chip.KeptBut.out {c d : Chip} {key : Nat} (h : c.KeptBut key d) (o : List Out) : c.KeptBut key { d with out := o } :=
  ⟨h.ep, h.slots, h.ring, h.inst, h.on, h.us, h.rest, fun x => (Chip.calmed_congr rfl rfl).trans (h.calm x)⟩

/-- A change of a bus that leaves what is on it. -/
theorem Chip.KeptBut.updBus (c : Chip) (key b : Nat) (f : Bus → Bus)
    (h : ∀ x, (f x).on = x.on ∧ (f x).paused = x.paused) : c.KeptBut key (c.updBus b f) := by
  refine ⟨fun _ _ => rfl, rfl, fun _ _ => rfl, fun _ => rfl, ?_, rfl, ⟨rfl, rfl, rfl, rfl, rfl, rfl, rfl, rfl⟩,
      fun h => (Chip.calmed_congr rfl rfl).trans h⟩
  intro a
  rw [Chip.bus_updBus]
  split
  · rename_i e; subst e; exact h _
  · exact ⟨rfl, rfl⟩

/-- Whether an endpoint is on its bus. -/
theorem Chip.KeptBut.onBus {c d : Chip} {key : Nat} (h : c.KeptBut key d) (j : Nat) : d.onBus j = c.onBus j := by
  unfold Chip.onBus Chip.slotBus Chip.slot
  rw [h.slots]
  dsimp only
  rw [(h.on _).1, (h.on _).2]

/-- Where the rings of a slot are held. -/
theorem Chip.KeptBut.ringHome {c d : Chip} {key : Nat} (h : c.KeptBut key d) (sk : Nat) : d.ringHome sk = c.ringHome sk := by
  unfold Chip.ringHome Chip.slot; rw [h.slots]

/-- A ring at ease has no CHAIN_MID record to note (R65). -/
theorem Ring.noteMids_atEase {r : Ring} (h : r.atEase) : r.noteMids = r := by
  unfold Ring.noteMids; rw [h.1]; rfl

/-- The step of a ring at ease changes nothing. -/
theorem Chip.midStep_atEase {c : Chip} (key n k : Nat) (h : (c.ring n k).atEase) : c.KeptBut key ((c.midStep key n k).closeTdOn n key k)
    ∧ ((c.midStep key n k).closeTdOn n key k).ep key = c.ep key := by
  have e0 : (c.updRing n k Ring.noteMids).KeptBut key (c.updRing n k Ring.noteMids) := .refl _ _
  have hk : c.KeptBut key (c.updRing n k Ring.noteMids) := .updRing key (Ring.noteMids_atEase h)
  have hr : ((c.updRing n k Ring.noteMids).ring n k).td = {} := by rw [hk.ring]; exact h.1
  have e1 : c.midStep key n k = c.updRing n k Ring.noteMids := by
    unfold Chip.midStep
    dsimp only
    rw [hr]
    simp
  rw [e1]
  unfold Chip.closeTdOn
  dsimp only
  rw [hr]
  exact ⟨hk, rfl⟩

/-- A ring at ease of an endpoint that does not run asks for no element. -/
theorem Chip.fetch_atEase {c : Chip} (key n k : Nat) (h : c.fetches n k = false) : c.KeptBut key (c.fetch n k)
    ∧ (c.fetch n k).ep key = c.ep key := by
  unfold Chip.fetch
  simp only [h, Bool.false_eq_true, if_false, Nat.add_zero]
  exact ⟨(Chip.KeptBut.updRing (f := fun r => { r with reads := r.reads }) key rfl).out _, rfl⟩

/-- What an endpoint rests on is kept by changes that keep its work. -/
theorem Chip.resting_kept {c d : Chip} {key : Nat} (h : c.resting key) (k : c.KeptBut key d)
    (hd : (d.ep key).done = []) (hu : (d.ep key).due = 0)
    (hf : (d.ep key).flights = []) (hm : (d.ep key).maxStreams = 0) (hr : (d.ep key).ring = (c.ep key).ring) : d.resting key := by
  obtain ⟨h1, h2, h3, h4, h5, h6, h7, h8, h9⟩ := h
  have e : d.epRing key = c.epRing key := by
    unfold Chip.epRing Ep.headRing
    rw [k.ring, k.ringHome, if_pos hm, if_pos h7, hr]
  refine ⟨h1, ?_, (k.onBus key).trans h3, hd, hu, hf, hm, e ▸ h8, e ▸ h9⟩
  unfold Chip.slot; rw [k.slots]; exact h2

/-- The rings of an endpoint that rests. -/
theorem Chip.resting_rings {c : Chip} {key : Nat} (h : c.resting key) {k : Nat} (hk : k ∈ (c.ep key).rings) : k = (c.ep key).headRing := by
  obtain ⟨_, _, _, _, _, _, h7, _⟩ := h
  unfold Ep.rings at hk
  unfold Ep.headRing
  rw [if_pos h7] at hk ⊢
  split at hk <;> simp at hk
  exact hk

/-- An endpoint that rests and does not run has nothing to go on with. -/
theorem Chip.tend_resting {c : Chip} {key : Nat} (h : c.resting key) (hs : (c.ep key).st ≠ .running) (hn : (c.ep key).stop = none) :
    c.KeptBut key (c.tend key) ∧ (c.tend key).ep key = c.ep key := by
  have hfe : ∀ d : Chip, c.KeptBut key d → d.ep key = c.ep key → d.resting key := by
    intro d k e
    obtain ⟨h1, h2, h3, h4, h5, h6, h7, h8, h9⟩ := h
    exact Chip.resting_kept ⟨h1, h2, h3, h4, h5, h6, h7, h8, h9⟩ k (e ▸ h4) (e ▸ h5) (e ▸ h6) (e ▸ h7) (by rw [e])
  have flush : ∀ d : Chip, d.resting key → d.flushEp key = d := by
    intro d r; unfold Chip.flushEp; rw [r.2.2.2.1]; rfl
  have ff : ∀ d : Chip, c.KeptBut key d → d.ep key = c.ep key → d.fetches (d.ringHome (keySlot key)) (d.ep key).headRing = false := by
    intro d k e
    obtain ⟨h1, h2, h3, h4, h5, h6, h7, h8, h9⟩ := hfe d k e
    unfold Chip.fetches
    dsimp only
    by_cases hl : (d.epRing key).live = true
    · have hk : (d.ring (d.ringHome (keySlot key)) (d.ep key).headRing).key = key := h9 hl
      have ht : (d.ring (d.ringHome (keySlot key)) (d.ep key).headRing).td = {} := h8.1
      rw [hk, ht, e]
      simp [hs, Ep.going, hn]
    · have hl : (d.ring (d.ringHome (keySlot key)) (d.ep key).headRing).live = false := by simpa [Chip.epRing] using hl
      rw [hl]; simp
  have fold : ∀ (g : Chip → Nat → Chip) (d : Chip), (∀ x : Chip, c.KeptBut key x → x.ep key = c.ep key →
      c.KeptBut key (g x (c.ep key).headRing) ∧ (g x (c.ep key).headRing).ep key = c.ep key) → c.KeptBut key d → d.ep key = c.ep key →
      c.KeptBut key ((d.ep key).rings.foldl g d) ∧ ((d.ep key).rings.foldl g d).ep key = c.ep key := by
    intro g d hg k e
    rw [e]
    have : ∀ (l : List Nat) (x : Chip), (∀ a ∈ l, a = (c.ep key).headRing) → c.KeptBut key x → x.ep key = c.ep key →
        c.KeptBut key (l.foldl g x) ∧ (l.foldl g x).ep key = c.ep key := by
      intro l
      induction l with
      | nil => intro x _ kx ex; exact ⟨kx, ex⟩
      | cons a t ih =>
        intro x ha kx ex
        have := hg x kx ex
        rw [List.foldl]
        rw [ha a (by simp)]
        exact ih _ (fun b hb => ha b (by simp [hb])) this.1 this.2
    exact this _ _ (fun a ha => Chip.resting_rings h ha) k e
  unfold Chip.tend
  rw [h.1]
  simp only [Bool.false_eq_true, if_false]
  rw [flush c h]
  -- midAll
  have mid : c.KeptBut key (c.midAll key) ∧ (c.midAll key).ep key = c.ep key := by
    unfold Chip.midAll
    have eb : c.KeptBut key (c.endBad key) ∧ (c.endBad key).ep key = c.ep key := by
      unfold Chip.endBad
      rw [h.2.2.1]
      simp only [Bool.false_eq_true, if_false]
      refine fold _ c ?_ (.refl _ _) rfl
      intro x kx ex
      have ht : (x.ring (x.ringHome (keySlot key)) (x.ep key).headRing).td = {} := (hfe x kx ex).2.2.2.2.2.2.2.1.1
      rw [← ex]
      simp only [ht]
      exact ⟨kx, rfl⟩
    have := fold (fun c k => (c.midStep key (c.ringHome (keySlot key)) k).closeTd key k) (c.endBad key) ?_ eb.1 eb.2
    · rw [eb.2] at this; exact this
    · intro x kx ex
      have ha : (x.ring (x.ringHome (keySlot key)) (x.ep key).headRing).atEase := (hfe x kx ex).2.2.2.2.2.2.2.1
      rw [ex] at ha
      have hs := Chip.midStep_atEase key _ _ ha
      have hh : (x.midStep key (x.ringHome (keySlot key)) (c.ep key).headRing).ringHome (keySlot key) = x.ringHome (keySlot key) := by
        have : x.KeptBut key (x.midStep key (x.ringHome (keySlot key)) (c.ep key).headRing) := by
          unfold Chip.midStep
          have hr : ((x.updRing (x.ringHome (keySlot key)) (c.ep key).headRing Ring.noteMids).ring
              (x.ringHome (keySlot key)) (c.ep key).headRing).td = {} := by
            rw [(Chip.KeptBut.updRing key (Ring.noteMids_atEase ha)).ring]; exact ha.1
          dsimp only
          rw [hr]
          simp only [List.isEmpty_nil, Bool.or_true, Bool.true_or, if_true]
          exact .updRing key (Ring.noteMids_atEase ha)
        exact this.ringHome _
      unfold Chip.closeTd
      rw [hh]
      exact ⟨kx.trans hs.1, hs.2.trans ex⟩
  have r1 := hfe _ mid.1 mid.2
  rw [flush _ r1]
  have st1 : (c.midAll key).settle key = c.midAll key := by unfold Chip.settle; rw [mid.2, hn]
  have py1 : (c.midAll key).payEp key = c.midAll key := by unfold Chip.payEp; rw [mid.2, h.2.2.2.2.1]; rfl
  rw [st1, py1]
  have fe := fold (fun c k => c.fetch (c.ringHome (keySlot key)) k) (c.midAll key) (by
    intro x kx ex
    have := Chip.fetch_atEase key _ _ (ff x kx ex)
    rw [ex] at this
    exact ⟨kx.trans this.1, this.2⟩) mid.1 mid.2
  generalize ((c.midAll key).ep key).rings.foldl (fun c k => c.fetch (c.ringHome (keySlot key)) k) (c.midAll key) = d at fe
  have rd := hfe d fe.1 fe.2
  have ps : d.pickStream key = d := by
    unfold Chip.pickStream; dsimp only
    rw [rd.2.2.2.2.2.2.1]; rfl
  rw [ps]
  unfold Chip.advance
  dsimp only
  have hl : (d.ring (d.ringHome (keySlot key)) (d.ep key).headRing).long = false := rd.2.2.2.2.2.2.2.1.2
  rw [hl]
  simp only [Bool.false_eq_true, if_false]
  have ft := Chip.fetch_atEase key _ _ (ff d fe.1 fe.2)
  have hst : ((d.ep key).st != .running) = true := by rw [fe.2]; simp [hs]
  rw [hst]
  simp only [Bool.true_or, if_true]
  exact ⟨fe.1.trans ft.1, ft.2.trans fe.2⟩

/-- The stop of an endpoint that rests is over at once. -/
theorem Chip.stop_resting {c : Chip} {key : Nat} (h : c.resting key) (why : StopWhy) (hw : why = .quit ∨ why = .settle ∨ why = .reset) :
    c.KeptBut key (c.stop key why) ∧ (c.stop key why).ep key = (c.ep key).unstaged.stopped why c.us := by
  obtain ⟨h1, h2, h3, h4, h5, h6, h7, h8, h9⟩ := h
  have hr : c.resting key := ⟨h1, h2, h3, h4, h5, h6, h7, h8, h9⟩
  unfold Chip.stop
  dsimp only
  let f : Ep → Ep := fun e => { e with
    stop := some why
    settled := (e.asked && e.settled) || e.done.any (fun d => natural d.code)
    done := if why.settles then e.done.map (fun d => if natural d.code then { d with late := true } else d) else e.done }
  have kf : c.KeptBut key (c.updEp key f) := .updEp c key f
  have ef : (c.updEp key f).ep key = f (c.ep key) := by simp
  have rf : (c.updEp key f).resting key :=
      Chip.resting_kept hr kf (by rw [ef]; simp [f, h4]) (by rw [ef]; exact h5) (by rw [ef]; exact h6) (by rw [ef]; exact h7) (by rw [ef])
  have uf : (c.updEp key f).us = c.us := rfl
  change c.KeptBut key ((c.updEp key f).settle key) ∧ ((c.updEp key f).settle key).ep key = _
  generalize c.updEp key f = a at kf ef rf uf
  unfold Chip.settle
  rw [show (a.ep key).stop = some why by rw [ef]]
  dsimp only
  rw [rf.2.2.1]
  simp only [Bool.false_eq_true, if_false]
  have sw : a.settleWork key why = a.unstage key := by
    have ht : (a.ring (a.ringHome (keySlot key)) (a.ep key).headRing).td = {} := rf.2.2.2.2.2.2.2.1.1
    unfold Chip.settleWork
    dsimp only
    rw [ht]
    rcases hw with rfl | rfl | rfl <;> simp
  rw [sw]
  have ku : a.KeptBut key (a.unstage key) := by
    unfold Chip.unstage Chip.freeCells
    dsimp only
    exact ((Chip.KeptBut.updBus a key _ _ (fun x => by split <;> exact ⟨rfl, rfl⟩)).trans (.updEp _ _ _)).trans (.updEp _ _ _)
  have eu : (a.unstage key).ep key = { a.ep key with
      cells := (a.ep key).cells - ((a.ep key).cells - (a.ep key).unread - (a.ep key).kept.sum)
      staged := false, staging := false, stagedLen := 0 } := by
    unfold Chip.unstage Chip.freeCells; simp
  have ru : (a.unstage key).resting key :=
      Chip.resting_kept rf ku (by rw [eu]; exact rf.2.2.2.1) (by rw [eu]; exact rf.2.2.2.2.1) (by rw [eu]; exact rf.2.2.2.2.2.1)
    (by rw [eu]; exact rf.2.2.2.2.2.2.1) (by rw [eu])
  have uu : (a.unstage key).us = c.us := ku.us.trans uf
  generalize a.unstage key = d at ku eu ru uu
  have fl : d.flushEp key = d := by unfold Chip.flushEp; rw [ru.2.2.2.1]; rfl
  rw [fl]
  have hq : d.atRest key why = true := by
    have ht : (d.ring (d.ringHome (keySlot key)) (d.ep key).headRing).td = {} := ru.2.2.2.2.2.2.2.1.1
    have : d.quiet key = true := by
      unfold Chip.quiet; dsimp only; rw [ht, ru.2.2.1, ru.2.2.2.1]; simp
    rcases hw with rfl | rfl | rfl <;> exact this
  rw [hq]
  simp only [if_true]
  have hwr : why ≠ .reroute := by rcases hw with rfl | rfl | rfl <;> simp
  rw [if_neg hwr, uu]
  have hrc : ∀ x : Chip, d.KeptBut key x → x.recall key = x := by
    intro x kx
    have hh : x.ringHome (keySlot key) < 128 := by
      rw [kx.ringHome]; unfold Chip.ringHome; rw [ru.2.1]; exact (d.slot (keySlot key)).owner.isLt
    unfold Chip.recall
    dsimp only
    rw [if_neg (by omega), h1]; rfl
  rw [hrc _ (.updEp _ _ _)]
  refine ⟨(kf.trans ku).trans (.updEp _ _ _), ?_⟩
  rw [Chip.ep_updEp_same, eu, ef]
  simp only [f, h4, List.any_nil, Bool.or_false, List.map_nil, ite_self, Ep.unstaged]
  rcases hw with rfl | rfl | rfl <;> simp only [Ep.stopped, Ep.bump, Ep.carries]

/-- The same, with what the endpoint then goes on with: nothing. -/
theorem Chip.stop_tend_resting {c : Chip} {key : Nat} (h : c.resting key) (why : StopWhy)
    (hw : why = .quit ∨ why = .settle ∨ why = .reset) :
    c.KeptBut key ((c.stop key why).tend key) ∧ ((c.stop key why).tend key).ep key = (c.ep key).unstaged.stopped why c.us := by
  obtain ⟨k, e⟩ := Chip.stop_resting h why hw
  obtain ⟨h1, h2, h3, h4, h5, h6, h7, h8, h9⟩ := h
  have hb : ∀ x : Ep, x.flights = [] → x.due = 0 → (x.bump c.us).due = 0 ∧ (x.bump c.us).flights = []
      ∧ (x.bump c.us).done = x.done ∧ (x.bump c.us).maxStreams = x.maxStreams
      ∧ (x.bump c.us).ring = x.ring ∧ (x.bump c.us).stop = x.stop ∧ (x.bump c.us).st = x.st := by
    intro x hx hd; unfold Ep.bump Ep.carries; rw [hx]; simp [hd]
  have key1 : (((c.ep key).unstaged.stopped why c.us).done = [] ∧ ((c.ep key).unstaged.stopped why c.us).due = 0
      ∧ ((c.ep key).unstaged.stopped why c.us).flights = []
      ∧ ((c.ep key).unstaged.stopped why c.us).maxStreams = 0 ∧ ((c.ep key).unstaged.stopped why c.us).ring = (c.ep key).ring
      ∧ ((c.ep key).unstaged.stopped why c.us).st ≠ .running ∧ ((c.ep key).unstaged.stopped why c.us).stop = none) := by
    have f0 : (c.ep key).unstaged.flights = [] := h6
    have d0 : (c.ep key).unstaged.due = 0 := h5
    have n0 : (c.ep key).unstaged.done = [] := h4
    have m0 : (c.ep key).unstaged.maxStreams = 0 := h7
    have r0 : (c.ep key).unstaged.ring = (c.ep key).ring := rfl
    generalize (c.ep key).unstaged = u at f0 d0 n0 m0 r0
    rcases hw with rfl | rfl | rfl <;> unfold Ep.stopped <;> dsimp only <;> split <;> simp_all [Ep.bump, Ep.carries]
  have r := Chip.resting_kept ⟨h1, h2, h3, h4, h5, h6, h7, h8, h9⟩ k
    (by rw [e]; exact key1.1) (by rw [e]; exact key1.2.1) (by rw [e]; exact key1.2.2.1)
    (by rw [e]; exact key1.2.2.2.1) (by rw [e]; exact key1.2.2.2.2.1)
  have t := Chip.tend_resting r (by rw [e]; exact key1.2.2.2.2.2.1) (by rw [e]; exact key1.2.2.2.2.2.2)
  exact ⟨k.trans t.1, t.2.trans e⟩

end Sys2Proof.Machine
end

