-- ==== Sys2Proof/Machine/Reads.lean ====
section
/-! DEFINITION. What reads answer (R4, R5, R234, R311): the pages, doorbells and MSI-X tables of every function, the configuration
registers the manual gives (R233, R245, R260, R426), and a Fielder's loads and CSR reads (R311 to R327). A read of FLOCK takes the
lock and is a command of its own; no other read changes anything. -/

namespace Sys2Proof.Machine

/-! ### Capabilities -/

/-- The SR-IOV capability of a PF (R233, R260). The offsets at which its fields stand are PCI Express's. -/
structure SrIov where
  totalVfs : Nat
  initialVfs : Nat
  firstVfOffset : Nat
  vfStride : Nat
  /-- VF Device ID equals the PF's Device ID. -/
  vfDeviceIsPfs : Bool
  vfMigration : Bool
deriving DecidableEq, Repr

def Chip.srIov (c : Chip) : SrIov :=
  let n := if c.straps.bifur then 63 else 127
  { totalVfs := n, initialVfs := n, firstVfOffset := 1, vfStride := 1, vfDeviceIsPfs := true, vfMigration := false }

/-- The function of VF `k` of a PF, by First VF Offset and VF Stride (R232, R233). -/
def Chip.vfInst (c : Chip) (pf k : Nat) : Nat := pf + c.srIov.firstVfOffset + k * c.srIov.vfStride

/-- Every function has the ARI capability (R233). -/
def ari : Bool := true

/-- A BAR (R234). -/
structure BarAttr where
  size : Nat
  wide : Bool
  prefetchable : Bool
deriving DecidableEq, Repr

/-- The BARs of a function: all are 64-bit memory BARs, and all but BAR0 are prefetchable (R234). -/
def Chip.barAttr (c : Chip) (n bar : Nat) : Option BarAttr :=
  if bar = 0 ∨ bar = 2 ∨ bar = 4 then some { size := c.barSize n bar, wide := true, prefetchable := bar != 0 } else none

/-- Entries of every MSI-X table (R234). -/
def msixEntries : Nat := 64

/-- A word of the vendor-specific extended capability of PF0, at its offset in the capability (R245, R426). -/
def Chip.vsecWord (c : Chip) (off : Nat) : Nat :=
  match off with
  | 0x00 => 0x0001000B
  | 0x04 => 0x01415701
  | 0x10 => flagAt c.smb.escDone 0 + flagAt c.smb.escRefused 1
  | _ => 0

/-! ### Functions -/

/-- A word of BAR4: the MSI-X table and the pending-bit array (R234, R425). -/
def Chip.msixWord (c : Chip) (n off : Nat) : Nat :=
  let x := c.inst n
  if off < 0x400 then
    let m : Msix := Tbl.get {} x.msix (off / 16)
    match off % 16 with
    | 0 => fld m.addr 31 0
    | 4 => fld m.addr 63 32
    | 8 => m.data.toNat
    | _ => flagAt m.mask 0
  else if off = 0x800 then fld x.pend 31 0
  else if off = 0x804 then fld x.pend 63 32
  else 0

/-- A word that a function's host reads (R232, R234, R425, R426); the numbers of the BARs are those of `Chip.barSize`. Of the
configuration space, the manual gives the capability at 0x400 and the table size of MSI-X. -/
def State.hostReadWord (s : State) (n : Fin 128) (bar off : Nat) : Nat :=
  let c := s.chip
  match bar with
  | 0 =>
    if n.val = 0 then s.setupWord off
    else if c.isPf n.val then (if 0xC000 ≤ off then c.pageWord n.val (off - 0xC000) else 0)
    else c.pageWord n.val off
  | 4 => c.msixWord n.val off
  | 6 => 2 ^ 16 * (msixEntries - 1) + flagAt (c.inst n.val).fmask 30
  | 7 => if 0x400 ≤ off ∧ off < 0x414 then c.vsecWord (off - 0x400) else 0
  | _ => 0

/-- What a read by a function's host returns (R4): 32 bits or both halves of 64, and of a narrower read the addressed bytes. -/
def State.hostRead (s : State) (n : Fin 128) (bar off size : Nat) : Nat :=
  if size = 8 then s.hostReadWord n bar off + 2 ^ 32 * s.hostReadWord n bar (off + 4)
  else s.hostReadWord n bar (off / 4 * 4) / 2 ^ (8 * (off % 4)) % 2 ^ (8 * size)

/-! ### Fielders -/

/-- The block of a Whistle source (R341, R374). -/
def srcBlock (n : Nat) : Nat :=
  if n < 32 then 0x16
  else if n < 44 then 0x21 + (n - 32)
  else if n < 56 then 0x21 + (n - 44)
  else if n < 184 then 0x0A
  else if n < 312 then 0x09
  else if n < 336 then 0x1B
  else if n < 344 then 0x1C
  else if n < 376 then 0x0D
  else if n < 392 then 0x12
  else if n = 399 ∨ n = 407 then 0
  else if n < 400 then 0x19
  else if n < 408 then 0x1A
  else if n < 411 then 0x15
  else if n = 411 then 0x14
  else if n < 415 then 0x15
  else if n = 415 then 0
  else if n < 421 then 0x17
  else if n < 424 then 0x04
  else if n < 432 then 0
  else if n < 449 then 0x1F
  else if n = 449 then 0x20
  else if n = 450 then 0x01
  else if n = 451 then 0x1E
  else if n = 452 then 0x20
  else if n < 464 then 0
  else if n = 464 then 0x01
  else if n = 465 then 0x05
  else if n = 466 then 0x08
  else if n = 467 then 0x06
  else if n = 468 then 0x07
  else if n = 469 then 0x02
  else if n < 480 then 0
  else if n < 496 then 0x03
  else 0x11

/-- A bit of each of the 32 sources of a word (R325). -/
def Chip.srcBits (c : Chip) (k : Nat) (f : Nat → Src → Bool) : Nat :=
  (List.range 32).foldl (fun n i => n + flagAt (f (32 * k + i) (c.src (32 * k + i))) i) 0

/-- A Whistle register (R325 to R327). -/
def Chip.whistleWord (c : Chip) (off : Nat) : Nat :=
  let i := off % 0x800 / 4
  let s := c.src i
  if off < 0x800 then
    senseOf i s + flagAt s.en 3 + 2 ^ 4 * s.prio.toNat + 2 ^ 8 * s.group.toNat + 2 ^ 16 * s.targets.toNat
  else if off < 0x1000 then s.vec0.toNat
  else if off < 0x1800 then s.vec1.toNat
  else if off < 0x2000 then srcBlock i + flagAt (noLine i) 6
  else if off < 0x2040 then c.srcBits ((off - 0x2000) / 4) (fun _ s => s.pend)
  else if off < 0x2080 then c.srcBits ((off - 0x2040) / 4) (fun _ s => s.pend)
  else if off < 0x20C0 then c.srcBits ((off - 0x2080) / 4) (fun n s => !noLine n && asserted n s)
  else if off < 0x2100 then c.srcBits ((off - 0x20C0) / 4) (fun _ s => s.serv)
  else if off < 0x2180 then
    let g := c.grp ((off - 0x2100) / 4)
    g.holdoff.toNat + 2 ^ 16 * (if g.remain = 0 then 0 else 1 + (Config.freeWord c.free).toNat % g.remain.toNat)
  else if off = 0x2180 then (List.range 12).foldl (fun n k => n + flagAt (c.fielder k).doneErr k) 0
  else 0

/-- Microseconds since LOGIC_RDY (R320). -/
def Chip.now (c : Chip) : Nat := c.us + min c.usNow 124

/-- Microseconds until the timer expires, at least one while it runs (R320). -/
def Chip.timerLeft (c : Chip) (f : Nat) : Nat :=
  let x := c.fielder f
  if x.ftRun then max 1 (fld x.ftimer 23 0 - (c.now - x.ftFrom)) else 0

/-- A local register of a Fielder (R320). -/
def Chip.localWord (c : Chip) (f off : Nat) : Nat :=
  let x := c.fielder f
  match off with
  | 0x00 => c.now % 2 ^ 32
  | 0x04 => x.ftimer.toNat
  | 0x08 => c.timerLeft f
  | 0x0C => flagAt x.ready 0
  | 0x10 => x.fwdog.toNat
  | _ => 0

/-- STATE of a Fielder (R317). -/
def FSt.code (s : FSt) : Nat :=
  match s with
  | .boot => 0
  | .waiting => 1
  | .active => 2
  | .bench => 3
  | .test => 4
  | .halted => 5
  | .retired => 6

/-- An engine register (R322). A lock is read by a command of its own (FLOCK_READ), since the read takes it. -/
def Chip.engineWord (c : Chip) (off : Nat) : Nat :=
  if off < 0x30 then
    let x := c.fielder (off / 4)
    x.st.code + 2 ^ 3 * x.role.toNat + flagAt x.claim.isSome 6 + flagAt (x.wfi || x.st == .waiting) 7
  else 0

/-- A CSR as a Fielder reads it (R314, R316); `none`: the number is not there, and the read raises an illegal instruction exception. -/
def Chip.csrWord (c : Chip) (f num : Nat) : Option Nat :=
  let x := c.fielder f
  match num with
  | 0x300 => some (flagAt x.mie 3 + flagAt x.mpie 7 + 2 ^ 11 * 3)
  | 0x301 => some 0x40001104
  | 0x304 => some (flagAt x.meie 11)
  | 0x305 => some x.mtvec.toNat
  | 0x340 => some x.mscratch.toNat
  | 0x341 => some x.mepc.toNat
  | 0x342 => some x.mcause.toNat
  | 0x343 => some x.mtval.toNat
  | 0x344 => some (flagAt (c.wakeSource f).isSome 11)
  | 0xB00 | 0xC00 => some (fld x.cycles 31 0)
  | 0xB80 | 0xC80 => some (fld x.cycles 63 32)
  | 0xB02 | 0xC02 => some (fld x.retired 31 0)
  | 0xB82 | 0xC82 => some (fld x.retired 63 32)
  | 0xF11 | 0xF12 => some 0
  | 0xF13 => some 0xA1
  | 0xF14 => some f
  | 0xFC0 => some (match x.claim with
    | some (n, prio) => n + 2 ^ 12 * prio + 2 ^ 31
    | none => 0)
  | 0xFC1 => some (f + 2 ^ 4 * x.role.toNat + flagAt x.vbank 8)
  | 0x7C0 => some x.thresh.toNat
  | 0x7C1 => some 0
  | 0x7C2 => some (x.wake.toNat + 2 ^ 16 * x.lastSrc.toNat)
  | _ => none

/-- Ranges that a Fielder may load from (R311). -/
def fielderLoads (a : Nat) : Bool := fielderMay a || decide (a < 0x10000) || (decide (0x40000 ≤ a) && decide (a < 0x50000))

/-- What an aligned load of an ACTIVE Fielder returns (R311, R312); `none`: the load access fault or the misaligned exception of R315. The
contents of the boot ROM are open (log entry 47). -/
def State.fielderLoad (s : State) (f : Fin 12) (a size : Nat) : Option Nat :=
  let c := s.chip
  let part (w : Nat) : Option Nat := some (w / 2 ^ (8 * (a % 4)) % 2 ^ (8 * size))
  let b := a / 4 * 4
  if !fielderLoads a || a % size != 0 then none
  else
    match fielderRam f.val a with
    | some r => some (c.ram.num r size)
    | none =>
      if a < 0x10000000 then some (leNat ((List.range size).map (fun i => Config.bootRom (a - 0x40000 + i))))
      else if b < 0x10010000 then part (c.whistleWord (b - 0x10000000))
      else if b < 0x10020000 then part (c.localWord f.val (b - 0x10010000))
      else if b < 0x20000000 then part (c.engineWord (b - 0x10020000))
      else if b < 0x21000000 then part (s.setupWord (b - 0x20000000))
      else part (c.pageWord ((b - 0x21000000) / 0x4000) (b % 0x4000))

end Sys2Proof.Machine
end

