-- ==== Sys2Proof/WellFormed.lean ====
section
/-! DEFINITION. When a command is one that the part can meet: its operands lie in the ranges the manual gives them. What a
command means does not ask for it (`exec` is total); a statement may. -/

namespace Sys2Proof

/-- Only an internal channel meets a node that is not reachable (R361). -/
def ReadEnd.wf (r : ReadEnd) : Bool := r != .noRoute

/-- Internal channels that carry work (R286). -/
def ChanRef.wf (ch : ChanRef) (r : ReadEnd) : Bool :=
  match ch with
  | .loc _ _ => r.wf
  | .internal _ => true

/-- An element is 32 bytes, in the COMPAT layout 16 (R57, R85); a read that fails carries nothing. -/
def elemBytes (r : ReadEnd) (raw : List Byte) : Bool :=
  if r = .ok then raw.length == 32 || raw.length == 16 else raw.isEmpty

/-- A register write: whole bytes of a 64-bit access; a Fielder and the SMBus write one space (R4, R234, R243, R311). -/
def writeWf (w : Writer) (bar : BitVec 3) (size : Nat) : Bool :=
  match w with
  | .fn _ => size == 1 || size == 2 || size == 4 || size == 8
  | .smbus => bar == 0 && size == 4
  | .fielder _ => bar == 0 && (size == 1 || size == 2 || size == 4)

/-- A transaction that arrives whole carries a value in range; one that does not carries none (R243). -/
def Sent.wf {α : Type} (x : Sent α) (p : α → Bool) : Bool :=
  match x with
  | .good v => p v
  | .bad => true

/-- Exceptions of R315. -/
def causeWf (cause : BitVec 5) : Bool := (decide (1 ≤ cause.toNat) && decide (cause.toNat ≤ 7)) || cause == 11

/-- Bytes of a high-speed isochronous packet are the most a USB 2.0 data packet holds (R133). -/
def XactEnd.wf (r : XactEnd) : Bool :=
  match r with
  | .data n _ => decide (n ≤ 1024)
  | .resent n => decide (n ≤ 1024)
  | _ => true

/-- A SuperSpeed service: at most three bursts of 16 packets of at most 1,024 bytes (R160, R93). -/
def BurstEnd.wf (r : BurstEnd) : Bool := decide (r.pkts ≤ 48) && decide (r.bytes ≤ 1024 * r.pkts) && decide (r.numP ≤ 16)

/-- A routed frame carries at most 2,048 bytes unless it is a bad one (R345). -/
def FrameHdr.wf (h : FrameHdr) : Bool := !h.good || (decide (h.len ≤ 2048) && h.tc != 3)

/-- The operands lie in the ranges the manual gives them. -/
def Instr.wf : Instr → Bool
  | .mgrReservedOpcode _ op => op == 0 || decide (12 < op.toNat)
  | .fwFetchDone r image => r.wf && (if r = .ok then decide (image.length ≤ 80 * 16384) else image.isEmpty)
  | .registerWrite w bar _ _ size => writeWf w bar size
  | .elementFetchDone _ _ r raw => r.wf && elemBytes r raw
  | .confirmReadDone _ _ r => r.wf
  | .outDataReadDone _ _ r => r.wf
  | .cringReadbackDone _ _ r => r.wf
  | .usb2TransactionEnd _ r _ us => r.wf && decide (us.toNat < 125)
  | .ssBurstEnd _ r us => r.wf && decide (us.toNat < 125)
  | .ssPollingU0 p speed => decide (4 ≤ speed.toNat) && decide (speed.toNat ≤ 7) && (decide (p.val < 2) || speed == 4 || speed == 6)
  | .enumStepComplete job _ => decide (job < 32 * 2 ^ 20)
  | .mboxReservedOpcode _ op => op == 0 || decide (7 < op.toNat)
  | .smbRegAddr off => off.wf (fun v => v.toNat % 4 == 0)
  | .smbFlogSeek slot => slot.wf (fun v => decide (v.toNat ≤ 63))
  | .carryDescFetchDone ch r raw => ch.wf r && (if r = .ok then raw.length == 32 else raw.isEmpty)
  | .carryBurstReadDone ch r => ch.wf r
  | .carryConfirmDone ch r => ch.wf r
  | .fielderException _ cause _ _ => causeWf cause
  | .thermalSample temp => decide (-256 ≤ temp) && decide (temp ≤ 255)
  | .fabLockHeld _ lanes => decide (1 ≤ lanes) && decide (lanes ≤ 2)
  | .element _ h raw => h.wf && decide (raw.length = 32)
  | .dataOut _ h => h.wf
  | .dataIn _ h _ => h.wf
  | .result _ h _ _ _ _ => h.wf
  | .command _ h _ _ _ => h.wf
  | .reply _ h _ _ _ _ => h.wf
  | .event _ h _ => h.wf
  | .carry _ h _ => h.wf
  | .protocol _ h _ => h.wf
  | .e2eAck _ h => h.wf
  | .powerOn _ => true
  | .resetAssert => true
  | .resetRelease _ => true
  | .pwrgdInLow => true
  | .crystalStable => true
  | .pllLock => true
  | .sramRdy => true
  | .logicRdy => true
  | .bootSelfTestDone _ _ => true
  | .perstAssert _ => true
  | .perstRelease _ => true
  | .hotReset _ => true
  | .flr _ => true
  | .linkTrainStart _ => true
  | .linkReachesL0 _ => true
  | .passFallbackTimeout => true
  | .linkPmStateChange _ _ => true
  | .linkLost _ => true
  | .hostLinkDelayExpiry _ => true
  | .vfEnable _ => true
  | .vfDisable _ => true
  | .instCreate _ => true
  | .instResize _ => true
  | .instDestroy _ => true
  | .instReset _ => true
  | .instResetEscalation _ => true
  | .assignPort _ => true
  | .assignDevice _ => true
  | .setRates _ => true
  | .setWeight _ => true
  | .freeze _ => true
  | .thaw _ => true
  | .chipReset _ => true
  | .fwLoad _ => true
  | .fwSwap _ => true
  | .fwVerifyDone _ _ => true
  | .fwStartTimeout _ => true
  | .swapDrainDone => true
  | .drainTimeout => true
  | .fuseBlown => true
  | .fwDiscard _ => true
  | .cmdRingSizeWrite _ _ => true
  | .cring0SizeWrite _ _ => true
  | .instCtlWrite _ _ => true
  | .doorbellProducer _ _ _ => true
  | .doorbellConsumer _ _ _ => true
  | .huddleTimerExpiry _ _ => true
  | .huddleCtlWrite _ _ _ => true
  | .msixUnmask _ _ => true
  | .enableSlot _ _ _ => true
  | .addressDevice _ _ _ => true
  | .configureEp _ _ _ => true
  | .resetEp _ _ _ => true
  | .stopEp _ _ _ => true
  | .setDequeue _ _ _ => true
  | .disableSlot _ _ _ => true
  | .createRing _ _ _ => true
  | .destroyRing _ _ _ => true
  | .portReset _ _ _ => true
  | .portSuspend _ _ _ => true
  | .portResume _ _ _ => true
  | .portPower _ _ _ => true
  | .getScorebook _ _ _ => true
  | .noop _ _ _ => true
  | .microframeTick => true
  | .busMicroframeStart _ => true
  | .isochStageDeadline _ _ => true
  | .erdyReceived _ _ _ _ => true
  | .rallyReady _ _ => true
  | .scorebookSample => true
  | .sbClear _ => true
  | .sbSelWrite _ _ => true
  | .refSelWrite _ _ => true
  | .poolSelWrite _ _ => true
  | .carrySelWrite _ _ => true
  | .ocMapWrite _ _ _ => true
  | .pocFall _ => true
  | .ocTripQualified _ => true
  | .pocRise _ => true
  | .portPowerOnWaitEnd _ => true
  | .pullupSeen _ _ => true
  | .pullupLostInDebounce _ => true
  | .debounceEnd _ => true
  | .resetSe0End _ _ => true
  | .resetRecoveryEnd _ => true
  | .suspendEntryTimer _ => true
  | .deviceResumeK _ => true
  | .resumeKEnd _ => true
  | .resumeRecoveryEnd _ => true
  | .usb2Disconnect _ => true
  | .ssRxDetectPoll _ _ => true
  | .ssPollingTimeout _ => true
  | .ssIdleTimeout _ _ => true
  | .ssLinkError _ _ => true
  | .ssTerminationLost _ => true
  | .ssWakeLfps _ => true
  | .u3ExitRetryTimeout _ => true
  | .bcPowerCycleEnd _ => true
  | .ufpVbusChange _ => true
  | .passCtlWrite _ _ => true
  | .hubGetHubStatus _ => true
  | .hubGetPortStatus _ _ => true
  | .hubGetHubDescriptor _ => true
  | .hubClearHubFeature _ _ => true
  | .hubClearPortFeature _ _ _ => true
  | .hubSetPortFeature _ _ _ _ => true
  | .hubClearTtBuffer _ => true
  | .hubResetTt _ => true
  | .hubSetHubDepth _ => true
  | .hubGetPortErrorCount _ => true
  | .hubStandardRequest _ _ => true
  | .hubRequestStalled _ _ => true
  | .upstreamReset _ => true
  | .upstreamHotReset => true
  | .upstreamSuspend _ _ => true
  | .upstreamResume _ _ => true
  | .svcPortWrite _ _ _ => true
  | .hubPortChange _ _ _ => true
  | .sharedHidReport _ _ _ => true
  | .shareCtlWrite _ _ _ => true
  | .shareMemWrite _ _ _ _ => true
  | .sharedEp0Request _ _ _ => true
  | .mboxDevDesc _ => true
  | .mboxCfgDesc _ => true
  | .mboxTopology _ => true
  | .mboxRescan _ => true
  | .mboxEnumFail _ => true
  | .mboxShareInfo _ => true
  | .mboxChargeInfo _ => true
  | .smbRegWrite _ _ => true
  | .smbRegRead => true
  | .smbEvtRead => true
  | .smbStatus => true
  | .smbEscape _ _ _ _ => true
  | .escCmdWrite _ => true
  | .smbAlertResponse => true
  | .smbFlogStatus => true
  | .smbFlogRead => true
  | .smbFlogAck _ => true
  | .smbFlogPeek => true
  | .flogAckWrite _ _ => true
  | .chStart _ _ => true
  | .chResume _ _ => true
  | .chSkip _ _ => true
  | .chAbort _ _ => true
  | .chCmdRefused _ _ _ => true
  | .carryFetchTimeout _ => true
  | .whistleLineChange _ _ => true
  | .whistleDeliveryCommit _ _ => true
  | .fielderWfi _ _ => true
  | .wfiWake _ => true
  | .wdoneWrite _ _ => true
  | .wthreshWrite _ _ => true
  | .wsrcCfgWrite _ _ _ => true
  | .wpendSetWrite _ _ _ => true
  | .wpendClrWrite _ _ _ => true
  | .wvecWrite _ _ _ _ => true
  | .holdoffExpiry _ => true
  | .ftimerWrite _ _ => true
  | .ftimerExpiry _ => true
  | .fwdogWrite _ _ => true
  | .fwdogExpiry _ => true
  | .freadyWrite _ _ => true
  | .flockRead _ _ => true
  | .flockFreeWrite _ _ => true
  | .fielderFault _ _ => true
  | .takeoverCopyDone _ => true
  | .roleSuspend _ => true
  | .pwrModeWrite _ _ => true
  | .dozeEntry => true
  | .scrumStart => true
  | .scrumPhase1Done => true
  | .scrumStopStep => true
  | .fielderStateSaved => true
  | .sramRetentionDone => true
  | .clockStopDone => true
  | .powerEntryComplete => true
  | .wakeSource _ _ => true
  | .vrdyRise => true
  | .vrdyWaitTimeout => true
  | .padRelease _ _ => true
  | .dvfsCtlWrite _ _ => true
  | .dvfsSettleEnd => true
  | .dvfsVrdyTimeout => true
  | .throttleStep => true
  | .slTimerExpiry => true
  | .fabSignalDetect _ => true
  | .fabTrainingTimeout _ => true
  | .linkInit _ _ => true
  | .hello _ _ => true
  | .helloTxTimer _ => true
  | .ack _ _ _ => true
  | .nak _ _ _ => true
  | .sync _ _ _ _ _ => true
  | .syncEcho _ _ _ => true
  | .fabReplayTimeout _ => true
  | .fabSignalLoss _ => true
  | .helloLossTimeout _ => true
  | .captainDeclare => true
  | .topoInstall => true
  | .sleepGrantLapse => true
  | .tapSeen _ _ => true
  | .replayCheckStart => true
  | .sramShadowCopyDone _ => true
  | .sramCheckDone _ _ _ _ => true
  | .fielderCheckDone _ _ => true
  | .laneError _ _ => true
  | .laneCheckDone _ _ => true
  | .otpCommitDone => true
  | .scrubRow _ => true
  | .sidelineScrub _ _ => true
  | .spinKeyWrite _ _ _ => true
  | .spinLock _ => true
  | .spinEccArm _ => true
  | .pwrgdInRise _ => true
  | .vddSlFall => true
  | .mieWrite _ _ _ => true
  | .swapCopyDone => true
  | .fabTrainingRestart _ => true
  | .ackTxTimer _ => true
  | .deviceInitiatedU1U2 _ _ => true
  | .u3ExitU0 _ => true
  | .upstreamTransaction _ => true
  | .spinPerturbationEnd _ => true

end Sys2Proof
end

