-- ==== Sys2Proof/Tests/Slice0.lean ====
section
/-! SUPPORT. Tests: a term that each check of WellFormed refuses; for every statement with hypotheses, concrete states and operands that
meet them, clause by clause; and worked examples of the manual, each on one step of a small state. -/

namespace Sys2Proof.Tests

open Sys2Proof Sys2Proof.Machine

/-! ### Small chips -/

/-- A chip in SERVICE, with PF0 as the manager. -/
def run : Chip :=
  { boot := { mode := .service, crystal := true, pll := true, sram := true, ready := true, fwRunning := true, chosen := true } }

/-- An ACTIVE instance with a quota of `k` of everything. -/
def active (k : Nat := 4) : Inst :=
  { st := .active, vfOn := true
    quota := { slots := k, peps := k, eps := k, streams := k, crings := k, vectors := k, chans := k } }

/-- Only instance 5, as given. -/
def five (x : Inst) : Chip := { run with insts := [(5, x)] }

/-- Instance 5 with one command that has been fetched. -/
def fiveCmd (k : CmdKind) (par : BitVec 192) (c : Chip := run) (x : Inst := active) : Chip :=
  { c with insts := [(5, { x with cmds := [{ id := 1, tag := 7, entry := 0, kind := k, par := par }] })] }

def cmd (k : CmdKind) (par : BitVec 192) : Cmd := { id := 1, tag := 7, entry := 0, kind := k, par := par }

/-- Port 3, as given, of instance 5. -/
def port3 (q : Port) (c : Chip := five active) : Chip := { c with ports := [(3, { q with owner := 5 })] }

/-- A step on a state whose only command is this one. -/
def at' (c : Chip) (i : Instr) : Host.Outcome State Fault Refusal := step { pending := [i], chip := c }

/-- What a next state's chip reads; `none` where the step stops. -/
def reads {α : Type} (o : Host.Outcome State Fault Refusal) (f : Chip → α) : Option α :=
  match o with
  | .next s => some (f s.chip)
  | _ => none

/-! ### Operands out of range (WellFormed) -/

theorem test_wf_mgrReserved : (Instr.mgrReservedOpcode .smbus 3).wf = false := by decide
theorem test_wf_fwFetch : (Instr.fwFetchDone .noRoute []).wf = false ∧ (Instr.fwFetchDone .ur [1]).wf = false := by decide
theorem test_wf_registerWrite : (Instr.registerWrite (.fn 0) 0 0 0 3).wf = false ∧ (Instr.registerWrite .smbus 0 0 0 1).wf = false
    ∧ (Instr.registerWrite (.fielder 0) 2 0 0 4).wf = false := by decide
theorem test_wf_element : (Instr.elementFetchDone 0 0 .ok [1, 2]).wf = false ∧ (Instr.elementFetchDone 0 0 .ca [1]).wf = false := by decide
theorem test_wf_reads : (Instr.confirmReadDone 0 0 .noRoute).wf = false ∧ (Instr.outDataReadDone 0 0 .noRoute).wf = false
    ∧ (Instr.cringReadbackDone 0 0 .noRoute).wf = false := by decide
theorem test_wf_usb2End : (Instr.usb2TransactionEnd 0 (.data 1025 true) 0 0).wf = false
    ∧ (Instr.usb2TransactionEnd 0 .nak 0 125).wf = false := by decide
theorem test_wf_burst : (Instr.ssBurstEnd 0 { bytes := 1, pkts := 0 } 0).wf = false
    ∧ (Instr.ssBurstEnd 0 { bytes := 0, pkts := 49 } 0).wf = false
        ∧ (Instr.ssBurstEnd 0 { bytes := 0, pkts := 0 } 125).wf = false := by decide
theorem test_wf_polling : (Instr.ssPollingU0 0 3).wf = false ∧ (Instr.ssPollingU0 0 8).wf = false := by decide
theorem test_wf_enum : (Instr.enumStepComplete (2 ^ 25) .noAnswer).wf = false := by decide
theorem test_wf_mbox : (Instr.mboxReservedOpcode 0 7).wf = false := by decide
theorem test_wf_smb : (Instr.smbRegAddr (.good 2)).wf = false ∧ (Instr.smbFlogSeek (.good 64)).wf = false := by decide
theorem test_wf_carry : (Instr.carryDescFetchDone (.loc 0 0) .ok [1]).wf = false ∧ (Instr.carryBurstReadDone (.loc 0 0) .noRoute).wf = false
    ∧ (Instr.carryConfirmDone (.loc 0 0) .noRoute).wf = false := by decide
theorem test_wf_exception : (Instr.fielderException 0 0 0 0).wf = false ∧ (Instr.fielderException 0 8 0 0).wf = false := by decide
theorem test_wf_thermal : (Instr.thermalSample 256).wf = false ∧ (Instr.thermalSample (-257)).wf = false := by decide
theorem test_wf_fabLock : (Instr.fabLockHeld 0 0).wf = false ∧ (Instr.fabLockHeld 0 3).wf = false := by decide
theorem test_wf_frames :
    let h : FrameHdr := { dst := 0, src := 0, tc := 3, len := 0, seq := 0 }
    let k : FrameHdr := { dst := 0, src := 0, tc := 0, len := 2049, seq := 0 }
    (Instr.dataOut 0 h).wf = false ∧ (Instr.dataIn 0 k 0).wf = false ∧ (Instr.result 0 h 0 0 0 none).wf = false
    ∧ (Instr.command 0 h .reset 0 0).wf = false ∧ (Instr.reply 0 k 0 0 0 []).wf = false ∧ (Instr.event 0 h (.released 0)).wf = false
    ∧ (Instr.carry 0 h 0).wf = false ∧ (Instr.protocol 0 k .excluded).wf = false ∧ (Instr.e2eAck 0 h).wf = false
    ∧ (Instr.element 0 { k with len := 0 } []).wf = false := by decide

/-! ### The hypotheses of the statements can be met  Each theorem gives, for one statement, chips and operands that meet the
hypotheses of its clauses, in the order of the clauses. -/

theorem test_wit_StepRunsTheFrontCommand : ({ pending := [.powerOn {}, .fuseBlown] } : State).pending = .powerOn {} :: [.fuseBlown] := rfl
theorem test_wit_EmptyQueueIdles : State.reset.pending = [] := rfl
theorem test_wit_StepKeepsStagingCanonical : ({ stage := [(3, 7)], pending := [.fuseBlown] } : State).sound = true := by decide
theorem test_wit_OnlyBadAddressesStop :
    exec (.registerWrite (.fn 5) 1 0 0 4) {} = .fault .noSuchAddress
        ∧ exec (.registerWrite .smbus 0 65536 0 4) {} = .fault .noSuchAddress :=
  ⟨rfl, rfl⟩
theorem test_wit_CalmedSettles : (fiveCmd .noop 0).calmed = true := by decide

theorem test_wit_ResetsClearAndKeep :
    run.hold.por = false
    ∧ (let c : Chip := { run with hold := { resetN := false } };
      c.hold.resetN = false ∧ c.hold.por = false ∧ c.hold.pwrgdHold = false ∧ c.hold.trip = false)
    ∧ (run.hold.wakeOut = true ∧ run.hold.pwrgdSeen = true ∧ run.hold.trip = false)
    ∧ (let c : Chip := { run with mgr := { arg0 := Config.escKey } };
      c.isMgr (.fn 0) = true ∧ c.calmed = true ∧ c.mgr.busy = false ∧ c.mgr.arg0 = Config.escKey ∧ c.mgr.arg1 = 0 ∧ c.mgr.arg2 = 0
        ∧ c.mgr.arg3 = 0)
    ∧ (let c : Chip := { run with hold := { por := true, resetN := false } };
      c.hold.por = true ∧ c.hold.vddSl = true) := by decide

theorem test_wit_BringUpSteps :
    let c : Chip := { boot := { crystal := true, pll := true, sram := true } };
    let d : Chip := { run with fielders := [(0, { st := .waiting, wfi := true })] };
    (({} : Chip).up = true ∧ ({} : Chip).pwr.st = .run ∧ ({} : Chip).boot.crystal = false)
    ∧ (c.up = true ∧ c.boot.crystal = true ∧ c.boot.pll = true ∧ c.boot.sram = true ∧ c.boot.ready = false ∧ c.rel.retired = [])
    ∧ (d.up = true ∧ d.boot.ready = true ∧ (d.fielder 11).st = .boot) := by decide

theorem test_wit_LinkEventsAct :
    (linkRunning run.link0.pm = linkRunning .training ∧ (run.link 0).down = false ∧ run.cap.linkIe = false)
    ∧ ((run.link 1).perstN = true ∧ (({ run with link0 := { pm := .l0 } } : Chip).link 0).pm ≠ .down)
    ∧ (run.boot.ready = true ∧ (run.link 0).perstN = true ∧ (run.link 0).pm = .down)
    ∧ (let c : Chip := { run with straps := { bifur := true } };
      c.straps.bifur = true ∧ c.boot.chosen = true ∧ (c.link 1).perstN = true)
    ∧ (linkRunning .down = false ∧ linkRunning .l1 = true)
    ∧ (let c : Chip := { run with straps := { bifur := true }, insts := [(64, active)] };
      (c.link 1).perstN = true ∧ c.cap.linkIe = false ∧ c.slots = [] ∧ c.eps = [] ∧ c.instLink 64 = 1 ∧ (active).genDue = 0
      ∧ (active).portViews = [])
    ∧ (let c : Chip := { run with link1 := { lost := true, delay := true } };
      (c.link 1).lost = true ∧ (c.link 1).delay = true ∧ (c.link 1).policy = 0 ∧ c.cap.linkIe = false) := by decide

theorem test_wit_SandlotChoice :
    let c : Chip := { boot := { mode := .waiting, crystal := true, pll := true, sram := true, ready := true } };
    c.boot.ready = true ∧ c.boot.mode = .waiting ∧ c.boot.chosen = false ∧ c.link0.perstN = true ∧ c.link0.down = false
      ∧ c.link0.lost = false ∧ c.straps.passOff = false := by decide

theorem test_wit_InstanceResetTriggers :
    ((five active).isPf 5 = false ∧ ((five active).inst 5).st = .active ∧ ((five active).inst 5).vfOn = true)
    ∧ ((five { st := .created }).inst 5).st = .created ∧ ((five { st := .resetting, gen := 255 }).inst 5).st = .resetting := by decide

theorem test_wit_StartResetBumpsGeneration :
    let c := five active;
    c.slots = [] ∧ c.eps = [] ∧ c.waits = [] ∧ c.rel.suspended = 0 ∧ (c.inst 5).genDue = 0 := by decide

theorem test_wit_ManagerCompletionReports :
    ({ run with mgr := { busy := true } } : Chip).mgr.busy = true
        ∧ ({ run with mgr := { busy := true } } : Chip).mgr.ie = false := by decide

theorem test_wit_ManagerBusyAndForeignWrites :
    run.isMgr (.fn 1) = false ∧ run.isMgr .smbus = false
    ∧ run.isMgr (.fielder 11) = true ∧ ({ run with mgr := { busy := true } } : Chip).mgr.busy = true := by decide

/-- A chip whose manager has written these arguments. -/
def args (a0 a1 a2 a3 : Word) (c : Chip := run) : Chip := { c with mgr := { arg0 := a0, arg1 := a1, arg2 := a2, arg3 := a3 } }

theorem test_wit_InstanceCommandsComplete :
    (let c := args 5 0x01FF0100 0x10000800 0x00F04040;
      c.isMgr (.fn 0) = true ∧ c.mgr.busy = false ∧ c.boot.fwRunning = true ∧ c.rel.suspended = 0
      ∧ c.mgr.argsOk 0x7F 0x03FF01FF 0x1FFF0FFF 0x01FF7F7F = true ∧ c.isPf c.mgr.inst = false ∧ (c.inst c.mgr.inst).st = .absent
      ∧ c.mgr.sizes.inRange = true ∧ c.mgr.sizes.short c.unreserved = none ∧ c.calmed = true ∧ c.mgr.ie = false
      ∧ (c.inst c.mgr.inst).genDue = 0 ∧ c.genCarried c.mgr.inst 1 = false)
    ∧ (let c := args 5 0x00010001 1 0x00010101 (five (active 2));
      (c.inst c.mgr.inst).st ≠ .absent ∧ c.mgr.argsOk 0x7F 0x03FF01FF 0x1FFF0FFF 0x01FF7F7F = true ∧ c.mgr.sizes.inRange = true
      ∧ ((c.use 5).short c.mgr.sizes) = none ∧ (c.inst 5).vectorsFit c.mgr.sizes = true
      ∧ (c.mgr.sizes.sub (c.inst 5).quota).short c.unreserved = none)
    ∧ (let c := args 5 0 0 0 (five active);
      c.mgr.argsOk 0x7F 0 0 0 = true ∧ c.isPf c.mgr.inst = false ∧ (c.inst c.mgr.inst).st = .active ∧ c.calmed = true ∧ c.mgr.ie = false
      ∧ c.slots = [] ∧ c.eps = [] ∧ (c.inst 5).genDue = 0 ∧ (∀ r ∈ (c.inst 5).rings, r.2.live = false) ∧ (c.inst 5).portViews = []
      ∧ (∀ p < 24, c.ownerOf p ≠ some 5) ∧ (∀ p < 24, (c.port p).parked = []) ∧ c.shares = [] ∧ (c.inst 5).joinDestroy = false) := by decide

theorem test_wit_SettingsAndFreezing :
    (let c := args 0x00170005 0 0 0 (five active);
      c.isMgr (.fn 0) = true ∧ (c.inst c.mgr.inst).st ≠ .absent ∧ c.mgr.argsOk 0xFFFF007F 0x7 0 0 = true ∧ c.mgr.inst ≠ 127
      ∧ c.mgr.busy = false ∧ c.boot.fwRunning = true ∧ c.rel.suspended = 0
      ∧ bitAt c.mgr.arg1 0 = false ∧ bitAt c.mgr.arg1 1 = false ∧ fld c.mgr.arg0 31 16 < 4096 ∧ fld c.mgr.arg0 31 16 / 256 = c.nodeNo
      ∧ codeBus (fld c.mgr.arg0 31 16 % 256) = some 23 ∧ c.assigned 23 5 false = false
      ∧ c.portRefused (busPort 23) 5 false (bitAt c.mgr.arg1 2) = none)
    ∧ (let c := args 5 1 0 0 { five active with slots := [(1, { st := .addressed, managed := true })] };
      c.mgr.argsOk 0x7F 0xFFF 0 0 = true ∧ fld c.mgr.arg1 11 0 / 256 = c.nodeNo ∧ c.slotRefused 1 5 = none ∧ c.ringHome 1 ≠ 5
      ∧ (c.slot 1).leaving = false)
    ∧ (let c := args 0x2705 1023 0 0 (five active);
      c.mgr.argsOk 0xFF7F 0xFFFFFFFF 0 0 = true ∧ c.mgr.arg1.toNat ≠ 0 ∧ c.mgr.arg1.toNat ≤ 1023
      ∧ codeBus (fld c.mgr.arg0 15 8) = some 31 ∧ fld (0xFF05 : Word) 15 8 = 0xFF)
    ∧ (let c := args 0x11705 0xFFFFFF 0xFFFFFF 0 (five active);
      c.mgr.argsOk 0x1FF7F 0xFFFFFF 0xFFFFFF 0 = true ∧ codeBus (fld c.mgr.arg0 15 8) = some 23)
    ∧ (let c := args 5 0 0 0 (five active);
      c.isMgr (.fn 0) = true ∧ c.mgr.busy = false ∧ c.mgr.argsOk 0x1FF 0 0 0 = true ∧ fld c.mgr.arg0 7 0 ≤ 127
          ∧ (c.inst (fld c.mgr.arg0 7 0)).st = .active ∧ bitAt c.mgr.arg0 8 = false)
    ∧ (let c := args 0x105 0 0 0 (five { active with st := .frozen });
      c.mgr.argsOk 0x1FF 0 0 0 = true ∧ (c.inst (fld c.mgr.arg0 7 0)).st = .frozen ∧ bitAt c.mgr.arg0 8 = true) := by decide

/-- A chip whose loader stands so. -/
def loads (f : Loader) (c : Chip := run) : Chip := { c with fw := f }

theorem test_wit_FirmwareCommandsAndLimits :
    (let c := loads { len := 384 } (args 1 0 0 0);
      c.isMgr .smbus = false ∧ c.isMgr (.fn 0) = true ∧ c.mgr.busy = false ∧ c.fw.busy = false ∧ c.mgr.argsOk 3 0 0 0 = true
      ∧ 384 ≤ c.fw.len.toNat ∧ c.fw.len.toNat ≤ 1310720 ∧ bitAt c.mgr.arg0 0 = true)
    ∧ (let c := loads { len := 1310720 } { args 0 0 0 0 with link0 := { pm := .l0 } };
      384 ≤ c.fw.len.toNat ∧ c.fw.len.toNat ≤ 1310720 ∧ bitAt c.mgr.arg0 0 = false ∧ c.link0.pm = .l0)
    ∧ (let c := loads { staged := true, bench := some 11 } { run with fielders := [(11, { st := .bench })] };
      c.mgr.argsOk 0 0 0 0 = true ∧ c.fw.staged = true ∧ c.fw.halted = false ∧ c.boot.fwRunning = true ∧ c.freeBench.isSome = true
      ∧ ¬ c.fw.running < c.fw.image.prevMin)
    ∧ (let c := loads { phase := .installing, visit := [0, 11] };
      c.fw.phase = .installing ∧ c.fw.visit.contains 11 = true ∧ (c.fielder 11).ready = false)
    ∧ (let c := loads { phase := .swapStart, incoming := 11 };
      c.fw.phase = .swapStart ∧ c.fw.incoming = 11 ∧ (c.fielder 11).ready = false)
    ∧ (let c := loads { phase := .swapDrain } { run with fielders := [(0, { st := .active })] };
      c.fw.phase = .swapDrain ∧ (c.fielder c.fw.outgoing).st = .active)
    ∧ (let c := loads { phase := .swapDrain } (five active);
      c.fw.phase = .swapDrain ∧ c.mgr.busy = false ∧ c.jobs = [] ∧ (∀ x ∈ c.insts, x.2.cmds = [] ∧ x.2.mbox.busy = false))
    ∧ (let m : Cmd := { cmd .noop 0 with phase := .running, holder := some 0 };
      let c := loads { phase := .swapDrain } (five { active with cmds := [m] });
      c.fw.phase = .swapDrain ∧ c.mgr.busy = false ∧ c.jobs = [] ∧ c.waits = [] ∧ c.eps = [] ∧ (c.inst 5).cmds = [m]
      ∧ (c.inst 5).mbox.busy = false ∧ m.holder = some c.fw.outgoing ∧ (∀ p < 24, (c.port p).suspendCmd ≠ some (5, m.id))) := by decide

/-- The least image: one segment for F0 in role 0, which eleven Fielders hold. -/
def image : List Byte :=
  [0x57, 0x4F, 0x56, 0x46, 1, 0, 0, 1, 0x80, 1, 0, 0, 9, 0, 0, 0, 0, 0, 0, 0, 0x24, 0x32, 2, 0x57, 0xA1, 0, 1, 1] ++ List.replicate 68 0
    ++ [0, 0, 0, 0, 64, 0, 0, 0] ++ List.replicate 120 0 ++ List.replicate 11 0 ++ [0xFF] ++ List.replicate 148 0

theorem test_wit_FirmwareEventsAct :
    ((loads { phase := .fetching, len := 384 }).fw.phase = .fetching ∧ ReadEnd.timeout ≠ .ok)
    ∧ (let c := loads { phase := .verifying, len := 384 };
      c.fw.phase = .verifying ∧ c.fw.apply = false ∧ imageErr (Memory.ofBytes 0 image) c.fw.len.toNat true true c.fuse c.otpKey = 0
      ∧ imageErr (Memory.ofBytes 0 image) c.fw.len.toNat true false c.fuse c.otpKey = 5 + 1
      ∧ imageErr (Memory.ofBytes 0 image) 448 true true c.fuse c.otpKey = 0 + 1)
    ∧ (let c := loads { fuseTo := 2 }; c.fuse + 1 < c.fw.fuseTo) ∧ (let c := loads { fuseTo := 1 }; c.fuse + 1 = c.fw.fuseTo)
    ∧ (run.isMgr (.fn 0) = true ∧ run.fw.phase = .idle) ∧ (loads { phase := .swapCopy }).fw.phase = .swapCopy := by decide

theorem test_wit_RingRegistersAct :
    (let c := five active; (c.inst 5).pageOn = true ∧ (c.inst 5).cmdEn = false ∧ bitAt (0x80000004 : Word) 31 = true
      ∧ ((c.inst 5).cring 0).live = false ∧ (c.inst 5).compat = false ∧ ((c.inst 5).cring 63).count = 0 ∧ (c.inst 5).pend = 0)
    ∧ (let c := five { active with cmdEn := true }; (c.inst 5).cmdEn = true ∧ bitAt (4 : Word) 31 = false)
    ∧ (let c := five { active with compat := true };
      (c.inst 5).compat = true ∧ bitAt (0 : Word) 0 = false ∧ (c.inst 5).compatFree = true) := by decide

/-- A transfer ring of 16 entries, which its endpoint has half full. -/
def ring7 : Ring := { live := true, prod := 8 }

theorem test_wit_ProducerDoorbells :
    let c := five { active with cmdEn := true, cmdProd := 15, cmdCons := 14, rings := [(7, { ring7 with halted := true })] };
    (c.inst 5).st = .active ∧ (c.inst 5).cmdEn = true ∧ (2 : Nat) < 2 ^ (c.inst 5).cmdLog2
    ∧ ((c.inst 5).cmdProd + 16 - (c.inst 5).cmdCons) % 16 ≤ ((2 : Nat) + 16 - (c.inst 5).cmdCons) % 16
    ∧ 2 ^ (c.inst 5).cmdLog2 ≤ (16 : Nat) ∧ ((five active).inst 5).cmdEn = false
    ∧ (7 : BitVec 15) ≠ 0 ∧ (c.ring 5 7).live = true ∧ (c.ring 5 7).halted = true ∧ (15 : Nat) < (c.ring 5 7).size
    ∧ (15 : Nat) ≠ (c.ring 5 7).prod
    ∧ ((c.ring 5 7).prod + (c.ring 5 7).size - (c.ring 5 7).cons) % (c.ring 5 7).size
      ≤ ((15 : Nat) + (c.ring 5 7).size - (c.ring 5 7).cons) % (c.ring 5 7).size
    ∧ (c.ring 5 8).live = false := by decide

/-- Completion ring 0 with a producer and a consumer. -/
def cring0 (p k : Nat) (x : Inst := active) : Inst := { x with crings := [(0, { live := true, prod := p, cons := k })] }

theorem test_wit_ConsumerDoorbells :
    let c := five (cring0 2 15);
    ((c.inst 5).st = .active ∧ ((c.inst 5).cring 0).live = true ∧ (2 : Nat) < ((c.inst 5).cring 0).size
      ∧ (2 + ((c.inst 5).cring 0).size - ((c.inst 5).cring 0).cons) % ((c.inst 5).cring 0).size
        ≤ (((c.inst 5).cring 0).prod + ((c.inst 5).cring 0).size - ((c.inst 5).cring 0).cons) % ((c.inst 5).cring 0).size)
    ∧ (((c.inst 5).cring 0).prod + ((c.inst 5).cring 0).size - ((c.inst 5).cring 0).cons) % ((c.inst 5).cring 0).size
      < (3 + ((c.inst 5).cring 0).size - ((c.inst 5).cring 0).cons) % ((c.inst 5).cring 0).size
    ∧ ((c.inst 5).cring 64).live = false ∧ ((c.inst 5).cring 0).size ≤ (16 : Nat)
    ∧ ((five { active with st := .frozen }).inst 5).st = .frozen ∧ ((five { active with st := .resetting }).inst 5).st = .resetting := by
  decide

/-- Endpoint 1 IN of slot 1, as given, of instance 5 on port 3, with ring 7 as given. -/
def ep1 (e : Ep := {}) (r : Ring := ring7) (sl : Slot := {}) (b : Bus := {}) : Chip :=
  { run with
    insts := [(5, { cring0 0 0 with rings := [(7, { r with slot := 1, ep := 17 })] })]
    slots := [(1, { sl with st := .addressed, owner := 5, root := 3, speed := 3 })]
    eps := [(epKey 1 17, { e with st := if e.st = .disabled then .running else e.st, ring := 7 })]
    buses := [(3, b)]
    ports := [(3, { owner := 5, st := pEnabled, speed := 3, connected := true, powered := true })] }

theorem test_wit_HostMemoryAnswersAct :
    (let c := ep1 {} { ring7 with reads := 1 }; (7 : BitVec 15) ≠ 0 ∧ (c.ring 5 7).dead = 0 ∧ 0 < (c.ring 5 7).reads)
    ∧ (let c := five { active with cmdReads := 1 }; (c.inst 5).cmdDead = 0 ∧ 0 < (c.inst 5).cmdReads)
    ∧ (∃ tag m par, parseCmd false ([0x2E, 0, 9, 0] ++ List.replicate 28 0) = (tag, some (m, par)))
    ∧ (let f : Flight := { out := true, inst := 5, epoch := 9, gen := 0 };
      let c := ep1 { staging := true, epoch := 9, flights := [f] };
      let d := ep1 { staging := true, epoch := 10, flights := [f] };
      (c.ep (epKey (c.slotKey 1) 17)).flights = [f] ∧ f.out = true ∧ c.current (epKey 1 17) 5 9 0 = true
          ∧ farKey (keySlot (epKey 1 17)) = false
      ∧ (c.ep (epKey 1 17)).staging = true ∧ d.current (epKey 1 17) 5 9 0 = false)
    ∧ (let d : DoneTd := { inst := 5, ring := 7, code := 1, tag := 0, total := 0, moved := 0, sure := 0, cring := 0, notify := true
                           cons := 1, entry := 0, confirming := true };
      let f : Flight := { out := false, inst := 5, epoch := 0, gen := 0 };
      let c := ep1 { done := [d], flights := [f] };
      (c.ep (epKey (c.slotKey 1) 17)).flights = [f] ∧ f.out = false ∧ c.current (epKey 1 17) 5 0 0 = true
      ∧ (c.ep (epKey (c.slotKey 1) 17)).done = [d] ∧ d.confirming = true ∧ d.early = none)
    ∧ (let c := five { active with crings := [(63, { live := true, reads := [64], timer := true })] };
      ((c.inst 5).cring 63).reads = 64 :: [] ∧ ReadEnd.ca ≠ .ok ∧ (63 : Fin 64) ≠ 0 ∧ ((c.inst 5).cring 63).timer = true
      ∧ c.pwr.st = .run
      ∧ (let d : Chip := { c with pwr := { st := .phase1 } }; d.pwr.st = .phase1 ∧ ((d.inst 5).cring 63).timer = true)
      ∧ (let d : Chip := { c with pwr := { st := .phase2 5 } }; d.pwr.st = .phase2 5 ∧ ((d.inst 5).cring 63).timer = true)) := by
  refine ⟨by decide, by decide, ⟨_, _, _, by rfl⟩, by decide, by decide, by decide⟩

theorem test_wit_RegisterWritesAct :
    (let c := five active; (0x3FFE : Word).toNat < c.barSize 5 0 ∧ (0x3FFE : Word).toNat % 4 ≠ 0 ∧ c.isPf 5 = false)
    ∧ bitAt (0x7FFF : Word) 15 = false ∧ bitAt (0x8000 : Word) 15 = true ∧ (run.isMgr (.fn 0) = true ∧ run.boot.pll = true)
    ∧ (({ straps := { mgrSel := 1 } } : Chip).straps.mgrSel = 1 ∧ (0x7FFC : Word).toNat < 0x8000 ∧ (0x7FFC : Word).toNat % 4 = 0
      ∧ (0x7FFC : Word).toNat ≠ 0x5000) := by decide

theorem test_wit_FwWindowStoresOneWord :
    let c := loads { winPage := 79 };
    c.isMgr (.fn 0) = true ∧ c.fw.busy = false ∧ c.fw.winPage.toNat < 80 ∧ 0x8000 ≤ (0xBFFC : Word).toNat ∧ (0xBFFC : Word).toNat < 0xC000
    ∧ (0xBFFC : Word).toNat % 4 = 0 := by decide

theorem test_wit_RecordsArePostedOrHeld :
    (let c := five (cring0 15 1);
      (c.inst 5).st = .active ∧ (c.inst 5).compat = false ∧ ((c.inst 5).cring 0).takes = true ∧ ((c.inst 5).cring 0).held = []
      ∧ (c.inst 5).ovfDue = false)
    ∧ (let c := five (cring0 15 0);
      ((c.inst 5).cring 0).live = true ∧ ((c.inst 5).cring 0).takes = false ∧ (Rec.command 1 0 0 0 0).isEvent = false) := by decide

theorem test_wit_HuddleCountsOrDecides :
    let x : Inst := { active with crings := [(0, { live := true, count := 6 })], huddle := [(0, { count := 8, urgent := true })] };
    let y : Inst := { active with crings := [(0, { live := true, count := 7 })], huddle := [(0, { count := 8, urgent := true })] };
    ((x.cring 0).count + 1 < (x.hud 0).count.toNat ∧ (false && (x.hud 0).urgent) = false)
    ∧ (y.hud 0).count.toNat ≤ (y.cring 0).count + 1 ∧ (true && (x.hud 0).urgent) = true := by decide


/-- Instance 5 of a chip has fetched one command. -/
def with5 (k : CmdKind) (par : BitVec 192) (c : Chip) : Chip := fiveCmd k par c (c.inst 5)

/-- The same, once the command executes. -/
def runs5 (k : CmdKind) (par : BitVec 192) (c : Chip) : Chip := (with5 k par c).begun 5 (cmd k par)

theorem test_wit_soleCmd : (with5 .noop 0 (ep1 {})).soleCmd 5 (cmd .noop 0)
    ∧ (with5 .stopEp 0x810001 (ep1 {})).soleCmd 5 (cmd .stopEp 0x810001)
    ∧ (with5 .portReset 3 (five active)).soleCmd 5 (cmd .portReset 3) := by
  unfold Chip.soleCmd; decide

theorem test_wit_SlotAndEndpointCommands :
    (let c := runs5 .enableSlot 0x30003 (port3 { connected := true, speed := 3 });
      cmdValid .enableSlot 0x30003 = true ∧ c.ownedBus 5 3 = some 3 ∧ c.connectedOn 3 = true ∧ c.enumOn 3 = false ∧ c.speedOk 3 3 0 = true
      ∧ routeOk 0 = true ∧ c.orphanAt 5 3 0 = none ∧ c.room 5 Quota.slots 1 = true ∧ c.newSlot = some 0 ∧ c.ownedBus 5 4 = none)
    ∧ (let c := runs5 .stopEp 0x810001 (ep1 {});
      c.owns 5 0 = false ∧ c.owns 5 1 = true ∧ (c.slot 1).orphan = false ∧ (c.slot 1).shared = none
      ∧ cmdValid .stopEp 0x810001 = true ∧ epBit 0x81 = some 17)
    ∧ (let p : BitVec 192 := 0x100400001;
      let c := runs5 .addressDevice p { five active with slots := [(1, { st := .enabled, owner := 5, speed := 3 })] };
      cmdValid .addressDevice p = true ∧ par p 32 2 = 1 ∧ (c.slot 1).st = .enabled ∧ c.ttOk 5 1 p = true
      ∧ (c.ep (epKey 1 0)).st = .disabled ∧ c.room 5 Quota.eps 1 = true ∧ c.newCtx.isSome = true)
    ∧ (let p : BitVec 192 := 0x4810001;
      let c := runs5 .configureEp p { ep1 {} with eps := [(epKey 1 17, { st := .stopped })] };
      cmdValid .configureEp p = true ∧ p.getLsbD 26 = true ∧ onlyDrop p = true ∧ (c.ep (epKey 1 17)).st = .stopped
      ∧ (c.ep (epKey 1 17)).rings = [] ∧ (c.ep (epKey 1 17)).pep = none ∧ c.resting (epKey 1 17) ∧ c.epHeld (epKey 1 17) = false)
    ∧ (let c := runs5 .resetEp 0x810001 (ep1 { st := .halted }); (c.ep (epKey 1 17)).st = .halted ∧ c.resting (epKey 1 17))
    ∧ (let c := runs5 .resetEp 0x810001 (ep1 { st := .running }); (c.ep (epKey 1 17)).st = .running)
    ∧ (let c := runs5 .stopEp 0x810001 (ep1 { st := .stopped });
      (0x810001 : BitVec 192).getLsbD 24 = false ∧ (c.ep (epKey 1 17)).st = .stopped)
    ∧ (let c := runs5 .stopEp 0x810001 (ep1 {}); (c.ep (epKey 1 17)).st = .running ∧ c.resting (epKey 1 17) ∧ c.epHeld (epKey 1 17) = false)
    ∧ (let c := runs5 .disableSlot 1 { ep1 {} with eps := [] };
      c.slotEps 1 = [] ∧ (c.slot 1).managed = false ∧ (c.slot 1).far = none ∧ (∀ p < 24, (c.port p).parked = []))
    ∧ (let p : BitVec 192 := 0xF0007;
      let c := runs5 .setDequeue p (ep1 { st := .stopped });
      cmdValid .setDequeue p = true ∧ (c.ring 5 7).live = true ∧ (c.slot (c.ring 5 7).slot).orphan = false
      ∧ (c.slot (c.ring 5 7).slot).shared = none ∧ par p 16 16 < (c.ring 5 7).size ∧ (c.ep (c.ring 5 7).key).st = .stopped
      ∧ (c.ep (c.ring 5 7).key).stop = none ∧ c.resting (c.ring 5 7).key) :=
  ⟨by decide, by decide, by decide, by decide, by decide, by decide, by decide, by decide, by decide, by decide⟩

theorem test_wit_RingAndPortCommands :
    (let p : BitVec 192 := 0x110010000000000000004;
      let c := runs5 .createRing p { ep1 {} with eps := [(epKey 1 17, { st := .stopped })] };
      cmdValid .createRing p = true ∧ p.getLsbD 5 = false ∧ c.owns 5 (c.slotKey (par p 64 12)) = true ∧ par p 76 4 + 16 * par p 80 1 = 17
      ∧ (c.slot 1).orphan = false ∧ (c.slot 1).shared = none ∧ (c.ep (epKey 1 17)).st ≠ .disabled ∧ (c.ep (epKey 1 17)).maxStreams = 0
      ∧ (c.ep (epKey 1 17)).ring = 0 ∧ par p 81 9 = 0 ∧ (c.newRing 5).isSome = true)
    ∧ (let p : BitVec 192 := 0x33F0000000000000030;
      let c := runs5 .createRing p (five active);
      cmdValid .createRing p = true ∧ p.getLsbD 5 = true ∧ par p 64 6 = 63 ∧ ((c.inst 5).cring 63).live = false
      ∧ par p 72 6 < (c.inst 5).quota.vectors ∧ c.room 5 Quota.crings 1 = true)
    ∧ (let c := runs5 .destroyRing 7 (ep1 { st := .halted });
      (7 : BitVec 192).getLsbD 15 = false ∧ (c.ring 5 7).live = true ∧ (c.slot (c.ring 5 7).slot).orphan = false
      ∧ (c.slot (c.ring 5 7).slot).shared = none ∧ c.resting (c.ring 5 7).key ∧ c.epHeld (c.ring 5 7).key = false)
    ∧ (runs5 .getScorebook 0 (five active)).farNodes 5 = []
    ∧ (let c := runs5 .portReset 23 { five active with ports := [(23, { owner := 5, connected := true, powered := true })] };
      c.ownedBus 5 23 = some 23 ∧ (23 : BitVec 192).getLsbD 16 = false ∧ (c.port 23).connected = true ∧ (c.port 23).powered = true
      ∧ (c.job (jobKey 23 0)).step = 0 ∧ c.busSlots 23 = [] ∧ (c.port 23).suspendCmd = none ∧ (c.port 23).resumeCmd = none)
    ∧ (let c := runs5 .portSuspend 3 (port3 { st := pEnabled });
      c.ownedBus 5 3 = some 3 ∧ (c.port 3).st = pEnabled ∧ c.idleBus 3 = true)
    ∧ (runs5 .portResume 3 (port3 { st := pSuspended })).port 3 = { st := pSuspended, owner := 5 }
    ∧ (let c := runs5 .portPower 0x10003 (port3 {});
      (0x10003 : BitVec 192).getLsbD 16 = true ∧ (c.port 3).oc = false ∧ c.policy 3 ≠ 3
          ∧ (c.port 3).powered = false ∧ (c.port 3).cycle = none)
    ∧ ((runs5 .portPower 0x10003 (port3 { oc := true })).port 3).oc = true
    ∧ (runs5 .portReset 3 (five active)).ownedBus 5 3 = none := by
  decide

theorem test_wit_TimePasses :
    run.clocked = true ∧ ({ run with pwr := { st := .retain } } : Chip).clocked = false
    ∧ (let c : Chip := { run with ports := [(23, { st := pEnabled, speed := 3 })] };
      c.peps = [] ∧ c.eps = [] ∧ (c.port 23).st = pEnabled ∧ (c.port 23).speed = 3) := by decide

theorem test_wit_TransactionsEnd :
    (let key := epKey 1 17;
      let c := ep1 { ty := .bulk, strikes := 2 } { ring7 with elems := [{ len := 8 }], td := { begun := true } }
          {} { on := some { key := key } };
      (c.bus 4).on = none ∧ (c.bus 3).on = some { key := key } ∧ (c.ep key).service = false ∧ (c.ep key).ty = .bulk ∧ keyIn key = true
      ∧ c.path key = .hs ∧ c.stale { key := key } = false ∧ c.hasTd key = true ∧ (c.ep key).strikes = 2
      ∧ ((ep1 { strikes := 1 }).ep key).strikes < 2 ∧ 8 ≤ (c.epRing key).left false)
    ∧ (let key := epKey 1 17;
      let c := { ep1 { ty := .bulk } { ring7 with td := { begun := true } } with buses := [(31, { on := some { key := key } })] };
      let r : BurstEnd := { bytes := 0, pkts := 0, nrdy := true };
      (c.bus 24).on = none ∧ (c.bus 31).on = some { key := key } ∧ (c.ep key).service = false
      ∧ (c.ep key).st = .running ∧ (c.ep key).ty = .bulk ∧ c.stale { key := key } = false ∧ c.hasTd key = true ∧ r.nrdy = true
      ∧ r.strike = false ∧ r.stall = false ∧ r.babble = false ∧ r.streamEnd = false ∧ r.pkts = 0 ∧ (c.ep key).setAddr = none
      ∧ (c.ep key).maxStreams = 0 ∧ (c.ep (epKey 255 31)).st ≠ .running ∧ (c.ep (epKey 255 31)).setAddr = none)
    ∧ (let c : Chip := { ep1 { maxStreams := 4, streams := [(16, 7)] } { ring7 with elems := [{ len := 8 }] } with buses := [] };
      (c.ep (epKey 1 17)).st = .running ∧ (16 : BitVec 16).toNat ≤ 2 ^ (c.ep (epKey 1 17)).maxStreams
      ∧ c.streamFiled (epKey 1 17) 16 = true)
    ∧ (let key := epKey 1 1;
      let c : Chip := { ep1 {} { ring7 with elems := [{ len := 8 }], td := { place := some 1 } } with
                        eps := [(key, { st := .running, ty := .isoch, ring := 7 })] };
      (c.ep key).ty = .isoch ∧ keyIn key = false ∧ (c.ep key).st = .running ∧ (c.ep key).staged = false
      ∧ (c.inst (c.ringHome 1)).serves = true ∧ 0 < ((c.epRing key).elems.headD {}).len
          ∧ (c.epRing key).td.place = some ((c.bus (c.slotBus 1)).mf + 1)
      ∧ (c.epRing key).td.ended = none) := by decide

theorem test_wit_ScorebookCaptures :
    run.cap.sbBusy = false ∧ ({ run with cap := { sbBusy := true } } : Chip).cap.sbBusy = true ∧ run.isMgr (.fn 0) = true
    ∧ codeBus (fld (0x300 : Word) 13 8) = some 3 ∧ codeBus (fld (0x1800 : Word) 13 8) = none ∧ codeBus (fld (0xE700 : Word) 13 8) = some 31
    ∧ fld (5 : Word) 9 8 = 0 ∧ fld (0x105 : Word) 9 8 = 1 ∧ fld (0x305 : Word) 9 8 = 3 := by decide

theorem test_wit_Usb2PortsFollowEvents :
    (let c := port3 { st := pPowering }; let d : Chip :=
        { run with ports := [(23, { st := pPowering })], ssps := [(3, { st := sPowering })] };
      (d.port 23).st = pPowering ∧ (c.port 3).st = pPowering ∧ (d.ssp 3).st = sPowering)
    ∧ (let c := port3 { st := pDisconnected }; c.asleep = false ∧ (c.port 3).st = pDisconnected ∧ (c.port 3).bc ≠ dcp)
    ∧ ({ run with pwr := { st := .retain } } : Chip).asleep = true
    ∧ (let c := port3 { st := pDebounce }; (c.port 3).st = pDebounce ∧ c.enumOn 3 = false)
    ∧ (let c := port3 { st := pResetting, se0 := true }; (c.port 3).st = pResetting ∧ (c.port 3).se0 = true)
    ∧ (let c := port3 { st := pSuspended }; (c.port 3).st = pSuspended ∧ (c.port 3).pass = false)
    ∧ (let c := port3 { st := pResuming, nowCause := causeHost };
      (c.port 3).st = pResuming ∧ (c.port 3).nowCause = causeHost ∧ (c.port 3).fromL1 = false ∧ (c.port 3).tripped = false)
    ∧ (let c := port3 { st := pRecovery };
      (c.port 3).st = pRecovery ∧ (c.port 3).afterResume = false ∧ (c.port 3).wasSpeed = (c.port 3).speed ∧ (c.port 3).resetCmd = none
      ∧ c.busSlots 3 = [] ∧ c.jobs = [])
    ∧ (let c := port3 { st := pSuspending }; (c.port 3).st = pSuspending)
    ∧ (let c := port3 { st := pRecovery, afterResume := true }; (c.port 3).st = pRecovery ∧ (c.port 3).afterResume = true)
    ∧ (let c : Chip := { run with ports := [(23, { st := pEnabled, connected := true })] };
      pDisabled ≤ (c.port 23).st ∧ (c.port 23).connected = true ∧ (c.port 23).suspendCmd = none ∧ (c.port 23).resumeCmd = none
      ∧ (c.port 23).resetCmd = none ∧ c.busSlots 23 = [] ∧ c.jobs = [] ∧ (c.ssp 7).st ≠ sDisabled ∧ (c.port 22).st < pDisabled) := by decide

theorem test_wit_PortChangeTellsTheOwner :
    (run.port 23).pass = false ∧ (run.port 23).farOwner = none ∧ (run.port 23).owner = nobody
        ∧ ((port3 {}).port 3).owner ≠ nobody := by decide

/-- A chip with one SuperSpeed companion, 7. -/
def ssp7 (q : Ssp) (c : Chip := run) : Chip := { c with ssps := [(7, q)] }

theorem test_wit_SuperSpeedAndPowerEvents :
    (let c := ssp7 { st := sRxDetect }; c.asleep = false ∧ (c.ssp 7).st = sRxDetect ∧ (c.port 7).bc ≠ dcp)
    ∧ (let c := ssp7 { st := sResetting, se0 := true }; (c.ssp 7).st = sResetting ∧ (c.ssp 7).se0 = true)
    ∧ (let c := ssp7 { st := sPolling, timeouts := 1 }; (c.ssp 7).st = sPolling ∧ c.enumOn 31 = false ∧ (c.ssp 7).timeouts < 2)
    ∧ (let c := ssp7 { st := sPolling, timeouts := 2 }; (c.ssp 7).st = sPolling ∧ (c.ssp 7).timeouts = 2)
    ∧ (let c := ssp7 { st := sU0, u1 := 127, speed := 4, connected := true };
      (c.ssp 7).st = sU0 ∧ (c.port 7).pass = false ∧ (c.ssp 7).u1 ≠ 0 ∧ c.keepsU0 7 = false
      ∧ (c.ssp 7).acceptDev = true)
    ∧ (let c := ssp7 { st := sU0 }
        { ep1 {} with slots := [(1, { st := .addressed, owner := 5, root := 0x27, speed := 4 })]
                      eps := [(epKey 1 17, { st := .running, ty := .isoch, interval := 1 })] };
      (c.ssp 7).st = sU0 ∧ c.keepsU0 7 = true)
    ∧ (let c := ssp7 { st := sRxDetect }; (c.ssp 7).st ≠ sOff ∧ (c.ssp 7).connected = false)
    ∧ (let c := ssp7 { st := sU3 }; (c.ssp 7).st = sU3 ∧ (c.port 7).pass = false)
    ∧ (let c := ssp7 { st := sRecovery, exiting := true, tries := 1 };
      (c.ssp 7).st = sRecovery ∧ (c.ssp 7).exiting = true ∧ (c.ssp 7).tries < 2 ∧ 2 ≤ ((ssp7 { tries := 2 }).ssp 7).tries)
    ∧ (let c : Chip := { run with ports := [(23, { pocLow := true, deglitch := true })] };
      (c.port 23).pocLow = true ∧ (c.port 23).deglitch = true ∧ c.gang 23 ≠ [] ∧ c.asleep = false ∧ (c.port 22).deglitch = false)
    ∧ (let c := port3 { tripped := true }; (c.port 3).tripped = true ∧ (c.port 3).tripDue = none)
    ∧ (let c := port3 { cycle := some 1, oc := true }; (c.port 3).cycle.isSome = true ∧ (c.port 3).oc = true)
    ∧ (let c := port3 { cycle := some 1 }; (c.port 3).cycle.isSome = true ∧ (c.port 3).oc = false)
    ∧ (run.isMgr (.fn 0) = true ∧ 5 ≤ fld (0xA : Word) 3 1 ∧ fld (0x8 : Word) 3 1 < 5)
    ∧ (∀ j < 4, (run.port (4 * 5 + j)).powered = false ∧ fld (0x17161514 : Word) (8 * j + 4) (8 * j) < 24) := by decide

theorem test_wit_TripSwitchesTheGangOff :
    let c : Chip := { run with ports := [(4, { src := some 23, powered := true }), (5, { powered := true })] };
    (4 : Nat) ≠ 23 ∧ 4 ∈ c.gang 23 ∧ 4 ∈ c.tripOff 23 ∧ (5 : Nat) ≠ 23 ∧ 5 ∉ c.gang 23 := by decide

/-- A chip whose hub pair is attached on both sides. -/
def hubs (c : Chip := run) : Chip := { c with pass := { c.pass with hubEn := true, vbus := true, ssLink := true, ssSpeed := 4 } }

theorem test_wit_HubRequestsAnswer :
    hubs.hubOn false = true ∧ hubs.hubOn true = true ∧ hubs.pass.ssLink = true ∧ (hubs.port 23).pass = false
    ∧ (let c := hubs { run with ports := [(23, { pass := true, st := pEnabled })] }; (c.port 23).pass = true ∧ (c.port 23).st = pEnabled)
    ∧ (1 : Byte).toNat ≤ 1 ∧ (4 : Byte).toNat ≤ 4 ∧ 4 < (5 : Byte).toNat ∧ run.hubOn false = false ∧ run.hubOn true = false := by decide

theorem test_wit_UpstreamEventsAct :
    run.pass.attached = false ∧ hubs.pass.attached = true ∧ run.isMgr (.fn 0) = true
    ∧ hubs.hubOn false = true ∧ hubs.pass.usb2.halted = false ∧ hubs.hubOn true = true
        ∧ hubs.pass.ssLink = true ∧ (∀ k < 8, (hubs.port k).pass = false)
    ∧ run.hubOn true = false
    ∧ (let c := hubs { run with ports := [(23, { pass := true, st := pEnabled })] };
      c.hubOn false = true ∧ (c.port 23).pass = true ∧ (c.port 23).st = pEnabled ∧ (c.port 22).pass = false)
    ∧ (let c := hubs { run with ports := [(7, { pass := true })], ssps := [(7, { st := sU0, connected := true, speed := 4 })] };
      c.hubOn true = true ∧ (c.port 7).pass = true ∧ (c.ssp 7).enabled = true) := by decide

/-- Instance 5 with a mailbox as given. -/
def mail (m : Mbox) (c : Chip := five active) : Chip := { c with insts := [(5, { c.inst 5 with mbox := m })] }

theorem test_wit_MailboxCompletes :
    (let c := mail { busy := true }; (c.inst 5).pageOn = true ∧ (c.inst 5).mbox.busy = true ∧ (c.inst 5).mbox.ie = false)
    ∧ (mail {} { five active with boot := {} }).boot.fwRunning = false ∧ ((ep1 {}).slot 1).shared = none
    ∧ (let c := mail {}; (c.inst 5).mbox.busy = false ∧ (c.inst 5).mbox.ie = false ∧ c.boot.fwRunning = true ∧ c.rel.suspended = 0
      ∧ (c.inst 5).compat = false ∧ c.owns 5 (c.slotKey (fld (c.mboxArg 5 0) 11 0)) = false)
    ∧ (let c := mail { req := [(0, 1), (1, 8)] }
        (ep1 {} ring7 { devDesc := [18, 1], cfgDesc := [9, 2, 9, 0, 1, 1, 0, 0, 0], shared := some 0 });
      let d : Chip := { c with shares := [(0, { ctl := 1, mem0 := 0x85 })] };
      d.owns 5 1 = true ∧ farKey 1 = false ∧ (d.slot 1).devDesc ≠ []
      ∧ fld (d.mboxArg 5 1) 11 0 < min (leAt (d.slot 1).cfgDesc 2 2) 4096
      ∧ min (leAt (d.slot 1).cfgDesc 2 2) 4096 ≤ fld ((mail { req := [(1, 9)] }).mboxArg 5 1) 11 0
      ∧ (d.slot 1).route = 0 ∧ (d.port (busPort (d.slotBus 1))).parked = [] ∧ (d.slot 1).shared = some 0 ∧ d.focusInst 0 = some 5
      ∧ d.memberIdx 0 = [0] ∧ d.ownedBus 5 (BitVec.ofNat 16 (d.mboxArg 5 0).toNat) = none)
    ∧ (let c := mail { req := [(0, 3)] } (ep1 {}); c.ownedBus 5 (BitVec.ofNat 16 (c.mboxArg 5 0).toNat) = some 3)
    ∧ (let c : Chip := { run with insts := [(5, { active with mbox := { req := [(0, 0x103)] }, portViews := [(0x103, 0x1000)] })] };
      c.ownedBus 5 (BitVec.ofNat 16 (fld (c.mboxArg 5 0) 15 0)) = none ∧ c.ownsView 5 (fld (c.mboxArg 5 0) 15 0) = true
      ∧ (mail {}).ownsView 5 0 = false) := by decide

/-- Connector 3 with one enumeration. -/
def enum3 (j : EnumJob) (c : Chip := ep1 {}) : Chip := { c with jobs := [(jobKey 3 0, j)] }

theorem test_wit_EnumerationSteps :
    (let k := jobKey 3 0;
      let c := enum3 { step := 2, speed := 3 } { ep1 {} with slots := [] };
      (c.job k).step = 2 ∧ (c.job k).slot = none ∧ (c.job k).speed = 3 ∧ mps0Of 3 [18, 1, 0, 2, 0, 0, 0, 64] = some 64
      ∧ c.noAddress k = none ∧ c.newSlot.isSome = true
      ∧ ((c.setJob k { c.job k with step := 3 }).freeAddr (jobBus k)).isSome = true ∧ (c.job k).fail2 < 2 ∧ jobRoute k = 0)
    ∧ (let c := enum3 { step := 3, slot := some 1 }; let k := jobKey 3 0;
      (c.job k).step = 3 ∧ (c.job k).slot = some 1 ∧ (c.job k).redo = false)
    ∧ (let c := enum3 { step := 2, fail2 := 2 }; let k := jobKey 3 0; (c.job k).step = 2 ∧ (c.job k).fail2 = 2)
    ∧ ((ep1 {}).job (jobKey 3 0)).step = 0 ∧ ((ep1 {}).slot 255).hub = false
    ∧ (let c : Chip := { ep1 {} ring7 { hub := true } with
                         ports := [(3, { owner := 5, st := pEnabled, speed := 3, connected := true, powered := true, svc := 1 })] };
      (c.slot 1).hub = true ∧ (c.slot 1).st ≠ .disabled ∧ (c.slot 1).leaving = false ∧ (1 : Nat) ≤ (15 : BitVec 8).toNat
      ∧ (15 : BitVec 8).toNat ≤ 15 ∧ routeLen (c.slot 1).route.toNat < 5 ∧ (c.slot 1).offPorts.contains (15, true) = false
      ∧ (c.slot 1).offPorts.contains (15, false) = false ∧ c.enumOn 3 = true
      ∧ (c.job (jobKey 3 (routeUnder 0 15))).step = 0
      ∧ ((c.busSlots 3).all (fun k => (c.slot k).route.toNat != routeUnder 0 15)) = true) := by decide

theorem test_wit_SharingActs :
    let c : Chip := { ep1 { service := true } ring7 { shared := some 7 } with shares := [(7, { ctl := 1, mem0 := 0x8585 })] };
    (run.isMgr (.fn 0) = true ∧ ({} : Chip).boot.fwRunning = false ∧ run.boot.fwRunning = true
        ∧ run.sharePause = false ∧ bitAt (0 : Word) 0 = bitAt (run.share 7).ctl 0
      ∧ (run.share 7).focus = fld (0 : Word) 3 1)
    ∧ (let d : Chip := { five active with shares := [(7, { ctl := 1, mem0 := 0x8585 })] };
      bitAt (3 : Word) 0 = bitAt (d.share 7).ctl 0 ∧ (d.share 7).focus ≠ fld (3 : Word) 3 1
      ∧ (d.memberAt 7 (fld (3 : Word) 3 1)).isSome = true ∧ d.groupSlots 7 = [])
    ∧ (run.groupSlots 7 = [] ∧ run.focusInst 7 = none ∧ run.sharedBy 255 = false)
    ∧ (c.sharedBy 1 = true ∧ keyIn (epKey 1 17) = true ∧ (c.ep (epKey 1 17)).service = true ∧ c.sharePause = false
      ∧ (c.slot 1).shared = some 7 ∧ (c.ep (epKey 1 17)).keyboard = false ∧ (c.share 7).withhold = false ∧ c.focusInst 7 = some 5)
    ∧ (loads { phase := .swapDrain } c).sharePause = true
    ∧ (run.slot 255).shared = none
    ∧ (let d : Chip := { c with insts := (4, active) :: c.insts, shares := [(7, { ctl := 1, mem0 := 0x8584 })] };
      let e := d.updMember 7 5 1 (fun m => { m with idle := some 0 });
      d.owns 5 1 = true ∧ d.focusInst 7 ≠ some 5 ∧ e.groupWake 7 1 = d.groupWake 7 1)
    ∧ (let e := c.updMember 7 5 1 id;
      c.owns 5 1 = true ∧ c.focusInst 7 = some 5 ∧ e.groupWake 7 1 = c.groupWake 7 1) := by decide

theorem test_wit_SmbusAnswers :
    run.clocked = true ∧ run.boot.ready = true ∧ ({} : Chip).boot.ready = false
        ∧ ({ run with straps := { mgrSel := 1 } } : Chip).straps.mgrSel = 1
    ∧ ((0x7FFC : BitVec 16).toNat % 4 = 0 ∧ (0x7FFC : BitVec 16).toNat < 0x8000 ∧ 0x8000 ≤ (0x8000 : BitVec 16).toNat
      ∧ (0xBFFC : BitVec 16).toNat < 0xC000 ∧ 0xC000 ≤ (0xC000 : BitVec 16).toNat)
    ∧ run.straps.mgrSel ≠ 1 ∧ (2 : BitVec 16).toNat % 4 ≠ 0 ∧ run.smb.events = []
    ∧ ({ run with smb := { events := [(0, .event 1 0 0 0)] } } : Chip).smb.events = (0, .event 1 0 0 0) :: []
    ∧ ({ run with pwr := { st := .dormant } } : Chip).clocked = false := by decide

theorem test_wit_EscapesAndFaultLog :
    (0 : Word) ≠ Config.escKey ∧ (0xFF : Byte) = 0xFF ∧ (127 : Byte).toNat ≤ 127 ∧ (128 ≤ (0xFE : Byte).toNat ∧ (0xFE : Byte) ≠ 0xFF)
    ∧ (1 : Byte) ≠ 0 ∧ run.clocked = true
    ∧ ({ run with pwr := { st := .retain } } : Chip).clocked = false ∧ (0x0D : Byte) ≠ 0x0B ∧ (0x0D : Byte) ≠ 0x0C
    ∧ ({ run with straps := { mgrSel := 1 } } : Chip).straps.mgrSel = 1 ∧ run.straps.mgrSel ≠ 1 ∧ run.smb.escKeyed = false
    ∧ (let c : Chip := { run with smb := { escKeyed := true } };
      c.smb.escKeyed = true ∧ fld (0x17F0B : Word) 7 0 = 0x0B ∧ fld (0x17F0B : Word) 15 8 ≤ 127)
    ∧ run.rel.unread = 0 ∧ ({ run with rel := { unread := 64 } } : Chip).rel.unread ≠ 0 ∧ run.isMgr (.fn 0) = true
    ∧ run.isMgr (.fn 127) = false ∧ (63 : Byte).toNat ≤ 63 ∧ 63 < (64 : Byte).toNat := by decide

/-- Channel 3 of instance 5, as given. -/
def ch3 (h : Chan) : Chip := five { active with chans := [(3, h)] }

theorem test_wit_ChannelsAct :
    let d : Desc := { len := 512, next := 64 };
    (((ch3 {}).inst 5).st = .active ∧ (ch3 {}).chanCount 5 ≤ 4 ∧ 3 < (ch3 {}).chanCount 5 ∧ (((ch3 {}).inst 5).chan 3).st = .idle)
    ∧ (let h : Chan := { st := .running }; h.st ≠ .idle ∧ h.st ≠ .halted)
    ∧ (let c := ch3 { st := .halted, cause := 6 };
      ((c.inst 5).chan 3).st = .halted ∧ 6 ≤ ((c.inst 5).chan 3).cause.toNat)
    ∧ (let c := ch3 { st := .halted, cause := 5, cur := some d };
      ((c.inst 5).chan 3).cause.toNat < 6 ∧ ((c.inst 5).chan 3).cur = some d ∧ (c.inst 5).stsEn = false ∧ ((c.inst 5).chan 3).ie = false
      ∧ d.last = false)
    ∧ (fld (1 : Word) 2 0 = 1 ∧ 5 ≤ fld (5 : Word) 2 0)
    ∧ (let c := ch3 { st := .running, fetching := true };
      ((c.inst 5).chan 3).deadFetch = 0 ∧ ((c.inst 5).chan 3).fetching = true ∧ (descOf (List.replicate 32 0)).invalid = 0
      ∧ (descOf (List.replicate 31 0 ++ [1])).invalid = 0 ∧ (descOf (List.replicate 27 0 ++ [4, 0, 0, 0, 0])).invalid ≠ 0)
    ∧ (let c := ch3 { deadFetch := 1 }; 0 < ((c.inst 5).chan 3).deadFetch ∧ ((c.inst 5).chan 3).fetching = false)
    ∧ (let c := ch3 { st := .running, cur := some d, begun := 1, confirming := true };
      ((c.inst 5).chan 3).cur = some d ∧ ((c.inst 5).chan 3).deadRead = 0 ∧ ((c.inst 5).chan 3).done < ((c.inst 5).chan 3).begun
      ∧ ((c.inst 5).chan 3).deadConf = 0 ∧ ((c.inst 5).chan 3).confirming = true)
    ∧ (run.physChans.find? (fun p => p.1 == fld (0xEF : Word) 7 0)).isNone = true := by decide

theorem test_wit_OffersFollowTheRules :
    let c : Chip := { run with srcs := [(32, { pend := true, en := true, prio := 15, targets := 0xFFF })]
                               fielders := [(0, { st := .active, mie := true, meie := true })] };
    Tbl.wf ({} : Src) c.srcs = true ∧ c.canTake 0 (c.src 32) = true ∧ (c.offers.fielder 0).offer = some 32
    ∧ (∀ f < 12, ∀ g < 12, (c.fielder f).offer = some 32 → (c.fielder g).offer = some 32 → f = g) := by decide

/-- A chip with one ACTIVE Fielder, 11, and one source, 32, as given. -/
def whistle (x : Fielder) (y : Src) (c : Chip := run) : Chip := { c with fielders := [(11, { x with st := .active })], srcs := [(32, y)] }

theorem test_wit_WhistleActs :
    noLine 31 = true ∧ noLine 511 = false ∧ senseOf 511 { sense := 0 } = 0 ∧ senseOf 511 { sense := 1, serv := true } ≤ 1
    ∧ ((2 : Nat) ≤ senseOf 511 { sense := 4 } ∧ 4 ≤ senseOf 511 { sense := 4 } ∧ true ≠ ({ sense := 4 } : Src).line)
    ∧ ((2 : Nat) ≤ senseOf 511 { sense := 2, line := true } ∧ ¬ senseOf 511 { sense := 2, line := true } = 3)
    ∧ (run.fielder 0).st ≠ .active ∧ ((whistle {} {}).fielder 11).st = .active ∧ true ≠ ((whistle {} {}).fielder 11).vbank
    ∧ ((whistle {} {}).fielder 11).offer = none ∧ ((whistle { offer := some 32 } {}).fielder 11).offer = some 32
    ∧ ((whistle {} {}).fielder 11).claim = none ∧ ((whistle { claim := some (32, 4) } {}).fielder 11).claim = some (32, 4)
    ∧ fld (33 : Word) 8 0 ≠ 32 ∧ fld (32 : Word) 8 0 = 32 := by decide

theorem test_wit_FielderRegistersAct :
    (run.fielder 0).st ≠ .active ∧ (whistle {} {}).wakeSource 11 = none
        ∧ (({ run with fielders := [(3, { st := .retired })] } : Chip).fielder 3).st = .retired
    ∧ (let c := whistle { mcause := 1, mtvec := 0x103, mepc := 0x100 } {};
      (c.fielder 11).st = .active ∧ (c.fielder 11).mcause = 1 ∧ (c.fielder 11).mepc = ((c.fielder 11).mtvec &&& ~~~(3 : Word)))
    ∧ (let c := whistle { wfi := true } { pend := true, en := true, prio := 15, targets := 0x800 };
      c.wakeSource 11 = some 32 ∧ (c.fielder 11).wfi = true)
    ∧ (let c : Chip := { whistle {} {} with jtag := { testMode := true, attached := true } };
      (c.fielder 11).st = .active ∧ c.jtag.testMode = true ∧ c.jtag.attached = true ∧ run.jtag.testMode = false)
    ∧ ((whistle { ftRun := true } {}).fielder 11).ftRun = true ∧ ((whistle {} {}).fielder 11).ftRun = false
    ∧ (let c := whistle { fwdog := 1, barked := true } {};
      (c.fielder 11).fwdog ≠ 0 ∧ (c.fielder 11).wfi = false ∧ (c.fielder 11).barked = true)
    ∧ ((whistle { fwdog := 1 } {}).fielder 11).barked = false ∧ ((whistle {} {}).fielder 11).fwdog = 0
    ∧ Tbl.get none run.locks 63 = none ∧ Tbl.get none ({ run with locks := [(63, some 11)] } : Chip).locks 63 = some 11
    ∧ Tbl.get none ({ run with locks := [(63, some 11)] } : Chip).locks (fld (63 : Word) 5 0) = some 11
    ∧ Tbl.get none run.locks (fld (63 : Word) 5 0) ≠ some 11 := by decide

theorem test_wit_FielderFaultsMoveTheRole :
    ((whistle { claim := some (32, 1) } { serv := true }).fielder 11).claim = some (32, 1) ∧ ((whistle {} {}).fielder 11).claim = none
    ∧ ((run.fielder 11).st ≠ .active ∧ (run.fielder 11).st ≠ .bench)
    ∧ (run.fw.phase = .idle ∧ run.boot.fwRunning = true ∧ run.freeBench = none)
    ∧ (let c := loads { bench := some 0 } { run with fielders := [(0, { st := .bench }), (11, { st := .halted })] };
      c.freeBench = some 0 ∧ c.roleCopy 11 = true)
    ∧ (let c : Chip := { run with fielders := [(0, { st := .bench, takes := some 11 })] };
      (c.fielder 0).takes = some 11 ∧ (c.fielder 0).st = .bench ∧ (c.fielder 1).takes = none)
    ∧ (bitAt (1 : Word) 0 = true ∧ bitAt (2 : Word) 0 = false ∧ ((whistle { ready := true } {}).fielder 11).ready = true)
    ∧ (let c := whistle { takes := some 0 } {};
      (c.fielder 11).ready = false ∧ c.fw.phase = .idle ∧ (0 : Fin 12) ≠ 11 ∧ (c.fielder 11).takes = some 0)
    ∧ (let c : Chip := { run with fielders := [(10, { st := .bench, takes := some 11 })] };
      (c.fielder 10).st = .bench ∧ (c.fielder 10).takes = some 11 ∧ (∀ g, g < 10 → g ≠ 11 → (c.fielder g).takes ≠ some 11))
    ∧ (let c : Chip := { run with fielders := [(11, { st := .halted, owed := true })] };
      (c.fielder 11).st = .halted ∧ (c.fielder 11).owed = true ∧ (∀ g, g < 12 → g ≠ 11 → (c.fielder g).takes ≠ some 11))
    ∧ (∀ g, g < 12 → g ≠ 11 → ((whistle {} {}).fielder g).takes ≠ some 11) := by decide

/-- A chip whose power state stands so. -/
def power (p : Pwr) (c : Chip := run) : Chip := { c with pwr := p }

theorem test_wit_DozeAndScrums :
    (run.isMgr (.fn 127) = false ∧ run.isMgr (.fn 0) = true ∧ run.pwr.dozeDue = false
      ∧ fld (0x31 : Word) 1 0 ≠ 0 ∧ fld (0x30 : Word) 1 0 = 0 ∧ (power { dozeDue := true }).pwr.dozeDue = true)
    ∧ (let c := power { target := 1, dozeTold := true };
      c.pwr.st = .run ∧ c.pwr.target = 1 ∧ c.pwr.limit ≠ 0 ∧ c.allWfi = true ∧ c.pwr.dozeTold = true)
    ∧ (power { target := 1 }).pwr.dozeTold = false ∧ run.pwr.target ≠ 1
    ∧ (let c := power { target := 3, st := .doze }; c.pwr.st = .doze ∧ 2 ≤ c.pwr.target ∧ c.allWfi = true ∧ run.pwr.target < 2)
    ∧ (let c := power { st := .phase1, goal := 2 }; c.pwr.st = .phase1 ∧ c.refusal1 = none)
    ∧ (let c := power { st := .phase1, goal := 2 } { run with link0 := { pm := .l0 } }; c.refusal1 = some 6
        ∧ (6 : Nat) ≠ 0x1B ∧ (6 : Nat) ≠ 0x1C)
    ∧ (let c := power { st := .phase1, goal := 2 } (port3 { st := pDebounce }); c.refusal1 = some 0x1B ∧ c.portsWake.isSome = true)
    ∧ run.pwr.st ≠ .phase1
    ∧ (let c := power { st := .phase2 11, goal := 2 }; c.pwr.st = .phase2 11 ∧ c.refusal2 12 = none)
    ∧ (let c := power { st := .phase2 12, goal := 2 }; c.refusal2 13 = none ∧ c.pwr.wakeDue = false)
    ∧ (let c := power { st := .phase2 0, goal := 2 } { run with spin := { unlocked := true, refuse := 0x195 } };
      c.refusal2 1 = some 21) ∧ run.pwr.st = .run := by decide

theorem test_wit_ScrumNamesTheLowestBlock :
    let c := power { st := .phase2 0, goal := 2 } { run with spin := { unlocked := true, refuse := 0x195 } };
    (power { st := .phase1, goal := 2 } { run with link0 := { pm := .l0 } }).refusal1 = some 6 ∧ c.refusal2 1 = some 21 := by decide

theorem test_wit_EntryAndExitSteps :
    (let c := power { st := .ap1 }; c.pwr.wakeDue = false ∧ c.pwr.st = .ap1)
    ∧ (power { st := .ap2 }).pwr.st = .ap2 ∧ (power { st := .ap3 }).pwr.st = .ap3
    ∧ (let c := power { st := .ap4, goal := 2 }; c.pwr.st = .ap4 ∧ c.pwr.goal ≠ 3) ∧ (power { st := .ap4, goal := 3 }).pwr.goal = 3
    ∧ (power { st := .ap1, wakeDue := true }).pwr.wakeDue = true ∧ (power { st := .ap2, wakeDue := true }).pwr.wakeDue = true
    ∧ run.pwr.st = .run
    ∧ (let c := power { st := .retain, goal := 2 } { run with link0 := { pm := .l2 } };
      c.pwr.st = .retain ∧ c.pwr.goal = 2 ∧ c.pwr.wakeDue = false ∧ bitAt c.pwr.wakeEn 5 = true ∧ c.link0.pm = .l2 ∧ c.link1.pm = .down)
    ∧ ({ ({ wakeEn := 0 } : Pwr) with slTime := 9 } : Pwr).wakeOn .ufpResume = false
    ∧ (run.pwr.slTimer = 0
        ∧ (let c := power { slTimer := 1, wakeEn := 0x7F }; c.pwr.slTimer ≠ 0 ∧ c.clocked = true ∧ bitAt c.pwr.wakeEn 8 = false)
      ∧ (power { slTimer := 1, st := .retain }).clocked = false)
    ∧ (let c := power { st := .exiting 1, goal := 3 }; c.pwr.st = .exiting 1 ∧ c.hold.pwrgd = true ∧ c.pwr.vrdySeen = false)
    ∧ (let c := power { st := .exiting 1, goal := 3, vrdySeen := true } { run with hold := { pwrgd := false } };
      c.pwr.goal = 3 ∧ c.hold.pwrgd = false ∧ c.pwr.vrdySeen = true)
    ∧ (run.isMgr (.fn 0) = true ∧ bitAt (1 : Word) 0 = true ∧ (power { held := true }).pwr.held = true ∧ run.isMgr .smbus = false
      ∧ run.pwr.held = false) := by decide
theorem test_wit_EntryAndExitSteps_noPin : ∀ n h, WakeEvent.ufpResume ≠ .gpio n h := by intro n h; simp

theorem test_wit_VoltageAndHeatAct :
    let q (p : Pwr) (val : Word) : Pwr := { p with freq := BitVec.ofNat 2 (fld val 1 0), vmin := BitVec.ofNat 2 (fld val 5 4) };
    (run.isMgr (.fn 127) = false ∧ run.isMgr (.fn 0) = true ∧ (power { dvfs := .settle }).pwr.dvfs ≠ .idle)
    ∧ (let p : Pwr := { vid := 1, freq := 3, freqNow := 3 }; p.dvfs = .idle ∧ p.vid.toNat < (q p 0).wantVid)
    ∧ (let p : Pwr := {}; p.dvfs = .idle ∧ (q p 3).wantVid < p.vid.toNat)
    ∧ (let p : Pwr := {}; (q p 0).wantVid = p.vid.toNat ∧ p.freqNow = (q p 0).wantFreq)
    ∧ ((power { dvfs := .raise }).pwr.dvfs = .raise ∧ (power { dvfs := .lower }).pwr.dvfs = .lower
        ∧ (power { dvfs := .settle }).pwr.dvfs = .settle)
    ∧ ((134 : Int) < 135 ∧ run.clocked = true ∧ run.pwr.hotRuns = 0)
    ∧ ((135 : Int) ≤ 135 ∧ 1 ≤ (power { hotRuns := 1 }).pwr.hotRuns ∧ run.hold.trip = false)
    ∧ (let c := power { temp := 111, cap := 2 }; (c.pwr.high.toNat : Int) < c.pwr.temp ∧ c.pwr.cap ≠ 3)
    ∧ (let c := power { temp := 99, cap := 2, relaxed := true };
      c.pwr.temp < (c.pwr.low.toNat : Int) ∧ c.pwr.low.toNat ≤ c.pwr.high.toNat ∧ c.pwr.cap ≠ 0)
    ∧ (let c := power { temp := 100 }; (c.pwr.low.toNat : Int) ≤ c.pwr.temp ∧ c.pwr.temp ≤ (c.pwr.high.toNat : Int)) := by decide
theorem test_wit_VoltageAndHeatAct_noExit : ∀ n, (power { dvfs := .raise }).pwr.st ≠ .exiting n := by intro n; simp [power]

/-- A node in SERVICE with fabric port FB, as given. -/
def fb (q : FabPort) (f : Fab := {}) : Chip := { run with fab := { f with en := true, ports := [(1, q)] } }

theorem test_wit_FabricLinks :
    ((run.fabPort 0).st = 0 ∧ (fb {}).fabPortOn 1 = true ∧ run.fabPortOn 1 = false)
    ∧ (let c := fb { st := 1 }; (c.fabPort 1).st = 1 ∧ 1 ≤ min 1 (2 - c.fabLanesDown 1) ∧ (c.fabPort 1).st < 2)
    ∧ 4 < ((fb { st := 5 }).fabPort 1).st
    ∧ (let h : LinkHdr := { uid := 5, captain := 7 };
      let c := fb { st := 3, peerUid := 5, peerCaptain := 7, txSeq := 4, unacked := 3 } { valid := true };
      2 ≤ (c.fabPort 1).st ∧ (c.fabPort 1).st ≤ 4 ∧ h.good = true ∧ (c.fabPort 1).st = 3 ∧ (c.fabPort 1).peerUid = h.uid
      ∧ (c.fabPort 1).peer = h.node ∧ (c.fabPort 1).peerCaptain = h.captain
      ∧ 3 = ((3 : BitVec 12) + 1 - ((c.fabPort 1).txSeq - BitVec.ofNat 12 (c.fabPort 1).unacked)).toNat ∧ 3 ≤ (c.fabPort 1).unacked
      ∧ c.fab.valid = true ∧ c.fab.role ≠ 2 ∧ (c.fabPort 0).st ≠ 3 ∧ ({ good := false } : LinkHdr).good = false)
    ∧ (let c := fb { st := 4, unacked := 1, tries := 7 }; 0 < (c.fabPort 1).unacked ∧ (c.fabPort 1).tries < 8)
    ∧ (let c := fb { st := 4, unacked := 1, tries := 8 };
      c.fab.valid = false ∧ c.fab.role ≠ 2 ∧ c.fab.routes = [] ∧ c.peps = [] ∧ (c.fabPort 0).st < 2 ∧ 1 ≤ (c.fabPort 1).st
      ∧ 8 ≤ (c.fabPort 1).tries) := by decide

theorem test_wit_RoutedFramesAct :
    (let h : FrameHdr := { dst := 0, src := 3, tc := 2, len := 2048, seq := 9 };
      let c := fb { st := 3, rxSeq := 9 };
      (c.fabPort 1).st = 3 ∧ h.good = true ∧ h.tc ≠ 3 ∧ h.len ≤ 2048 ∧ h.seq = (c.fabPort 1).rxSeq ∧ h.ack = none ∧ h.dst.toNat = c.nodeNo
      ∧ (c.fabPort 1).nakSent = false ∧ { h with seq := 8 }.seq ≠ (c.fabPort 1).rxSeq ∧ { h with good := false }.good = false)
    ∧ (let c := fb { st := 3, nakSent := true } { routes := [(5, { port := 1, hops := 1, member := true })] };
      (c.fabPort 1).nakSent = true ∧ (5 : BitVec 4).toNat ≠ c.nodeNo ∧ c.portTo 5 = 2 - 1 ∧ c.portTo 6 = 0)
    ∧ ((fb { st := 2 }).fabPort 1).st = 2
    ∧ (let h : FrameHdr := { dst := 0, src := 3, tc := 0, len := 0, seq := 0, slot := 1, ep := 17, inst := 5 };
      let c := ep1 {} ring7 { far := some (3, 5) };
      c.farFits h = true ∧ (c.ep (homeKey h)).rings = [7] ∧ run.farFits h = false ∧ run.hostFits h = false)
    ∧ Tbl.get (0, 0) run.fab.proxies (1 + 65536 * 15) = (0, 0)
    ∧ Tbl.get (0, 0) ({ run with fab := { proxies := [(1, (128, 9))] } } : Chip).fab.proxies (1 + 65536 * 0) = (128, 9) := by decide

theorem test_wit_NumbersAreDistinct :
    ∃ (self captain : BitVec 4) (uid : BitVec 64) (all : List (BitVec 4 × BitVec 64))
      (routes : List (BitVec 4 × BitVec 2 × BitVec 4 × BitVec 2 × BitVec 4)) (topo tick : BitVec 16),
      run.plan.fab.install = some (.install self captain uid all routes topo tick) ∧ run.fab.members = [] := by
  refine ⟨_, _, _, _, _, _, _, rfl, rfl⟩

theorem test_wit_ElectionAndSleep :
    (let c := fb {} { forming := true };
      c.fabOn = true ∧ c.fab.forming = true ∧ c.fab.candidate = Config.uid ∧ c.fab.role ≠ 2 ∧ c.fab.install = none)
    ∧ run.fabOn = false
    ∧ (let c : Chip := { run with fab := { en := true, install := some (.install 0 0 Config.uid [(0, Config.uid)] [] 1 2) } };
      c.fab.install = some (.install 0 0 Config.uid [(0, Config.uid)] [] 1 2) ∧ c.fab.valid = false ∧ c.fab.members = [] ∧ c.slots = []
      ∧ c.peps = [] ∧ c.fab.ports = [])
    ∧ (run.pwr.st = .run ∧ (power { st := .doze }).pwr.st = .doze ∧ (power { st := .dormant }).pwr.st ≠ .run
      ∧ (power { st := .dormant }).pwr.st ≠ .doze) := by
  refine ⟨⟨rfl, rfl, rfl, by decide, rfl⟩, by decide, ⟨rfl, by decide, rfl, rfl, rfl, rfl⟩, by decide⟩

/-- A chip whose reliability state stands so. -/
def rel (r : Rel) (c : Chip := run) : Chip := { c with rel := r }

theorem test_wit_freeSpare : (rel {}).freeSpare 15 ≠ none
    ∧ (rel { repairs := (List.range 64).map (fun k => { bank := 15, row := k, spare := k }) }).freeSpare 15 = none := by
  unfold Chip.freeSpare
  generalize Config.sparesUsed 15 = k
  revert k
  decide

theorem test_wit_ChecksStartAndEnd :
    ((rel { auto := false }).rel.auto = false ∧ run.rel.queue = [])
    ∧ (let c := rel { queue := [(.sram 15 1023 127 63, true)] };
      c.clocked = true ∧ c.rel.auto = true ∧ c.rel.queue = (.sram 15 1023 127 63, true) :: [] ∧ (c.bank 15).row = none)
    ∧ (let c := rel { queue := [(.fielder 11 63, false)] } { run with fielders := [(11, { st := .halted })] };
      c.rel.queue = (.fielder 11 63, false) :: [] ∧ c.rel.fielderJob = none ∧ (c.fielder 11).st = .halted ∧ c.fw.bench ≠ some 11)
    ∧ ((rel { banks := [(15, { row := some 1023, copied := true })] }).bank 15).row = some 1023
    ∧ ((rel { banks := [(15, { row := some 1023, copied := true })] }).bank 15).copied = true
    ∧ ((rel { banks := [(15, { row := some 1023 })] }).bank 15).copied = false
    ∧ (Tbl.get [] (rel { rowCe := [(1024 * 15 + 1023, [3, 2, 1])] }).rel.rowCe (1024 * 15 + 1023)).length = 3
    ∧ (Tbl.get [] run.rel.rowCe (1024 * 15 + 1023)).length ≠ 3 ∧ run.rel.otpCommit = false ∧ run.sticky 15 1023 = false
    ∧ ({ run with spin := { ecc := 0x10003FFF } } : Chip).sticky 15 1023 = true
    ∧ (rel { fielderJob := some (11, 63, true) }).rel.fielderJob = some (11, 63, true)
    ∧ ((rel { otpCommit := true }).rel.otpCommit = true ∧ bitAt ((rel {}).flog 63).outcome 5 = false)
    ∧ (let r : Repair := { bank := 15, row := 1023, spare := 63 };
      (rel { otpDue := [(63, .row r)], otpLeft := 1 }).rel.otpDue = [(63, .row r)])
    ∧ (rel { otpDue := [(63, .fielder 11)], otpLeft := 1 }).rel.otpDue = [(63, .fielder 11)]
    ∧ (rel { otpLeft := 0 }).rel.otpLeft = 0 ∧ (rel { otpLeft := 1 }).rel.otpLeft ≠ 0 := by decide

theorem test_wit_LanesAndScrubbing :
    (rel { laneJobs := [(15, 63, false, 1)] }).laneSlot 15 = some 63 ∧ run.laneSlot 15 = none
    ∧ ((run.us :: (Tbl.get [] run.rel.laneErr 15).filter (fun t => decide (run.us - t ≤ 1000))).length < run.rel.laneTh.toNat)
    ∧ ((rel { laneTh := 1 }).rel.laneTh.toNat ≤
        (run.us :: (Tbl.get [] run.rel.laneErr 15).filter (fun t => decide (run.us - t ≤ 1000))).length)
    ∧ run.rel.laneJobs = []
    ∧ ((rel { laneJobs := [(19, 63, true, 4)] }).rel.laneJobs = [(19, 63, true, 4)] ∧ (3 : Nat) < 4 ∧ run.straps.bifur = false
      ∧ run.rel.laneDown = 0)
    ∧ ((rel { scrub := 0 }).rel.scrub = 0 ∧ run.clocked = true ∧ run.boot.sram = true ∧ run.rel.scrub ≠ 0
      ∧ (rel { scrubRow := 16383 }).rel.scrubRow / 1024 = 15 ∧ (rel { scrubRow := 10239 }).rel.scrubRow / 1024 < 10
      ∧ 12 ≤ (rel { scrubRow := 12288 }).rel.scrubRow / 1024 ∧ (rel { scrubRow := 15359 }).rel.scrubRow / 1024 < 15) := by decide

theorem test_wit_SpinUnlocksAndLocks :
    run.isMgr (.fn 127) = false ∧ run.isMgr (.fn 0) = true ∧ ({ stage := true } : Spin).stage = true
    ∧ ((0 : Word) ≠ 0x00005917 ∧ (0 : Word) ≠ 0x0000A6E8) ∧ run.spin.unlocked = false
    ∧ ({ unlocked := true } : Spin).unlocked = true ∧ ({ unlocked := true } : Spin).fabHold = none
    ∧ (let p : Spin := { credit := 0x00010FFF }; fld p.credit 11 0 ≠ 0 ∧ fld p.credit 31 16 ≠ 0)
    ∧ (let p : Spin := { credit := 0x00000FFF }; fld p.credit 31 16 = 0) := by decide

theorem test_wit_RefusedChannelCommands :
    (let c := ch3 { st := .halted, cause := 8 };
      (c.inst 5).st = .active ∧ 3 < c.chanCount 5 ∧ ((c.inst 5).chan 3).st = .halted ∧ ((c.inst 5).chan 3).cause = 8)
    ∧ (fld (0xFFFFFFF8 : Word) 2 0 = 0 ∧ 4 < fld (7 : Word) 2 0 ∧ fld (1 : Word) 2 0 = 1 ∧ fld (2 : Word) 2 0 = 2 ∧ fld (3 : Word) 2 0 = 3
      ∧ fld (4 : Word) 2 0 = 4)
    ∧ (((ch3 {}).inst 5).chan 3).st = .idle ∧ (((ch3 { st := .running }).inst 5).chan 3).st = .running
    ∧ (((ch3 { st := .aborting }).inst 5).chan 3).st = .aborting ∧ (((ch3 { st := .paused }).inst 5).chan 3).st = .paused := by decide

theorem test_wit_WakesAfterAp4Wait :
    (power { st := .ap4 }).pwr.st = .ap4 ∧ (power { st := .ap4 }).pwr.wakeDue = false
    ∧ (power { st := .ap4, wakeDue := true }).pwr.wakeDue = true ∧ (power { st := .ap4, wakeDue := true }).calmed = true := by decide

/-! ### Worked examples of the manual -/

/-- 05_lineup_periodic.md, "Worked budget: a high-speed bus", and the SuperSpeed example of R132. -/
theorem test_costs : oppCost .hs 3 true 1024 0 2 0 = 3711 ∧ oppCost .hs 3 false 64 0 0 0 = 134 ∧ oppCost .hs 3 false 1024 0 0 0 = 1254
    ∧ oppCost .hs 3 false 512 0 0 0 = 657 ∧ oppCost .ss 4 true 1024 15 2 0 = 51024 := by decide

/-- 11_carry.md, "Worked example: a chain, an overlap and an abort": descriptor A. -/
def descA : Desc := { src := 0x200010010, dst := 0x200010100, next := 0x200000020, len := 1000, ctl := 0x80, tag := 0x101 }
theorem test_bursts : descA.descend = true ∧ descA.bursts = 4
    ∧ (List.range 4).map descA.dstAt = [0x200010400, 0x200010300, 0x200010200, 0x200010100]
    ∧ (List.range 4).map descA.srcAt = [0x200010310, 0x200010210, 0x200010110, 0x200010010]
    ∧ (List.range 4).map (fun k => descA.size (descA.nth k)) = [232, 256, 256, 256] ∧ descA.lastDword 1 = 0x2000103FC := by decide
/-- Its abort: two bursts moved and confirmed, and 512 bytes left. -/
theorem test_abortResidue :
    ({ st := .aborting, done := 2, conf := 2, begun := 2, cur := some descA } : Chan).residue descA = 512 := by decide

/-- 03_rings.md, "Worked example: a wrap, one interrupt and one cancel": HUDDLE_CTL[1], and records B and D. -/
def inst9 (p count : Nat) (phase : Bool) : Chip :=
  { run with insts := [(9, { active with
      crings := [(1, { live := true, prod := p, cons := 14, phase := phase, count := count, timer := true })]
      huddle := [(1, { count := 4, time := 200, urgent := false, idleCancel := true })] })] }
theorem test_huddleCtl : reads (at' { run with insts := [(9, active)] } (.huddleCtlWrite 9 1 0x0200C804))
    (fun c => (c.inst 9).hud 1) = some { count := 4, time := 200, urgent := false, idleCancel := true } := by decide
theorem test_recordWraps : let d := (inst9 15 1 true).post 9 1 { body := .transfer 1 0 0 false false false 0 0 0 none };
    ((d.inst 9).cring 1).prod = 0 ∧ ((d.inst 9).cring 1).phase = false ∧ ((d.inst 9).cring 1).count = 2 := by decide
theorem test_fourthDecides : let d := (inst9 1 3 false).post 9 1 { body := .transfer 1 0 0 false false false 0 0 0 none };
    ((d.inst 9).cring 1).prod = 2 ∧ ((d.inst 9).cring 1).count = 0 ∧ ((d.inst 9).cring 1).timer = false := by decide
theorem test_handlerConsumes : reads (at' (inst9 2 0 false) (.registerWrite (.fn 9) 2 0 0x00028001 4))
    (fun c => ((c.inst 9).cring 1).cons) = some 2 := by decide

/-- 14_power.md, "Worked example: a late refusal": the Huddle decision of ring 1 of instance 5 falls due in the scrum, and CWRITER refuses
at step 5. -/
def lateDue (due : Bool) : Chip :=
  { run with
    pwr := { st := .phase2 4, goal := 2, target := 2 }
    insts := [(5, { active with crings := [(1, { live := true, prod := 1, count := 1, timer := true, due := due })] })] }
theorem test_decisionFallsDue : reads (at' (lateDue false) (.huddleTimerExpiry 5 1)) (fun c => c.insts) = some (lateDue true).insts := by
  decide
theorem test_lateRefusal : (lateDue true).refusal2 5 = some 0x13 := by decide

/-- 07_referee.md, "Worked example: weights 1, 2 and 5, one tenant capped": the virtual-time costs of one service. -/
theorem test_virtualTime :
    (({} : Chip).bus 4).shaped true 512 1 = 536
    ∧ [1, 2, 5].map (fun w => ((({ queues := [(qKey 4 0, { wUsed := w })] } : Chip).charge 4 0 536).queue (qKey 4 0)).s)
      = [548864, 274432, 109773] := by decide

/-- 08_ports_pass.md, "Worked example: a ganged quad switch": OC_MAP2, and the trip of POC#[8]. -/
theorem test_ocMap : reads (at' run (.ocMapWrite (.fn 0) 2 0x08080808)) (fun c => c.gang 8) = some [8, 9, 10, 11] := by decide
theorem test_gangTrips :
    let q : Port := { src := some 8, powered := true };
    let c : Chip := { run with ports := [(8, { q with src := none, pocLow := true, deglitch := true }),
        (9, q), (10, q), (11, q), (12, { powered := true })] };
    reads (at' c (.ocTripQualified 8)) (fun c => (List.range 13).filter (fun p => (c.port p).oc)) = some [8, 9, 10, 11]
    ∧ reads (at' c (.ocTripQualified 8)) (fun c => (List.range 13).filter (fun p => (c.port p).powered)) = some [12] := by decide
end Sys2Proof.Tests
end

/-! Consumer doorbells (R54, R55): what the state of the instance and the index decide. -/
section

namespace Sys2Proof.Machine

variable {c : Chip} {n k idx : Nat}

theorem State.act_eq_onward (s : State) (f : Chip → Chip) : s.act f = s.onward (f s.chip) := rfl

theorem exec_doorbellConsumer (s : State) (i : Fin 128) (k : BitVec 15) (idx : BitVec 16) :
    exec (.doorbellConsumer i k idx) s = .next (s.onward (s.chip.doorbellC i.val k.toNat idx.toNat)) :=
  congrArg Host.Outcome.next (State.act_eq_onward s (fun c => c.doorbellC i.val k.toNat idx.toNat))

theorem Chip.atDoorbell_active (act : Chip → Chip) (h : (c.inst n).st = .active) : c.atDoorbell n act = act c := by
  simp [Chip.atDoorbell, h]

/-- In reset or frozen, whatever the doorbell would do, only DB_ERR is set (R55). -/
theorem Chip.atDoorbell_barred (act : Chip → Chip) (h : (c.inst n).st = .frozen ∨ (c.inst n).st = .resetting) :
    c.atDoorbell n act = c.updInst n (fun x => { x with dbErr := true }) := by
  rcases h with h | h <;> simp [Chip.atDoorbell, h]

theorem Chip.doorbellC_barred (h : (c.inst n).st = .frozen ∨ (c.inst n).st = .resetting) :
    c.doorbellC n k idx = c.updInst n (fun x => { x with dbErr := true }) :=
  Chip.atDoorbell_barred _ h

/-- The index lies between consumer and producer of a ring that exists (R54). -/
theorem Chip.doorbellC_accepted (hst : (c.inst n).st = .active) (hk : k < 64) (hlive : ((c.inst n).cring k).live = true)
    (hsize : idx < ((c.inst n).cring k).size)
    (hprod : (idx + ((c.inst n).cring k).size - ((c.inst n).cring k).cons) % ((c.inst n).cring k).size
      ≤ (((c.inst n).cring k).prod + ((c.inst n).cring k).size - ((c.inst n).cring k).cons) % ((c.inst n).cring k).size) :
    c.doorbellC n k idx = (c.updInst n (fun x => x.updCring k (fun r => { r with cons := idx }))).ringRoom n k := by
  rw [Chip.doorbellC, Chip.atDoorbell_active _ hst]
  refine if_neg ?_
  rintro (hnone | hdead | hpast | hbeyond)
  · omega
  · simp [hlive] at hdead
  · omega
  · omega

/-- The ring does not exist, or the index breaks R54 (R55). -/
theorem Chip.doorbellC_discarded (hst : (c.inst n).st = .active)
    (hbad : 64 ≤ k ∨ ((c.inst n).cring k).live = false ∨ ((c.inst n).cring k).size ≤ idx
      ∨ (((c.inst n).cring k).prod + ((c.inst n).cring k).size - ((c.inst n).cring k).cons) % ((c.inst n).cring k).size
        < (idx + ((c.inst n).cring k).size - ((c.inst n).cring k).cons) % ((c.inst n).cring k).size) :
    c.doorbellC n k idx = c.dbDiscard n (toWord (k + 2 ^ 15 + 2 ^ 16 * idx)) := by
  rw [Chip.doorbellC, Chip.atDoorbell_active _ hst]
  exact if_pos hbad

/-- Settles O20: one case for each answer to a consumer doorbell, accepted, discarded, and barred by the instance's state. -/
theorem consumerDoorbells : Obligations.ConsumerDoorbells := by
  intro s i k idx n r
  rw [exec_doorbellConsumer]
  refine ⟨fun hst hk hlive hsize hprod => ?accepted, fun hst hbad => ?discarded, fun hst => ?barred⟩
  case accepted => rw [Chip.doorbellC_accepted hst hk hlive hsize hprod]
  case discarded => rw [Chip.doorbellC_discarded hst hbad]
  case barred => rw [Chip.doorbellC_barred hst]

end Sys2Proof.Machine
end

/-! CH_CMD (R293): what a write in an instance's page finds, and what the channel's state decides. -/
section

namespace Sys2Proof.Machine

variable {c : Chip} {w : IW} {n k : Nat} {val : Word}

/-! ### Writes in an instance's page -/

/-- The chip that a write in page `n` acts on: in the page of PF0 it ends the sequence of SPIN_KEY (R419). -/
def Chip.paged (c : Chip) (n : Nat) : Chip := if n = 0 then c.spinBreak else c

@[simp] theorem Chip.inst_paged (j : Nat) : (c.paged n).inst j = c.inst j := by
  unfold Chip.paged
  split <;> rfl

@[simp] theorem Chip.chanCount_paged (j : Nat) : (c.paged n).chanCount j = c.chanCount j := by
  unfold Chip.paged
  split <;> rfl

theorem Chip.page_active (f : Chip → Chip) (h : (c.inst n).st = .active) : c.page n f = f (c.paged n) := by
  have hon : ((c.paged n).inst n).pageOn = true := by simp [Inst.pageOn, h]
  exact if_pos hon

/-- The instance is ACTIVE and the channel exists: the write reaches the channel (R289). -/
theorem Chip.page_chWrite (f : Chip → IW → IW) (hst : (c.inst n).st = .active) (hk : k < c.chanCount n) :
    c.page n (fun x => x.chWrite n k (f x)) = (c.paged n).onInst n (f (c.paged n)) := by
  rw [Chip.page_active _ hst]
  exact if_pos ⟨by simpa using hst, by simpa using hk⟩

/-! ### The OP of CH_CMD -/

theorem Chip.chCmd_start (h : fld val 2 0 = 1) : c.chCmd n k val = c.chWrite n k (fun w => w.chStart n k) := by
  simp only [Chip.chCmd, h]

theorem Chip.chCmd_resume (h : fld val 2 0 = 2) : c.chCmd n k val = c.chWrite n k (fun w => w.chResume n k c.mf) := by
  simp only [Chip.chCmd, h]

theorem Chip.chCmd_skip (h : fld val 2 0 = 3) : c.chCmd n k val = c.chWrite n k (fun w => w.chSkip n k c.mf) := by
  simp only [Chip.chCmd, h]

theorem Chip.chCmd_abort (h : fld val 2 0 = 4) : c.chCmd n k val = c.chWrite n k (fun w => w.chAbort n k c.mf) := by
  simp only [Chip.chCmd, h]

theorem Chip.chCmd_reserved (h : fld val 2 0 = 0 ∨ 4 < fld val 2 0) :
    c.chCmd n k val = c.chWrite n k (fun w => w.chRefuse k) := by
  unfold Chip.chCmd
  congr 1
  funext w
  split
  case h_5 => rfl
  all_goals omega

/-! ### What the channel's state refuses -/

theorem IW.chStart_refused (h : (w.ch k).st ≠ .idle) : w.chStart n k = w.chRefuse k :=
  if_neg h

theorem IW.chResume_refused (mf : BitVec 16) (h : (w.ch k).st ≠ .halted) : w.chResume n k mf = w.chRefuse k :=
  if_pos h

theorem IW.chSkip_refused (mf : BitVec 16) (h : (w.ch k).st ≠ .halted ∨ (w.ch k).ndHalt = true) :
    w.chSkip n k mf = w.chRefuse k :=
  if_pos h

theorem IW.chAbort_idle (mf : BitVec 16) (h : (w.ch k).st = .idle) : w.chAbort n k mf = w.chRefuse k := by
  simp only [IW.chAbort, h]

theorem IW.chAbort_aborting (mf : BitVec 16) (h : (w.ch k).st = .aborting) : w.chAbort n k mf = w := by
  simp only [IW.chAbort, h]

/-- The causes LOOP, DESC_FETCH_ERR and DESC_INVALID concern no descriptor in progress (R302). -/
theorem Chan.ndHalt_of_cause {h : Chan} (hc : h.cause = 6 ∨ h.cause = 7 ∨ h.cause = 8) : h.ndHalt = true := by
  rcases hc with hc | hc | hc <;> simp [Chan.ndHalt, hc]

/-! ### A refused write, and one that is ignored, seen from the page -/

/-- The chip with CMD_ERR of one channel set. -/
def Chip.chRefused (c : Chip) (n k : Nat) : Chip :=
  c.updInst n (fun x => { x with chans := Tbl.upd {} x.chans k (fun h => { h with cmdErr := true }) })

/-- What refuses the channel as the instance holds it changes nothing but CMD_ERR. -/
theorem Chip.page_chWrite_refused {f : Chip → IW → IW} (hst : (c.inst n).st = .active) (hk : k < c.chanCount n)
    (hf : ∀ x w, w.ch k = (c.inst n).chan k → f x w = w.chRefuse k) :
    c.page n (fun x => x.chWrite n k (f x)) = (c.paged n).chRefused n k := by
  rw [Chip.page_chWrite f hst hk, Chip.onInst, hf _ _ (by simp [IW.ch])]
  rfl

theorem Chip.page_chWrite_ignored {f : Chip → IW → IW} (hst : (c.inst n).st = .active) (hk : k < c.chanCount n)
    (hf : ∀ x w, w.ch k = (c.inst n).chan k → f x w = w) :
    c.page n (fun x => x.chWrite n k (f x)) = (c.paged n).updInst n (fun x => x) := by
  rw [Chip.page_chWrite f hst hk, Chip.onInst, hf _ _ (by simp [IW.ch])]
  rfl

/-! ### The commands -/

variable (s : State) (i : Fin 128) (j : Fin 256)

theorem exec_chStart : exec (.chStart i j) s
    = .next (s.onward (s.chip.page i.val (fun x => x.chWrite i.val j.val (fun w => w.chStart i.val j.val)))) := rfl

theorem exec_chResume : exec (.chResume i j) s
    = .next (s.onward (s.chip.page i.val (fun x => x.chWrite i.val j.val (fun w => w.chResume i.val j.val x.mf)))) := rfl

theorem exec_chSkip : exec (.chSkip i j) s
    = .next (s.onward (s.chip.page i.val (fun x => x.chWrite i.val j.val (fun w => w.chSkip i.val j.val x.mf)))) := rfl

theorem exec_chAbort : exec (.chAbort i j) s
    = .next (s.onward (s.chip.page i.val (fun x => x.chWrite i.val j.val (fun w => w.chAbort i.val j.val x.mf)))) := rfl

theorem exec_chCmdRefused (val : Word) : exec (.chCmdRefused i j val) s
    = .next (s.onward (s.chip.page i.val (fun x => x.chCmd i.val j.val val))) := rfl

/-- Settles O59: the OP that is written picks the command; each state that R293 names refuses it on the channel, and a refusal on
the channel sets CMD_ERR alone. -/
theorem refusedChannelCommands : Obligations.RefusedChannelCommands := by
  intro s i j val n c h refused hst hk
  have hrefused {f : Chip → IW → IW} (hf : ∀ x w, w.ch j.val = h → f x w = w.chRefuse j.val) :
      Host.Outcome.next (s.onward (s.chip.page n (fun x => x.chWrite n j.val (f x)))) = refused :=
    congrArg (fun d => Host.Outcome.next (s.onward d)) (Chip.page_chWrite_refused hst hk hf)
  rw [exec_chCmdRefused, exec_chStart, exec_chResume, exec_chSkip, exec_chAbort]
  refine ⟨fun hop => ?reserved, fun hop => ?opStart, fun hop => ?opResume, fun hop => ?opSkip, fun hop => ?opAbort,
    fun hbusy => ?start, fun hlive => ?resumeSkip, fun hidle => ?abort, fun _ hcause => ?skipHalted, fun hab => ?ignored⟩
  case reserved =>
    simp only [Chip.chCmd_reserved hop]
    exact hrefused fun _ _ _ => rfl
  case opStart => simp only [Chip.chCmd_start hop]
  case opResume => simp only [Chip.chCmd_resume hop]
  case opSkip => simp only [Chip.chCmd_skip hop]
  case opAbort => simp only [Chip.chCmd_abort hop]
  case start => exact hrefused fun _ _ hw => IW.chStart_refused (hw ▸ hbusy)
  case resumeSkip =>
    have hnot : h.st ≠ .halted := by
      rcases hlive with hlive | hlive | hlive | hlive <;> simp [hlive]
    exact ⟨hrefused fun _ _ hw => IW.chResume_refused _ (hw ▸ hnot),
      hrefused fun _ _ hw => IW.chSkip_refused _ (.inl (hw ▸ hnot))⟩
  case abort => exact hrefused fun _ _ hw => IW.chAbort_idle _ (hw ▸ hidle)
  case skipHalted => exact hrefused fun _ _ hw => IW.chSkip_refused _ (.inr (hw ▸ Chan.ndHalt_of_cause hcause))
  case ignored =>
    exact congrArg (fun d => Host.Outcome.next (s.onward d))
      (Chip.page_chWrite_ignored hst hk fun _ _ hw => IW.chAbort_aborting _ (hw ▸ hab))

end Sys2Proof.Machine
end

/-! A wake after AP4 (R379): it waits for the end of step 6, and the exit then begins from either target state. -/
section

namespace Sys2Proof.Machine

variable {c : Chip} {p q : Pwr} {e : WakeEvent}

/-! ### The wake is qualified -/

/-- What a wake event shows whether or not it wakes: the Sideline's time, and the level of a ball. -/
def Pwr.sees (p : Pwr) (e : WakeEvent) (t : Word) : Pwr :=
  match e with
  | .gpio n high => { p with
      slTime := t, gpio := if high then p.gpio ||| BitVec.ofNat 16 (2 ^ n.val) else p.gpio &&& ~~~(BitVec.ofNat 16 (2 ^ n.val)) }
  | _ => { p with slTime := t }

theorem Chip.wakeEvent_eq (t : Word) : c.wakeEvent e t = ({ c with pwr := c.pwr.sees e t } : Chip).wake e := by
  cases e <;> rfl

theorem Pwr.sees_st (t : Word) : (p.sees e t).st = p.st := by cases e <;> rfl
theorem Pwr.sees_goal (t : Word) : (p.sees e t).goal = p.goal := by cases e <;> rfl
theorem Pwr.sees_wakeDue (t : Word) : (p.sees e t).wakeDue = p.wakeDue := by cases e <;> rfl

/-- Which sources are enabled depends on WAKE_EN, WAKE_GPIO and the target state alone (R384). -/
theorem Pwr.wakeOn_congr (hen : q.wakeEn = p.wakeEn) (hgpio : q.wakeGpio = p.wakeGpio) (hgoal : q.goal = p.goal) :
    q.wakeOn e = p.wakeOn e := by
  cases e <;> simp [Pwr.wakeOn, hen, hgpio, hgoal]

theorem Chip.wake_off (hoff : c.pwr.wakeOn e = false) : c.wake e = c := by
  simp [Chip.wake, hoff]

/-- After AP4 an enabled wake is recorded and falls due; the power state stays. -/
theorem Chip.wake_ap4 (hst : c.pwr.st = .ap4) (hon : c.pwr.wakeOn e = true) (hdue : c.pwr.wakeDue = false) :
    c.wake e = { c with pwr := { (c.wakeRecord e c.pwr.goal.toNat).pwr with wakeDue := true } } := by
  simp only [Chip.wake, hst, hon, hdue]
  rfl

/-- At AP4 a wake source changes the power controller only, which stays at AP4: a wake is due exactly if the source is enabled. -/
theorem Chip.wake_waits (hst : c.pwr.st = .ap4) (hdue : c.pwr.wakeDue = false) :
    ∃ p : Pwr, c.wake e = { c with pwr := p } ∧ p.st = .ap4 ∧ p.goal = c.pwr.goal ∧ (p.wakeDue = true ↔ p.wakeOn e = true) := by
  cases hon : c.pwr.wakeOn e with
  | false => exact ⟨c.pwr, Chip.wake_off hon, hst, rfl, by simp [hdue, hon]⟩
  | true =>
    have hsame : Pwr.wakeOn { (c.wakeRecord e c.pwr.goal.toNat).pwr with wakeDue := true } e = true :=
      (Pwr.wakeOn_congr rfl rfl rfl).trans hon
    exact ⟨_, Chip.wake_ap4 hst hon hdue, hst, rfl, by simp [hsame]⟩

/-! ### A chip whose core clocks are stopped -/

/-- The core clocks are stopped, and the power controller's state is `p`. -/
def Chip.StoppedWith (p : Pwr) (c : Chip) : Prop := c.clocked = false ∧ c.pwr = p

/-- FAULT_LOGGED waits for the end of the exit (R414): the log leaves the power controller alone. -/
theorem Chip.StoppedWith.logResult (h : c.StoppedWith p) (slot : Nat) (f : Flog → Flog) : (c.logResult slot f).StoppedWith p := by
  obtain ⟨hclk, hpwr⟩ := h
  have hlogged (r : Rel) (x : Flog) : (({ c with rel := r } : Chip).faultLogged x).StoppedWith p := by
    have hclk' : ({ c with rel := r } : Chip).clocked = false := hclk
    simp only [Chip.faultLogged, hclk']
    exact ⟨hclk, hpwr⟩
  unfold Chip.logResult
  dsimp only
  split
  · exact hlogged _ _
  · exact ⟨hclk, hpwr⟩

/-- The checks that end with the core (R408) are logged, no more. -/
theorem Chip.StoppedWith.endChecks (h : c.StoppedWith p) : c.endChecks.StoppedWith p := by
  unfold Chip.endChecks
  refine List.foldlRecOn _ _ ?_ fun d hd j _ => hd.logResult _ _
  have hbanks := List.foldlRecOn (motive := Chip.StoppedWith p) (c.rel.banks.filter (fun b => b.2.row.isSome))
    (fun (c : Chip) b => c.logResult b.2.slot (fun e => e.withOutcome 3 0 false)) h fun d hd b _ => hd.logResult _ _
  split
  · exact hbanks.logResult _ _
  · exact hbanks

/-! ### Step 6 ends -/

/-- VID is driven to 0, and the chip stands in its target state (R377 step 6). -/
def Chip.supplyOff (c : Chip) : Chip :=
  { c with pwr := { c.pwr with
    st := if c.pwr.goal == 3 then .dormant else .retain, lastAp := 5, entries := c.pwr.entries + 1, vOld := c.pwr.vid, vid := 0 } }

/-- The target state as step 6 leaves it. -/
def Chip.atTarget (c : Chip) : Chip :=
  let d := if c.pwr.goal == 3 then c.supplyOff.dormantLoss else c.supplyOff
  { d with pwr := { d.pwr with vid := 0 } }

theorem Chip.entryDone_wakeDue (hst : c.pwr.st = .ap4) (hdue : c.pwr.wakeDue = true) : c.entryDone = c.atTarget.beginExit := by
  rw [Chip.entryDone, if_pos hst]
  exact if_pos hdue

theorem Chip.clocked_supplyOff : c.supplyOff.clocked = false := by
  unfold Chip.clocked Chip.supplyOff
  cases c.pwr.goal == 3 <;> exact Bool.and_false _

theorem Chip.goal_dormantLoss (hclk : c.clocked = false) : c.dormantLoss.pwr.goal = c.pwr.goal := by
  have hends : c.endChecks.StoppedWith c.pwr := Chip.StoppedWith.endChecks ⟨hclk, rfl⟩
  calc c.dormantLoss.pwr.goal = c.endChecks.pwr.goal := rfl
    _ = c.pwr.goal := by rw [hends.2]

theorem Chip.goal_atTarget : c.atTarget.pwr.goal = c.pwr.goal := by
  unfold Chip.atTarget
  split
  · exact Chip.goal_dormantLoss Chip.clocked_supplyOff
  · rfl

/-- Right after a reset no command waits (R22). -/
theorem Chip.calmed_pfTable (s : Straps) (hw : c.waits = []) (hi : c.insts = pfTable s) : c.calmed = true := by
  cases hb : s.bifur <;> simp [Chip.calmed, hw, hi, pfTable, pfReset, hb]

theorem Chip.calmed_atTarget (h : c.calmed = true) : c.atTarget.calmed = true := by
  unfold Chip.atTarget
  split
  · exact Chip.calmed_pfTable _ rfl rfl
  · exact h

/-! ### The exit begins -/

/-- The signal that a sleeping link gets as an exit begins (R386). -/
def Chip.signalLink (c : Chip) (l : Nat) : Chip :=
  match (c.link l).pm with
  | .l2 | .l3 => c.emit (.pewake l)
  | .l12 => c.emit (.clkreq l)
  | _ => c

theorem Chip.signalLink_out (c : Chip) (l : Nat) : ∃ o, c.signalLink l = { c with out := o } := by
  unfold Chip.signalLink
  split <;> exact ⟨_, rfl⟩

/-- Exit step 1 in the power controller and at WAKE_OUT (R385, R386). -/
def Chip.exitStep1 (c : Chip) : Chip :=
  { c with
    pwr := { c.pwr with st := .exiting 1, wakeDue := false, vrdySeen := false, vid := if c.pwr.goal = 3 then 4 else c.pwr.vOld }
    hold := { c.hold with wakeOut := true } }

theorem Chip.beginExit_eq (c : Chip) : ∃ o, c.beginExit = ({ c with out := o } : Chip).exitStep1 := by
  obtain ⟨o, ho⟩ := c.signalLink_out 0
  obtain ⟨o', ho'⟩ := (c.signalLink 0).signalLink_out 1
  refine ⟨o', ?_⟩
  calc c.beginExit = ((c.signalLink 0).signalLink 1).exitStep1 := rfl
    _ = ({ c with out := o' } : Chip).exitStep1 := by rw [ho', ho]

theorem Chip.calmed_beginExit (h : c.calmed = true) : c.beginExit.calmed = true := by
  obtain ⟨o, ho⟩ := c.beginExit_eq
  rw [ho]
  exact h

theorem Chip.goal_beginExit : c.beginExit.pwr.goal = c.pwr.goal := by
  obtain ⟨o, ho⟩ := c.beginExit_eq
  rw [ho]
  rfl

/-! ### The commands -/

theorem exec_wakeSource (s : State) (t : Word) : exec (.wakeSource e t) s = .next (s.onward (s.chip.wakeEvent e t)) := rfl

theorem exec_powerEntryComplete (s : State) : exec .powerEntryComplete s = .next (s.put s.chip.entryDone.pump) := rfl

/-- Settles O60: at AP4 a source is recorded and waits; a wake that waits begins the exit in whichever state step 6 ends. -/
theorem wakesAfterAp4Wait : Obligations.WakesAfterAp4Wait := by
  intro s e t hst
  refine ⟨fun hdue => ?waits, fun hdue hcalm => ?exits⟩
  case waits =>
    rw [exec_wakeSource, Chip.wakeEvent_eq]
    obtain ⟨p, hp, hap4, hgoal, hon⟩ := Chip.wake_waits (c := { s.chip with pwr := s.chip.pwr.sees e t }) (e := e)
      ((Pwr.sees_st t).trans hst) ((Pwr.sees_wakeDue t).trans hdue)
    exact ⟨p, by rw [hp], hap4, hgoal.trans (Pwr.sees_goal t), hon⟩
  case exits =>
    have hpump : s.chip.entryDone.pump = s.chip.atTarget.beginExit := by
      rw [Chip.entryDone_wakeDue hst hdue, Chip.pump_calmed (Chip.calmed_beginExit (Chip.calmed_atTarget hcalm))]
    rw [exec_powerEntryComplete, hpump]
    exact ⟨_, rfl, rfl, rfl, Chip.goal_beginExit.trans Chip.goal_atTarget⟩

end Sys2Proof.Machine
end

/-! The step law, and what every step keeps: the staging memory in its canonical form, the queue but for its front (O1 to O5). -/
section

namespace Sys2Proof.Machine

/-- Settles O1. -/
theorem stepRunsTheFrontCommand : Obligations.StepRunsTheFrontCommand := by
  intro s i rest h
  simp only [step, h]

/-- Settles O2. -/
theorem emptyQueueIdles : Obligations.EmptyQueueIdles := by
  intro s h
  simp only [step, h]

/-- On a calmed chip `onward` is the change of the chip. -/
theorem State.onward_calmed (s : State) {c : Chip} (h : c.calmed = true) : s.onward c = { s with chip := c } := by
  simp only [State.onward, State.settled, Chip.pump_calmed h]

/-- Settles O5. -/
theorem calmedSettles : Obligations.CalmedSettles := fun s _ h => s.onward_calmed h

/-! ### What an operation on the state keeps -/

/-- The queue stays, and so does the canonical form of the staging memory. -/
def State.Keeps (s t : State) : Prop := (s.sound = true → t.sound = true) ∧ t.pending = s.pending

variable {s t u : State}

theorem State.Keeps.refl (s : State) : s.Keeps s := ⟨id, rfl⟩

theorem State.Keeps.trans (h : s.Keeps t) (g : t.Keeps u) : s.Keeps u := ⟨g.1 ∘ h.1, g.2.trans h.2⟩

/-- A change of the chip alone. -/
theorem State.Keeps.chip (s : State) (c : Chip) : s.Keeps { s with chip := c } := ⟨id, rfl⟩

theorem State.Keeps.settled (h : s.Keeps t) : s.Keeps t.settled := h.trans (.chip _ _)

theorem State.Keeps.put (s : State) (c : Chip) : s.Keeps (s.put c) := by
  unfold State.put
  split
  · exact .chip _ _
  · exact ⟨fun _ => Memory.wf_nil, rfl⟩

/-- A store through FW_WINDOW stays inside the 80 pages of the staging memory (R37). -/
theorem State.Keeps.windowSet (s : State) (off : Nat) (v : Word) : s.Keeps (s.windowSet off v) := by
  unfold State.windowSet
  dsimp only
  split
  · exact .refl s
  · rename_i hin
    refine ⟨fun hs => Memory.wf_store hs ?_, rfl⟩
    rw [leBytes_length, stageSize]
    omega

theorem State.Keeps.setupWrite (s : State) (w : Writer) (off : Nat) (v : Word) : s.Keeps (s.setupWrite w off v) := by
  unfold State.setupWrite
  dsimp only
  refine (State.Keeps.chip s (if off = 0x5000 then s.chip else s.chip.spinBreak)).trans ?_
  generalize (if off = 0x5000 then s.chip else s.chip.spinBreak) = c
  split
  · exact .chip _ _
  · split
    · exact .refl _
    · split
      · exact .windowSet _ _ _
      · exact .put _ _

theorem State.Keeps.configWrite (s : State) (off : Nat) (v : Word) : s.Keeps (s.configWrite off v) := by
  unfold State.configWrite
  split
  · exact .chip _ _
  · split
    · exact .put _ _
    · exact .chip _ _

theorem State.Keeps.hostWord (s : State) (n : Fin 128) (bar off : Nat) (v : Word) : s.Keeps (s.hostWord n bar off v) := by
  unfold State.hostWord
  dsimp only
  split
  · split
    · exact .setupWrite _ _ _ _
    · split
      · split
        · exact .chip _ _
        · exact .refl s
      · exact .chip _ _
  · split
    · exact .chip _ _
    · exact .refl s
  · exact .chip _ _
  · exact .chip _ _
  · exact .configWrite _ _ _

theorem State.Keeps.hostWrite (s : State) (n : Fin 128) (bar off : Nat) (v : BitVec 64) (size : Nat) :
    s.Keeps (s.hostWrite n bar off v size) := by
  unfold State.hostWrite
  split
  · exact .refl s
  · split
    · exact .hostWord _ _ _ _ _
    · split
      · exact (State.Keeps.hostWord _ _ _ _ _).trans (.hostWord _ _ _ _ _)
      · exact .refl s

theorem State.Keeps.fielderStore (s : State) (f : Fin 12) (a : Nat) (v : Word) (size : Nat) : s.Keeps (s.fielderStore f a v size) := by
  unfold State.fielderStore
  dsimp only
  split
  · exact .refl s
  · split
    · exact .chip _ _
    · split
      · exact .chip _ _
      · split
        · exact .chip _ _
        · split
          · exact .refl s
          · split
            · exact .chip _ _
            · split
              · exact .setupWrite _ _ _ _
              · exact .chip _ _

theorem State.Keeps.fielderCsr (s : State) (f : Fin 12) (num : Nat) (v : Word) : s.Keeps (s.fielderCsr f num v) := by
  unfold State.fielderCsr
  dsimp only
  split
  · exact .refl s
  · split <;> exact .chip _ _

theorem State.Keeps.smbCore (s : State) {act : State → State} (h : s.Keeps (act s)) : s.Keeps (s.smbCore act) := by
  unfold State.smbCore
  split
  · exact h
  · exact .chip _ _

theorem State.Keeps.smbWrite (s : State) (off : BitVec 16) (v : Word) : s.Keeps (s.smbWrite off v) := by
  refine .smbCore s ?_
  split
  · exact .refl s
  · exact .setupWrite _ _ _ _

theorem State.Keeps.smbAddr (s : State) (off : BitVec 16) : s.Keeps (s.smbAddr off) := by
  refine .smbCore s ?_
  split <;> exact .chip _ _

theorem State.Keeps.smbRead (s : State) : s.Keeps s.smbRead := .smbCore s (.chip _ _)

theorem State.Keeps.smbEvt (s : State) : s.Keeps s.smbEvt := by
  refine .smbCore s ?_
  dsimp only
  split <;> exact .chip _ _

theorem State.Keeps.smbAlertAnswer (s : State) : s.Keeps s.smbAlertAnswer := .smbCore s (.chip _ _)

theorem State.Keeps.smbChecked {α : Type} (s : State) (v : Sent α) {act : α → State → State} (h : ∀ a, s.Keeps (act a s)) :
    s.Keeps (smbChecked State.smbBad v act s) := by
  cases v with
  | good a => exact h a
  | bad => exact .chip _ _

/-- A fetched image replaces the staging memory, cut to its size (R38). -/
theorem State.Keeps.fetchedStage (s : State) (r : ReadEnd) (image : List Byte) (c : Chip) :
    s.Keeps { s with stage := s.chip.fetchedStage s.stage r image, chip := c } := by
  refine ⟨fun hs => ?_, rfl⟩
  unfold State.sound Chip.fetchedStage
  split
  · refine Memory.wf_ofBytes ?_
    rw [List.length_take]
    omega
  · exact hs

/-! ### What every command keeps -/

/-- What `exec` may answer: a next state that keeps what is kept, or a stop for an address that does not exist. -/
def State.Answers (s : State) : Host.Outcome State Fault Refusal → Prop
  | .next t => s.Keeps t
  | .fault _ => True
  | .refused _ => False

theorem State.answers_act (s : State) (f : Chip → Chip) : s.Answers (.next (s.act f)) := .chip _ _

theorem State.answers_actReset (s : State) (f : Chip → Chip) : s.Answers (.next (s.actReset f)) := .put _ _

theorem State.answers_registerWrite (s : State) (w : Writer) (bar : BitVec 3) (off : Word) (val : BitVec 64) (size : Nat) :
    s.Answers (execRegisterWrite w bar off val size s) := by
  cases w with
  | fn n =>
    simp only [execRegisterWrite]
    split
    · trivial
    · exact (State.Keeps.hostWrite _ _ _ _ _ _).settled
  | smbus =>
    simp only [execRegisterWrite]
    split
    · trivial
    · refine State.Keeps.settled ?_
      split
      · exact .smbWrite _ _ _
      · exact .refl s
  | fielder f =>
    simp only [execRegisterWrite]
    refine State.Keeps.settled ?_
    split
    · exact .fielderCsr _ _ _ _
    · exact .fielderStore _ _ _ _ _

/-- Most commands change the chip alone; a few also reset it, write the staging memory or come over SMBus. -/
theorem exec_answers (i : Instr) (s : State) : s.Answers (exec i s) := by
  cases i with
  | powerOn | resetAssert | resetRelease | pwrgdInLow | pwrgdInRise | vddSlFall | chipReset | powerEntryComplete | thermalSample
  | smbEscape | escCmdWrite => exact s.answers_actReset _
  | fwFetchDone r image => exact .fetchedStage _ _ _ _
  | registerWrite w bar off val size => exact s.answers_registerWrite w bar off val size
  | smbRegWrite off val => exact (State.Keeps.smbChecked s val fun v => .smbWrite s off v).settled
  | smbRegAddr off => exact (State.Keeps.smbChecked s off fun off => .smbAddr s off).settled
  | smbRegRead => exact (State.Keeps.smbRead s).settled
  | smbEvtRead => exact (State.Keeps.smbEvt s).settled
  | smbAlertResponse => exact (State.Keeps.smbAlertAnswer s).settled
  | _ => exact s.answers_act _

/-- Settles O3: a step answers what the front command answers on the queue's rest. -/
theorem stepKeepsStagingCanonical : Obligations.StepKeepsStagingCanonical := by
  intro s hs
  cases hq : s.pending with
  | nil =>
    rw [emptyQueueIdles s hq]
    exact ⟨fun t ht => by cases ht; exact ⟨hs, hq⟩, fun r h => by cases h⟩
  | cons i rest =>
    rw [stepRunsTheFrontCommand s i rest hq]
    have ha := exec_answers i { s with pending := rest }
    refine ⟨fun t ht => ?_, fun r hr => ?_⟩
    · rw [ht] at ha
      exact ⟨ha.1 hs, ha.2⟩
    · rw [hr] at ha
      exact ha

/-- Settles O4. -/
theorem onlyBadAddressesStop : Obligations.OnlyBadAddressesStop := by
  intro i s r h
  cases i with
  | registerWrite w bar off val size =>
    replace h : execRegisterWrite w bar off val size s = .fault r := h
    cases w with
    | fn n =>
      simp only [execRegisterWrite] at h
      split at h
      case isTrue hbar => exact .inl ⟨n, bar, off, val, size, rfl, hbar⟩
      case isFalse => cases h
    | smbus =>
      simp only [execRegisterWrite] at h
      split at h
      case isTrue hbar => exact .inr ⟨bar, off, val, size, rfl, hbar⟩
      case isFalse => cases h
    | fielder f => cases h
  | _ => cases h

end Sys2Proof.Machine
end

/-! Postings (R68, R75, R76, R81, R82) and FW_WINDOW (R37). -/
section

namespace Sys2Proof.Machine

/-! ### Completion rings of one instance -/

theorem Inst.cring_updCring (x : Inst) (j k : Nat) (f : CRing → CRing) :
    (x.updCring k f).cring j = if j = k then f (x.cring k) else x.cring j :=
  Tbl.get_upd ({} : CRing) x.crings j k f

@[simp] theorem Inst.cring_updCring_same (x : Inst) (k : Nat) (f : CRing → CRing) : (x.updCring k f).cring k = f (x.cring k) :=
  Tbl.get_upd_same ({} : CRing) x.crings k f

theorem Inst.cring_updCring_other (x : Inst) {j k : Nat} (f : CRing → CRing) (h : j ≠ k) : (x.updCring k f).cring j = x.cring j := by
  rw [Inst.cring_updCring, if_neg h]

@[simp] theorem Inst.hud_updCring (x : Inst) (j k : Nat) (f : CRing → CRing) : (x.updCring k f).hud j = x.hud j := rfl

/-- A message touches no completion ring. -/
@[simp] theorem IW.cring_msix (w : IW) (n e k : Nat) : (w.msix n e).x.cring k = w.x.cring k := by
  unfold IW.msix
  split
  · rfl
  · split <;> rfl

/-- A message sends what it sends after what was sent before. -/
theorem IW.out_msix (w : IW) (n e : Nat) : ∃ l, (w.msix n e).out = l ++ w.out := by
  unfold IW.msix
  split
  · exact ⟨[], rfl⟩
  · split
    · exact ⟨[], rfl⟩
    · exact ⟨[.msix n e], rfl⟩

/-! ### Huddle -/

/-- What a decision leaves of its own ring (R82, R446): the count and the timer reset, and one more confirming read. -/
def CRing.decided (r : CRing) : CRing := { r with count := 0, timer := false, due := false, reads := r.reads ++ [r.lastAddr] }

theorem IW.cring_decision (w : IW) (n k j : Nat) :
    (w.decision n k).x.cring j = if j = k then (w.x.cring k).decided else w.x.cring j := by
  unfold IW.decision
  dsimp only [IW.emit]
  split
  · exact Inst.cring_updCring _ _ _ _
  · rw [IW.cring_msix]
    exact Inst.cring_updCring _ _ _ _

/-- A decision ends with the read of R446. -/
theorem IW.out_decision (w : IW) (n k : Nat) : ∃ l, (w.decision n k).out = .hostRead n (w.x.cring k).lastAddr 16 :: (l ++ w.out) := by
  unfold IW.decision
  dsimp only [IW.emit]
  split
  · exact ⟨[], rfl⟩
  · obtain ⟨l, hl⟩ := IW.out_msix { w with x := w.x.updCring k CRing.decided } n (w.x.cring k).vector
    exact ⟨l, congrArg _ hl⟩

/-- What counting leaves of the ring before the decision. -/
def CRing.counted (r : CRing) : CRing := { r with count := r.count + 1, timer := true }

theorem IW.count_below (w : IW) {n k : Nat} {urgent : Bool} (hcount : (w.x.cring k).count + 1 < (w.x.hud k).count.toNat)
    (hurgent : (urgent && (w.x.hud k).urgent) = false) :
    w.count n k urgent = { w with x := w.x.updCring k CRing.counted } := by
  unfold IW.count
  simp only [Inst.cring_updCring_same, hurgent, Bool.or_false, decide_eq_true_eq]
  exact if_neg (by omega)

theorem IW.count_decides (w : IW) {n k : Nat} {urgent : Bool}
    (h : (w.x.hud k).count.toNat ≤ (w.x.cring k).count + 1 ∨ (urgent && (w.x.hud k).urgent) = true) :
    w.count n k urgent = IW.decision { w with x := w.x.updCring k CRing.counted } n k := by
  unfold IW.count
  simp only [Inst.cring_updCring_same, Bool.or_eq_true, decide_eq_true_eq]
  exact if_pos h

/-- Counting, with its decision or without, changes one ring's count, timer and confirming reads. -/
theorem IW.count_cring (w : IW) (n k : Nat) (urgent : Bool) :
    (∀ j, j ≠ k → (w.count n k urgent).x.cring j = w.x.cring j)
    ∧ ∃ a b d l, (w.count n k urgent).x.cring k = { w.x.cring k with count := a, timer := b, due := d, reads := l } := by
  unfold IW.count
  dsimp only
  split
  · refine ⟨fun j hj => ?_, ?_⟩
    · rw [IW.cring_decision, if_neg hj]
      exact Inst.cring_updCring_other _ _ hj
    · rw [IW.cring_decision, if_pos rfl, Inst.cring_updCring_same]
      exact ⟨_, _, _, _, rfl⟩
  · refine ⟨fun j hj => Inst.cring_updCring_other _ _ hj, ?_⟩
    rw [Inst.cring_updCring_same]
    exact ⟨_, _, _, _, rfl⟩

theorem IW.out_count (w : IW) (n k : Nat) (urgent : Bool) : ∃ l, (w.count n k urgent).out = l ++ w.out := by
  unfold IW.count
  dsimp only
  split
  · obtain ⟨l, hl⟩ := IW.out_decision { w with x := w.x.updCring k CRing.counted } n k
    exact ⟨_ :: l, hl⟩
  · exact ⟨[], rfl⟩

/-- Settles O25: below COUNT and not urgent the record is counted, and otherwise the decision follows. -/
theorem huddleCountsOrDecides : Obligations.HuddleCountsOrDecides := by
  intro w n k urgent r t
  refine ⟨fun hcount hurgent => ?counts, fun h => ?decides⟩
  case counts =>
    simp only [t, IW.count_below w hcount hurgent, and_true]
    exact Inst.cring_updCring_same _ _ _
  case decides =>
    obtain ⟨l, hl⟩ := IW.out_decision { w with x := w.x.updCring k CRing.counted } n k
    have ht : t = r.counted.decided := by
      simp only [t, IW.count_decides w h, IW.cring_decision, if_true, Inst.cring_updCring_same, r]
    rw [ht, IW.count_decides w h, hl, Inst.cring_updCring_same]
    exact ⟨rfl, rfl, rfl, rfl, rfl⟩

/-! ### Records -/

/-- The producer after a record: advanced with wrap, and the phase flipped at the wrap (R75). -/
def CRing.advanced (r : CRing) : CRing :=
  { r with prod := (r.prod + 1) % r.size, phase := if r.prod + 1 = r.size then !r.phase else r.phase }

/-- A record that is written: its ring's producer advances, no other ring changes, and the record is sent before what counting it
sends. -/
theorem IW.put_native (w : IW) (n k : Nat) (mf : BitVec 16) (b : Rec) (hc : w.x.compat = false) :
    let v := b.native w.x.gen mf (w.x.cring k).phase
    (∀ j, j ≠ k → (w.put n k mf b).x.cring j = w.x.cring j)
    ∧ (∃ a t d l, (w.put n k mf b).x.cring k = { (w.x.cring k).advanced with count := a, timer := t, due := d, reads := l })
    ∧ ∃ l, (w.put n k mf b).out = l ++ .record n k (w.x.cring k).prod v.1 v.2.1 v.2.2.1 v.2.2.2 :: w.out := by
  have hput : w.put n k mf b = IW.count
      { w with
        x := w.x.updCring k CRing.advanced
        out := .record n k (w.x.cring k).prod (b.native w.x.gen mf (w.x.cring k).phase).1
          (b.native w.x.gen mf (w.x.cring k).phase).2.1 (b.native w.x.gen mf (w.x.cring k).phase).2.2.1
          (b.native w.x.gen mf (w.x.cring k).phase).2.2.2 :: w.out }
      n k (b.isEvent || b.isCommand) := by
    simp only [IW.put, hc, Bool.false_and]
    rfl
  obtain ⟨hother, a, t, d, l, hsame⟩ := IW.count_cring { w with
        x := w.x.updCring k CRing.advanced
        out := .record n k (w.x.cring k).prod (b.native w.x.gen mf (w.x.cring k).phase).1
          (b.native w.x.gen mf (w.x.cring k).phase).2.1 (b.native w.x.gen mf (w.x.cring k).phase).2.2.1
          (b.native w.x.gen mf (w.x.cring k).phase).2.2.2 :: w.out } n k (b.isEvent || b.isCommand)
  rw [hput]
  refine ⟨fun j hj => (hother j hj).trans (Inst.cring_updCring_other _ _ hj), ⟨a, t, d, l, ?_⟩, IW.out_count _ _ _ _⟩
  rw [hsame, Inst.cring_updCring_same]

/-- A posting to a ring of an instance of this node that hears. -/
theorem Chip.post_eq (c : Chip) {n k : Nat} (h : Held) (hn : n < 128) (hdeaf : (c.inst n).deaf = false)
    (hring : (c.inst n).ringFor k = k) : c.post n k h = c.onInst n (fun w => w.post n k c.mf h) := by
  unfold Chip.post Chip.onInst
  rw [if_neg (by omega)]
  simp only [hdeaf, hring, Bool.false_eq_true, if_false]

theorem Inst.ringFor_live {x : Inst} {k : Nat} (h : (x.cring k).live = true) : x.ringFor k = k := if_pos h

theorem Inst.deaf_active {x : Inst} (h : x.st = .active) : x.deaf = false := by simp [Inst.deaf, h]

theorem Chip.inst_onInst_same (c : Chip) (n : Nat) (f : IW → IW) :
    (c.onInst n f).inst n = (f { x := c.inst n, out := c.out, free := c.free }).x := Tbl.get_set_same _ _ _ _

theorem Chip.inst_onInst_other (c : Chip) {m n : Nat} (f : IW → IW) (h : m ≠ n) : (c.onInst n f).inst m = c.inst m :=
  Tbl.get_set_other _ _ _ h

/-- With room on its ring, and nothing waiting ahead, a record is written at once (R75). -/
theorem IW.post_takes (w : IW) {n k : Nat} (mf : BitVec 16) (h : Held) (hc : w.x.compat = false)
    (htakes : (w.x.cring k).takes = true) (hheld : (w.x.cring k).held = []) (hovf : k = 0 → w.x.ovfDue = false) :
    w.post n k mf h = w.put n k mf h.body := by
  have hdue : (k == 0 && w.x.ovfDue) = false := by
    by_cases hk : k = 0
    · simp [hovf hk]
    · simp [hk]
  simp [IW.post, hc, htakes, hheld, hdue]

/-- Without room, a record that is no event waits (R76). -/
theorem IW.post_waits (w : IW) {n k : Nat} (mf : BitVec 16) (h : Held) (hc : w.x.compat = false)
    (htakes : (w.x.cring k).takes = false) (hev : h.body.isEvent = false) :
    w.post n k mf h = { w with x := w.x.updCring k (fun r => { r with held := r.held ++ [h] }) } := by
  simp [IW.post, IW.hold, hc, htakes, hev]

/-- Settles O24: a ring with room gets the record, one without keeps it waiting. -/
theorem recordsArePostedOrHeld : Obligations.RecordsArePostedOrHeld := by
  refine ⟨?posted, fun c n k h hn hst hc hlive htakes hev => ?waits⟩
  case posted =>
    intro c n k h hn hst hc r htakes hheld hovf d w
    have hlive : r.live = true := by
      simp only [CRing.takes, Bool.and_eq_true] at htakes
      exact htakes.1.1
    obtain ⟨hother, ⟨a, t, du, l, hsame⟩, hout⟩ :=
      IW.put_native { x := c.inst n, out := c.out, free := c.free } n k c.mf h.body hc
    have hd : d = c.onInst n (fun w => w.post n k c.mf h) :=
      c.post_eq h hn (Inst.deaf_active hst) (Inst.ringFor_live hlive)
    have hx : d.inst n = (IW.put { x := c.inst n, out := c.out, free := c.free } n k c.mf h.body).x := by
      rw [hd, Chip.inst_onInst_same, IW.post_takes _ _ _ hc htakes hheld hovf]
    have ho : d.out = (IW.put { x := c.inst n, out := c.out, free := c.free } n k c.mf h.body).out := by
      rw [hd, ← IW.post_takes _ _ _ hc htakes hheld hovf]
      rfl
    rw [hx, ho, hsame]
    refine ⟨rfl, rfl, rfl, hheld, hout, hother, fun m hm => ?_, ?_, ?_, ?_⟩
    · rw [hd, Chip.inst_onInst_other _ _ hm]
    all_goals rw [hd]; rfl
  case waits =>
    rw [c.post_eq h hn (Inst.deaf_active hst) (Inst.ringFor_live hlive), Chip.onInst, IW.post_waits _ _ _ hc htakes hev]
    rfl

/-! ### FW_WINDOW -/

theorem leBytes_getD (w n k : Nat) (hk : k < w) : (leBytes w n).getD k 0 = BitVec.ofNat 8 (n / 256 ^ k) := by
  induction w generalizing n k with
  | zero => omega
  | succ w ih =>
    cases k with
    | zero => simp [leBytes]
    | succ k =>
      rw [leBytes, List.getD_cons_succ, ih (n / 256) k (by omega), Nat.div_div_eq_div_mul, Nat.pow_succ, Nat.mul_comm]

/-- The word that a write of FW_WINDOW stores, where the loader is idle and the page is one of the 80. -/
theorem State.windowSet_idle (s : State) (off : Nat) (v : Word) (hb : s.chip.fw.busy = false) (hp : s.chip.fw.winPage.toNat < 80) :
    s.windowSet off v = { s with
      stage := s.stage.store (s.chip.fw.winPage.toNat * 16384 + off % 16384 / 4 * 4) (leBytes 4 v.toNat)
      chip := { s.chip with fw := { s.chip.fw with staged := false, halted := false } } } := by
  unfold State.windowSet
  rw [if_neg]
  simp [hb]
  omega

theorem exec_registerWrite_fn (s : State) (n : Fin 128) (bar : BitVec 3) (off : Word) (val : BitVec 64) (size : Nat)
    (h : off.toNat < s.chip.barSize n.val bar.toNat) :
    exec (.registerWrite (.fn n) bar off val size) s = .next (s.hostWrite n bar.toNat off.toNat val size).settled :=
  if_neg (by omega)

/-- The manager's write in FW_WINDOW reaches the staging memory, and ends the sequence of SPIN_KEY (R419). -/
theorem State.setupWrite_window (s : State) (w : Writer) {off : Nat} (v : Word) (hm : s.chip.isMgr w = true) (hlo : 0x8000 ≤ off)
    (hhi : off < 0xC000) : s.setupWrite w off v = ({ s with chip := s.chip.spinBreak } : State).windowSet (off - 0x8000) v := by
  unfold State.setupWrite
  have hm' : s.chip.spinBreak.isMgr w = true := hm
  simp only [show off ≠ 0x5000 by omega, if_false, show ¬ 0xC000 ≤ off by omega, hm', Bool.not_true, Bool.false_eq_true, hlo, if_true]

/-- Settles O23: the write stores the word's four bytes at the window's page and offset. -/
theorem fwWindowStoresOneWord : Obligations.FwWindowStoresOneWord := by
  intro s off val hm hb hp hlo hhi hal base
  have hbase : s.chip.fw.winPage.toNat * 16384 + (off.toNat - 0x8000) % 16384 / 4 * 4 = base := by
    simp only [base]
    omega
  have hlen : base + (leBytes 4 val.toNat).length = base + 4 := by rw [leBytes_length]
  refine ⟨s.stage.store base (leBytes 4 val.toNat), ?_, fun k hk => ?_, fun a ha => ?_, fun hwf => ?_⟩
  · have hbar : off.toNat < s.chip.barSize (0 : Fin 128).val (0 : BitVec 3).toNat := by
      show off.toNat < 0x10000
      omega
    have hword : s.hostWord 0 (0 : BitVec 3).toNat off.toNat val = s.setupWrite (.fn 0) off.toNat val := rfl
    rw [exec_registerWrite_fn _ _ _ _ _ _ hbar, State.hostWrite_word _ _ _ _ _ hal, hword, State.setupWrite_window _ _ _ hm hlo hhi,
      State.windowSet_idle _ _ _ (by exact hb) (by exact hp)]
    simp only [Chip.spinBreak_fw, hbase]
    rfl
  · rw [Memory.byte_store, if_pos (by rw [hlen]; omega), show base + k - base = k by omega, leBytes_getD _ _ _ hk]
  · rw [Memory.byte_store, if_neg (by rw [hlen]; omega)]
  · refine Memory.wf_store hwf ?_
    rw [hlen]
    simp only [base, stageSize]
    omega

end Sys2Proof.Machine
end

/-! Instance resets on a node without devices (R250), and reports to the manager and to a port's owner (R72, R116). -/
section

namespace Sys2Proof.Machine

variable {c : Chip} {n : Nat}

/-! ### A node without devices -/

theorem Chip.ownSlots_nil (h : c.slots = []) : c.ownSlots n = [] := by simp [Chip.ownSlots, h]
theorem Chip.resetSlots_nil (h : c.slots = []) : c.resetSlots n = [] := by simp [Chip.resetSlots, Chip.ownSlots_nil h]
theorem Chip.sharedWith_nil (h : c.slots = []) : c.sharedWith n = [] := by simp [Chip.sharedWith, h]
theorem Chip.farNodes_nil (h : c.slots = []) : c.farNodes n = [] := by simp [Chip.farNodes, h]
theorem Chip.kickAll_nil (h : c.slots = []) : c.kickAll = c := by simp [Chip.kickAll, h, dedup]

/-- Where no transaction carries the next generation, the bump takes effect at once (R249). -/
theorem Chip.bumpGen_now (hdue : (c.inst n).genDue = 0) (hfree : c.genCarried n ((c.inst n).gen + 1) = false) :
    c.bumpGen n = c.updInst n (fun x => { x with gen := x.gen + 1 }) := by
  simp only [Chip.bumpGen, Chip.payGen, Chip.inst_updInst_same, hdue]
  rw [if_pos (by simpa [Chip.genCarried] using hfree), Chip.updInst_updInst]
  exact Chip.updInst_congr _ _ _ _ (by simp [hdue])

theorem Chip.genCarried_nil (h : c.eps = []) (g : BitVec 8) : c.genCarried n g = false := by simp [Chip.genCarried, h]

/-- Without devices only the commands and what waits for them go. -/
theorem Chip.endCmds_nil (h : c.slots = []) : c.endCmds n =
    { c.updInst n (fun x => { x with cmds := [], cmdDead := x.cmdDead + x.cmdReads, cmdReads := 0 }) with
      waits := c.waits.filter (fun w => !w.cont.ofInst n) } := by
  simp [Chip.endCmds, Chip.ownSlots_nil h]

theorem Chip.dropAll_nil (h : c.slots = []) : c.dropAll n = c.updInst n Inst.resetChans := by
  have hs : (c.updInst n Inst.resetChans).slots = [] := h
  simp [Chip.dropAll, Chip.sharedWith_nil hs, Chip.resetSlots_nil hs, Chip.farNodes_nil hs, Chip.kickAll_nil hs]

theorem Chip.resetWork_nil (h : c.slots = []) (hw : c.waits = []) :
    c.resetWork n = { c with waits := [{ posted := false, gens := [n], cont := .instReset n }] } := by
  simp [Chip.resetWork, Chip.resetSlots_nil h, Chip.wait, hw]

theorem Chip.roleDown_none (h : c.rel.suspended = 0) (k : Nat) : c.roleDown k = false := by
  simp [Chip.roleDown, h]

/-- Settles O11: nothing of a device is to be settled, so each part of R250 changes the instance alone. -/
theorem startResetBumpsGeneration : Obligations.StartResetBumpsGeneration := by
  intro c n back hs he hw hrel hdue d
  have hbump : (c.updInst n (fun x => { x with st := .resetting, back := back, escalated := false })).bumpGen n
      = (c.updInst n (fun x => { x with st := .resetting, back := back, escalated := false })).updInst n
        (fun x => { x with gen := x.gen + 1 }) :=
    Chip.bumpGen_now (by simpa using hdue) (Chip.genCarried_nil he _)
  have hdrop : ((((c.updInst n (fun x => { x with st := .resetting, back := back, escalated := false })).bumpGen n).endCmds n).dropAll n)
      = { d with waits := [] } := by
    rw [hbump, Chip.endCmds_nil (by exact hs), Chip.dropAll_nil (by exact hs)]
    simp only [Chip.updInst_updInst, Chip.updInst_waits, hw, List.filter_nil]
    simp only [d, Chip.updInst, Tbl.upd, Tbl.set_set, Tbl.get_set_same]
    rfl
  have hd : ({ d with waits := [] } : Chip) = d := by
    simp only [d, Chip.updInst, hw]
  have hrole : d.roleDown 80 = false := Chip.roleDown_none hrel 80
  unfold Chip.startReset
  simp only [hdrop, hd, hrole, Bool.not_false, Bool.and_true]
  rw [Chip.resetWork_nil (by exact hs) (by exact hw)]
  rfl

/-! ### Reports -/

/-- Settles O12. -/
theorem managerCompletionReports : Obligations.ManagerCompletionReports := by
  intro c code r hbusy hie
  simp [Chip.mgrDone, hbusy, hie]

theorem Chip.ownerOf_nobody {p : Nat} (hfar : (c.port p).farOwner = none) (h : (c.port p).owner = nobody) : c.ownerOf p = none := by
  simp [Chip.ownerOf, hfar, h]

theorem Chip.ownerOf_some {p : Nat} (hfar : (c.port p).farOwner = none) (h : (c.port p).owner ≠ nobody) :
    c.ownerOf p = some (c.port p).owner.toNat := by
  simp [Chip.ownerOf, hfar, h]

/-- The status of a port does not show which of its changes are unread. -/
theorem Chip.portStatus_chg (c : Chip) (p : Nat) (f : BitVec 7 → BitVec 7) (cause : BitVec 4) (hp : p < 24) :
    (c.updPort p (fun q => { q with chg := f q.chg })).portStatus p cause = c.portStatus p cause := by
  simp only [Chip.portStatus, busPort, hp, if_true, Chip.port_updPort_same]
  rfl

/-- Settles O32: the hub does not hold the port, so the event goes to its owner, where there is one. -/
theorem portChangeTellsTheOwner : Obligations.PortChangeTellsTheOwner := by
  intro c p bits cause hp hpass hfar d
  have hport : d.port p = { c.port p with chg := (c.port p).chg ||| statChg bits } := Chip.port_updPort_same _ _ _
  have hfar' : (d.port p).farOwner = none := by rw [hport]; exact hfar
  have howner : (d.port p).owner = (c.port p).owner := by rw [hport]
  have hbus : busPort p = p := if_pos hp
  have hchange : c.portChange p bits cause = match d.ownerOf p with
      | none => d
      | some n => d.event n evPortChange (d.subject p) (toWord bits) (toWord (d.portStatus p cause)) := by
    have hp' : (d.port p).pass = false := by rw [hport]; exact hpass
    simp only [Chip.portChange, if_pos hp, hbus]
    rw [show c.updPort p (fun q => { q with chg := q.chg ||| statChg bits }) = d from rfl, hp']
    rfl
  rw [hchange]
  refine ⟨fun h => ?nobody, fun h => ?owned⟩
  case nobody =>
    rw [Chip.ownerOf_nobody hfar' (howner.trans h)]
  case owned =>
    rw [Chip.ownerOf_some hfar' (howner ▸ h), howner]
    have hstatus : d.portStatus p cause = c.portStatus p cause := Chip.portStatus_chg c p (· ||| statChg bits) cause hp
    have hsubject : d.subject p = BitVec.ofNat 16 (p + 2 ^ 8 * c.nodeNo) := by
      simp only [Chip.subject, busCode, if_pos hp]
      rfl
    simp only [hstatus, hsubject]

end Sys2Proof.Machine
end

/-! Port power after a trip (R221), the refuser of a scrum (R376), and the numbers of a fabric's nodes (R351). -/
section

namespace Sys2Proof.Machine

variable {c : Chip}

/-! ### A trip -/

/-- Updates of several ports, each by a change of its own, leave each port changed once. -/
theorem Chip.port_foldl {f : Chip → Nat → Chip} {g : Port → Port} (h : ∀ (c : Chip) (p j : Nat), (f c p).port j
    = if j = p then g (c.port p) else c.port j) (l : List Nat) (hl : l.Nodup) (c : Chip) (j : Nat) :
    (l.foldl f c).port j = if j ∈ l then g (c.port j) else c.port j := by
  induction l generalizing c with
  | nil => rfl
  | cons p t ih =>
    obtain ⟨hp, ht⟩ := List.nodup_cons.1 hl
    rw [List.foldl_cons, ih ht, h]
    by_cases hj : j = p
    · subst hj
      simp [hp]
    · simp [hj]

theorem Chip.port_setOc (c : Chip) (p : Nat) (on : Bool) (j : Nat) :
    (c.setOc p on).port j
      = if j = p then (if (c.port p).oc = on then c.port p else { c.port p with oc := on, chg := (c.port p).chg ||| 32 })
        else c.port j := by
  unfold Chip.setOc
  by_cases hoc : (c.port p).oc = on
  · simp only [if_pos hoc]
    split
    case isTrue hj => rw [hj]
    case isFalse => rfl
  · simp only [if_neg hoc]
    split <;> exact Chip.port_updPort c j p (fun x => { x with oc := on, chg := x.chg ||| 32 })

/-- What a trip makes of a port of its gang. -/
def Port.overCurrent (x : Port) : Port :=
  { x with oc := true, chg := if x.oc then x.chg else x.chg ||| 32, cycle := none, noAuto := x.noAuto || x.cycle.isSome }

/-- What it makes of one that was powered. -/
def Port.switchedOff (x : Port) : Port := { x with trips := x.trips + 1, powered := false, noAuto := true }

theorem Chip.nodup_gang (c : Chip) (n : Nat) : (c.gang n).Nodup := List.nodup_range.filter _

/-- What a trip does for one port of the gang, and for one that was powered. -/
def Chip.tripOne (c : Chip) (p : Nat) : Chip :=
  (c.setOc p true).updPort p (fun x => { x with cycle := none, noAuto := x.noAuto || x.cycle.isSome })
def Chip.offOne (c : Chip) (p : Nat) : Chip := c.updPort p Port.switchedOff

theorem Chip.port_tripOne (c : Chip) (p j : Nat) : (c.tripOne p).port j = if j = p then (c.port p).overCurrent else c.port j := by
  rw [Chip.tripOne, Chip.port_updPort, Chip.port_setOc, Chip.port_setOc]
  by_cases hj : j = p
  · simp only [hj, if_true, Port.overCurrent]
    cases hoc : (c.port p).oc <;> simp [hoc]
  · simp only [hj, if_false]

theorem Chip.port_offOne (c : Chip) (p j : Nat) : (c.offOne p).port j = if j = p then (c.port p).switchedOff else c.port j :=
  Chip.port_updPort c j p _

theorem Chip.nodup_tripOff (c : Chip) (n : Nat) : (c.tripOff n).Nodup := (c.nodup_gang n).filter _

theorem Chip.port_tripPower_fold (c : Chip) {n p : Nat} (hp : p ≠ n) :
    (c.tripPower n).port p = ((c.tripOff n).foldl Chip.offOne ((c.gang n).foldl Chip.tripOne c)).port p := by
  rw [show (c.tripPower n).port p = (((c.tripOff n).foldl Chip.offOne ((c.gang n).foldl Chip.tripOne c)).updPort n
    (fun x => { x with tripped := true, deglitch := false })).port p from rfl, Chip.port_updPort, if_neg hp]

/-- A trip leaves of any port but that of the ball itself what its gang says. -/
theorem Chip.port_tripPower (c : Chip) {n p : Nat} (hp : p ≠ n) :
    (c.tripPower n).port p = if p ∈ c.tripOff n then (c.port p).overCurrent.switchedOff
      else if p ∈ c.gang n then (c.port p).overCurrent else c.port p := by
  rw [Chip.port_tripPower_fold c hp, Chip.port_foldl Chip.port_offOne _ (c.nodup_tripOff n),
    Chip.port_foldl Chip.port_tripOne _ (c.nodup_gang n)]
  by_cases ho : p ∈ c.tripOff n
  · simp only [ho, List.mem_of_mem_filter ho, if_true]
  · simp only [ho, if_false]

/-- Settles O34. -/
theorem tripSwitchesTheGangOff : Obligations.TripSwitchesTheGangOff := by
  intro c n p hp d
  have hd := c.port_tripPower hp
  refine ⟨fun hg => ?gang, fun ho => ?off, fun hg => ?other⟩
  case gang =>
    simp only [d, hd, hg, if_true]
    split <;> exact ⟨rfl, rfl⟩
  case off =>
    have hg : p ∈ c.gang n := List.mem_of_mem_filter ho
    simp only [d, hd, hg, ho, if_true]
    exact ⟨rfl, rfl, rfl⟩
  case other =>
    have ho : p ∉ c.tripOff n := fun ho => hg (List.mem_of_mem_filter ho)
    simp only [d, hd, hg, ho, if_false]

/-! ### The refuser of a scrum -/

/-- The least of a list of block IDs, as a scrum finds it. -/
def leastBlock (l : List Nat) : Option Nat :=
  l.foldl (fun m b => some (match m with
    | some k => min k b
    | none => b)) none

theorem leastBlock_cons (b : Nat) (l : List Nat) : leastBlock (b :: l) = some (l.foldl min b) := by
  have hfold : ∀ (l : List Nat) (b : Nat), l.foldl (fun m b => some (match m with
      | some k => min k b
      | none => b)) (some b) = some (l.foldl min b) := by
    intro l
    induction l with
    | nil => exact fun _ => rfl
    | cons x t ih => exact fun b => ih (min b x)
  exact hfold l b

theorem leastBlock_eq_none {l : List Nat} : leastBlock l = none ↔ l = [] := by
  cases l with
  | nil => exact iff_of_true rfl rfl
  | cons b t => simp [leastBlock_cons]

theorem foldl_min_mem (l : List Nat) (b : Nat) : l.foldl min b ∈ b :: l ∧ ∀ x ∈ b :: l, l.foldl min b ≤ x := by
  induction l generalizing b with
  | nil => simp
  | cons y t ih =>
    obtain ⟨hmem, hle⟩ := ih (min b y)
    refine ⟨?_, fun x hx => ?_⟩
    · rcases List.mem_cons.1 hmem with h | h
      · rw [List.foldl_cons, h]
        rcases Nat.le_total b y with hby | hby
        · simp [Nat.min_eq_left hby]
        · simp [Nat.min_eq_right hby]
      · exact List.mem_cons_of_mem _ (List.mem_cons_of_mem _ h)
    · have hmin := hle (min b y) (by simp)
      rw [List.foldl_cons]
      rcases List.mem_cons.1 hx with rfl | hx
      · exact hmin.trans (Nat.min_le_left _ _)
      · rcases List.mem_cons.1 hx with rfl | hx
        · exact hmin.trans (Nat.min_le_right _ _)
        · exact hle x (List.mem_cons_of_mem _ hx)

theorem leastBlock_eq_some {l : List Nat} {b : Nat} (h : leastBlock l = some b) : b ∈ l ∧ ∀ x ∈ l, b ≤ x := by
  cases l with
  | nil => cases h
  | cons a t =>
    rw [leastBlock_cons] at h
    cases h
    exact foldl_min_mem t a

theorem Chip.refusal1_eq (c : Chip) : c.refusal1 = leastBlock ((c.spin.forced 1).toList ++ c.refusing c.pwr.goal) := rfl

theorem Chip.refusal2_eq (c : Chip) (k : Nat) : ∃ l : List Nat, c.refusal2 k = leastBlock (l.filter (fun b => stopStep b == k)) :=
  ⟨_, rfl⟩

/-- Settles O48. -/
theorem scrumNamesTheLowestBlock : Obligations.ScrumNamesTheLowestBlock := by
  intro c all
  refine ⟨?none, fun b hb => ?named, fun k b hb => ?step⟩
  case none => rw [Chip.refusal1_eq, leastBlock_eq_none]
  case named =>
    rw [Chip.refusal1_eq] at hb
    exact leastBlock_eq_some hb
  case step =>
    obtain ⟨l, hl⟩ := c.refusal2_eq k
    rw [hl] at hb
    simpa using (List.mem_filter.1 (leastBlock_eq_some hb).1).2

/-! ### The numbers of a fabric's nodes -/

theorem mem_insUid {u v : BitVec 64} {l : List (BitVec 64)} : v ∈ insUid u l ↔ v = u ∨ v ∈ l := by
  induction l with
  | nil => simp [insUid]
  | cons w t ih =>
    unfold insUid
    split
    · simp
    · split
      case isTrue h => simp [h]
      case isFalse => simp only [List.mem_cons, ih]; tauto

theorem mem_foldr_insUid {v : BitVec 64} {l : List (BitVec 64)} : v ∈ l.foldr insUid [] ↔ v ∈ l := by
  induction l with
  | nil => simp
  | cons u t ih => simp [mem_insUid, ih]

theorem leastFree_spec {p : Nat → Bool} {k n j : Nat} (h : leastFree p k n = some j) : p j = true := by
  induction n generalizing k with
  | zero => cases h
  | succ n ih =>
    unfold leastFree at h
    split at h
    case isTrue hp => cases h; exact hp
    case isFalse => exact ih h

/-- A new node's number is one that no member has (R351). -/
theorem newNumber_free {taken : List (BitVec 4 × BitVec 64)} {x : NodeInfo} {k : BitVec 4} (h : newNumber taken x = some k) :
    k ∉ taken.map (fun m => m.1) := by
  have hfree : taken.all (fun m => m.1 != k) = true := by
    unfold newNumber at h
    dsimp only at h
    split at h
    case h_1 k' hk =>
      cases h
      rcases Option.or_eq_some_iff.1 hk with hnode | ⟨_, hpref⟩
      · exact (Option.filter_eq_some_iff.1 hnode).2
      · have := (Option.filter_eq_some_iff.1 hpref).2
        rw [Bool.and_eq_true] at this
        exact this.1
    case h_2 =>
      obtain ⟨j, hj, rfl⟩ := Option.map_eq_some_iff.1 h
      exact leastFree_spec hj
  intro hmem
  obtain ⟨m, hm, rfl⟩ := List.mem_map.1 hmem
  simpa using List.all_eq_true.1 hfree m hm

/-- The distribution after the captain has numbered one more node. -/
def numberNode (info : BitVec 64 → NodeInfo) (l : List (BitVec 4 × BitVec 64)) (u : BitVec 64) : List (BitVec 4 × BitVec 64) :=
  match newNumber l (info u) with
  | some k => l ++ [(k, u)]
  | none => l

/-- Numbering further nodes keeps the numbers distinct and every member its own. -/
theorem foldl_numberNode (info : BitVec 64 → NodeInfo) (us : List (BitVec 64)) (l : List (BitVec 4 × BitVec 64))
    (h : (l.map (fun m => m.1)).Nodup) :
    ((us.foldl (numberNode info) l).map (fun m => m.1)).Nodup ∧ ∀ m ∈ l, m ∈ us.foldl (numberNode info) l := by
  induction us generalizing l with
  | nil => exact ⟨h, fun _ hm => hm⟩
  | cons u t ih =>
    rw [List.foldl_cons]
    have hone : ((numberNode info l u).map (fun m => m.1)).Nodup ∧ ∀ m ∈ l, m ∈ numberNode info l u := by
      unfold numberNode
      split
      case h_1 k hk =>
        refine ⟨?_, fun m hm => List.mem_append_left _ hm⟩
        rw [List.map_append]
        exact List.nodup_append.2 ⟨h, by simp, fun a ha b hb => by
          rw [List.map_singleton, List.mem_singleton] at hb
          subst hb; exact fun e => newNumber_free hk (e ▸ ha)⟩
      case h_2 => exact ⟨h, fun _ hm => hm⟩
    obtain ⟨hnodup, hmem⟩ := ih _ hone.1
    exact ⟨hnodup, fun m hm => hmem m (hone.2 m hm)⟩

/-- Frames of a port leave the distribution that waits to be installed. -/
theorem Chip.install_drainFab (c : Chip) (p f : Nat) : (c.drainFab p f).fab.install = c.fab.install := by
  induction f generalizing c with
  | zero => rfl
  | succ f ih =>
    rw [Chip.drainFab]
    split
    · rfl
    · exact ih _

theorem Chip.install_protoTo (c : Chip) (ps : List Nat) (msg val : Nat) : (c.protoTo ps msg val).fab.install = c.fab.install := by
  refine List.foldlRecOn (motive := fun d => d.fab.install = c.fab.install) _ _ rfl fun (d : Chip) hd p _ => ?_
  split
  · exact (Chip.install_drainFab _ _ _).trans hd
  · exact hd

/-- The numbers that this node keeps, itself first. -/
def Chip.keptNumbers (c : Chip) (reach : List (BitVec 64)) : List (BitVec 4 × BitVec 64) :=
  (if c.fab.valid then c.fab.node else 0, Config.uid) :: c.fab.members.filter (fun m => m.2 != Config.uid && reach.contains m.2)

/-- The captain's distribution: the numbers kept, and one more for each other node that it reaches. -/
theorem Chip.install_plan (c : Chip) :
    let d := c.setInfo Config.uid c.ownInfo
    let reach := (d.outward 0 ++ d.outward 1).foldr insUid []
    ∃ (self : BitVec 4) (new : List (BitVec 64)) (routes : List (BitVec 4 × BitVec 2 × BitVec 4 × BitVec 2 × BitVec 4)),
      c.plan.fab.install = some (.install self self Config.uid (new.foldl (numberNode d.nodeInfo) (c.keptNumbers reach)) routes
        (c.fab.topo + 1) (c.mf + 2)) := by
  intro d reach
  have hproto (b : Prop) [Decidable b] (x : Chip) (p q v w : Nat) :
      (if b then (x.protoTo bothPorts p v).protoTo bothPorts q w else x.protoTo bothPorts p v).fab.install = x.fab.install := by
    split
    · rw [Chip.install_protoTo, Chip.install_protoTo]
    · rw [Chip.install_protoTo]
  exact ⟨_, _, _, hproto _ _ _ _ _ _⟩

theorem Chip.keptNumbers_insUid (c : Chip) (l : List (BitVec 64)) : c.keptNumbers (l.foldr insUid []) = c.keptNumbers l := by
  unfold Chip.keptNumbers
  have hcontains (u : BitVec 64) : (l.foldr insUid []).contains u = l.contains u := by
    rw [Bool.eq_iff_iff, List.contains_iff_mem, List.contains_iff_mem, mem_foldr_insUid]
  simp only [hcontains]

/-- Settles O53: each new number is free, so the distinct numbers stay distinct. -/
theorem numbersAreDistinct : Obligations.NumbersAreDistinct := by
  intro c self captain uid all routes topo tick own reach kept hkept hplan
  obtain ⟨self', new, routes', hinstall⟩ := c.install_plan
  have hall := foldl_numberNode (c.setInfo Config.uid c.ownInfo).nodeInfo new kept hkept
  rw [hinstall, Chip.keptNumbers_insUid] at hplan
  cases hplan
  exact ⟨hall.1, hall.2, rfl, rfl⟩

end Sys2Proof.Machine
end

/-! Offers of the Whistle (R330, R331): each pass over the Fielders or over a source changes offers alone. -/
section

namespace Sys2Proof.Machine

variable {c d e : Chip}

/-- In a table whose keys rise, an entry is what its key reads. -/
theorem Tbl.get_of_mem {α : Type} (d : α) {t : Tbl α} {a k : Nat} {v : α} (ht : Tbl.rises a t = true) (h : (k, v) ∈ t) :
    Tbl.get d t k = v ∧ a ≤ k := by
  induction t generalizing a with
  | nil => cases h
  | cons e t ih =>
    obtain ⟨j, w⟩ := e
    simp only [Tbl.rises, Bool.and_eq_true, decide_eq_true_eq] at ht
    obtain ⟨haj, hrises⟩ := ht
    rcases List.mem_cons.1 h with heq | hmem
    · cases heq
      exact ⟨if_pos rfl, haj⟩
    · obtain ⟨hget, hle⟩ := ih hrises hmem
      refine ⟨?_, by omega⟩
      rw [Tbl.get, if_neg (by omega), hget]

/-! ### What changes offers alone -/

/-- From `c` to `d` only offers of F0 to F11 change. -/
structure Chip.OffersOnly (c d : Chip) : Prop where
  rest : d = { c with fielders := d.fielders }
  fielder : ∀ f, d.fielder f = { c.fielder f with offer := (d.fielder f).offer }
  outside : ∀ f, 12 ≤ f → d.fielder f = c.fielder f

theorem Chip.OffersOnly.refl (c : Chip) : c.OffersOnly c := ⟨rfl, fun _ => rfl, fun _ _ => rfl⟩

theorem Chip.OffersOnly.trans (h : c.OffersOnly d) (g : d.OffersOnly e) : c.OffersOnly e where
  rest := by rw [g.rest, h.rest]
  fielder f := by
    have hg := g.fielder f
    rw [h.fielder f] at hg
    exact hg
  outside f hf := (g.outside f hf).trans (h.outside f hf)

theorem Chip.OffersOnly.updOffer (c : Chip) {f : Nat} (hf : f < 12) (o : Option Nat) :
    c.OffersOnly (c.updFielder f (fun x => { x with offer := o })) where
  rest := rfl
  fielder j := by
    rw [Chip.fielder_updFielder]
    split
    case isTrue h => rw [h]
    case isFalse => rfl
  outside j hj := by rw [Chip.fielder_updFielder, if_neg (by omega)]

theorem Chip.OffersOnly.srcs (h : c.OffersOnly d) : d.srcs = c.srcs := by rw [h.rest]

/-- What a Fielder can take does not depend on the offers. -/
theorem Chip.OffersOnly.canTake (h : c.OffersOnly d) (f : Nat) (s : Src) : d.canTake f s = c.canTake f s := by
  have hgrp : d.srcOpen s = c.srcOpen s := by rw [h.rest]; rfl
  unfold Chip.canTake Chip.wakes
  dsimp only
  rw [hgrp, h.fielder f]

theorem Chip.OffersOnly.src (h : c.OffersOnly d) (n : Nat) : d.src n = c.src n := by rw [h.rest]; rfl

theorem Chip.offer_updOffer (c : Chip) (f j : Nat) (o : Option Nat) :
    ((c.updFielder f (fun x => { x with offer := o })).fielder j).offer = if j = f then o else (c.fielder j).offer := by
  rw [Chip.fielder_updFielder]
  split <;> rfl

/-! ### Withdrawing -/

/-- The offer of one Fielder is withdrawn where the Fielder can no longer take its source. -/
def Chip.withdrawOne (c : Chip) (f : Nat) : Chip :=
  match (c.fielder f).offer with
  | some n => if c.canTake f (c.src n) then c else c.updFielder f (fun x => { x with offer := none })
  | none => c

theorem Chip.withdrawOne_spec (c : Chip) {f : Nat} (hf : f < 12) :
    c.OffersOnly (c.withdrawOne f) ∧ ∀ g n, ((c.withdrawOne f).fielder g).offer = some n →
      (c.fielder g).offer = some n ∧ (g = f → c.canTake g (c.src n) = true) := by
  unfold Chip.withdrawOne
  split
  case h_1 m hm =>
    split
    case isTrue htake =>
      refine ⟨.refl c, fun g n hg => ⟨hg, fun hgf => ?_⟩⟩
      subst hgf
      rw [hm] at hg
      cases hg
      exact htake
    case isFalse =>
      refine ⟨.updOffer c hf none, fun g n hg => ?_⟩
      rw [Chip.offer_updOffer] at hg
      split at hg
      case isTrue => cases hg
      case isFalse h => exact ⟨hg, fun hgf => absurd hgf h⟩
  case h_2 hm =>
    refine ⟨.refl c, fun g n hg => ⟨hg, fun hgf => ?_⟩⟩
    rw [hgf, hm] at hg
    cases hg

/-- After the pass the offers that stand were there before, and can be taken. -/
theorem Chip.withdraw_spec (l : List Nat) (hl : ∀ f ∈ l, f < 12) (c : Chip) :
    c.OffersOnly (l.foldl Chip.withdrawOne c) ∧ ∀ g n, ((l.foldl Chip.withdrawOne c).fielder g).offer = some n →
      (c.fielder g).offer = some n ∧ (g ∈ l → c.canTake g (c.src n) = true) := by
  induction l generalizing c with
  | nil => exact ⟨.refl c, fun g n hg => ⟨hg, fun h => by cases h⟩⟩
  | cons f t ih =>
    obtain ⟨hone, hstep⟩ := c.withdrawOne_spec (hl f (by simp))
    obtain ⟨hrest, hfold⟩ := ih (fun f hf => hl f (List.mem_cons_of_mem _ hf)) (c.withdrawOne f)
    refine ⟨hone.trans hrest, fun g n hg => ?_⟩
    obtain ⟨hmid, htake⟩ := hfold g n hg
    obtain ⟨hstart, hself⟩ := hstep g n hmid
    refine ⟨hstart, fun hmem => ?_⟩
    rcases List.mem_cons.1 hmem with hgf | hgt
    · exact hself hgf
    · rw [← hone.canTake, ← hone.src]
      exact htake hgt

/-! ### Offering -/

theorem mem_afterPtr {rr f : Nat} : f ∈ afterPtr rr ↔ f < 12 := by
  simp only [afterPtr, List.mem_map, List.mem_range]
  constructor
  · rintro ⟨k, _, rfl⟩
    omega
  · intro hf
    exact ⟨(f + 11 * (rr + 1)) % 12, by omega, by omega⟩

/-- No source is offered to two Fielders. -/
def Chip.offersDistinct (c : Chip) : Prop :=
  ∀ f g n, f < 12 → g < 12 → (c.fielder f).offer = some n → (c.fielder g).offer = some n → f = g

/-- Every offer can be taken. -/
def Chip.offersTaken (c : Chip) : Prop := ∀ f n, f < 12 → (c.fielder f).offer = some n → c.canTake f (c.src n) = true

/-- Offering a source: it is offered already, or it goes to a Fielder without an offer that can take it, or there is none. -/
theorem Chip.offerOne_cases (c : Chip) (n : Nat) (s : Src) :
    (c.offerOne n s = c ∧ ∃ g, g < 12 ∧ (c.fielder g).offer = some n)
    ∨ (∃ f, f < 12 ∧ c.canTake f s = true ∧ (c.fielder f).offer = none ∧ (∀ g, g < 12 → (c.fielder g).offer ≠ some n)
      ∧ c.offerOne n s = c.updFielder f (fun x => { x with offer := some n }))
    ∨ (c.offerOne n s = c ∧ ∀ f, f < 12 → c.canTake f s = true → (c.fielder f).offer ≠ none) := by
  unfold Chip.offerOne
  split
  case isTrue hany =>
    obtain ⟨g, hg, hoffer⟩ := List.any_eq_true.1 hany
    exact .inl ⟨rfl, g, List.mem_range.1 hg, by simpa using hoffer⟩
  case isFalse hany =>
    have hnone (g : Nat) (hg : g < 12) : (c.fielder g).offer ≠ some n := fun h =>
      hany (List.any_eq_true.2 ⟨g, List.mem_range.2 hg, by simp [h]⟩)
    split
    case h_1 f hf =>
      have hboth := List.find?_some hf
      rw [Bool.and_eq_true, Option.isNone_iff_eq_none] at hboth
      exact .inr (.inl ⟨f, mem_afterPtr.1 (List.mem_of_find?_eq_some hf), hboth.1, hboth.2, hnone, rfl⟩)
    case h_2 hfind =>
      refine .inr (.inr ⟨rfl, fun f hf htake hoffer => ?_⟩)
      have := List.find?_eq_none.1 hfind f (mem_afterPtr.2 hf)
      simp [htake, hoffer] at this

/-- What offering keeps, whatever the sources. -/
structure Chip.Offering (c d : Chip) : Prop where
  only : c.OffersOnly d
  stays : ∀ f n, (c.fielder f).offer = some n → (d.fielder f).offer = some n
  distinct : c.offersDistinct → d.offersDistinct
  taken : c.offersTaken → d.offersTaken

theorem Chip.Offering.refl (c : Chip) : c.Offering c := ⟨.refl c, fun _ _ h => h, id, id⟩

theorem Chip.Offering.trans (h : c.Offering d) (g : d.Offering e) : c.Offering e :=
  ⟨h.only.trans g.only, fun f n hf => g.stays f n (h.stays f n hf), g.distinct ∘ h.distinct, g.taken ∘ h.taken⟩

theorem Chip.offering_offerOne (c : Chip) {n : Nat} {s : Src} (hs : c.src n = s) : c.Offering (c.offerOne n s) := by
  rcases c.offerOne_cases n s with ⟨h, _⟩ | ⟨f, hf, htake, hfree, hnew, h⟩ | ⟨h, _⟩
  · rw [h]; exact .refl c
  · have honly := Chip.OffersOnly.updOffer c hf (some n)
    rw [h]
    refine ⟨honly, fun g m hg => ?_, fun hd => ?_, fun ht => ?_⟩
    · rw [Chip.offer_updOffer]
      split
      case isTrue hgf => rw [hgf, hfree] at hg; cases hg
      case isFalse => exact hg
    · intro g j m hg hj hgm hjm
      rw [Chip.offer_updOffer] at hgm hjm
      by_cases hgf : g = f <;> by_cases hjf : j = f
      · rw [hgf, hjf]
      · rw [if_pos hgf] at hgm
        rw [if_neg hjf, ← hgm] at hjm
        exact absurd hjm (hnew j hj)
      · rw [if_pos hjf] at hjm
        rw [if_neg hgf, ← hjm] at hgm
        exact absurd hgm (hnew g hg)
      · rw [if_neg hgf] at hgm
        rw [if_neg hjf] at hjm
        exact hd g j m hg hj hgm hjm
    · intro g m hg hgm
      rw [honly.canTake, honly.src]
      rw [Chip.offer_updOffer] at hgm
      split at hgm
      case isTrue hgf => cases hgm; rw [hgf, hs]; exact htake
      case isFalse => exact ht g m hg hgm
  · rw [h]; exact .refl c

/-- Once a source had its turn, it is offered, or nobody who can take it is without an offer; and that stays so. -/
theorem Chip.offerOne_serves {n : Nat} {s : Src} (h : (c.offerOne n s).Offering d) {f : Nat} (hf : f < 12)
    (htake : c.canTake f s = true) (hfree : (d.fielder f).offer = none) : ∃ g, g < 12 ∧ (d.fielder g).offer = some n := by
  rcases c.offerOne_cases n s with ⟨he, g, hg, hgn⟩ | ⟨g, hg, _, _, _, he⟩ | ⟨he, hall⟩
  · exact ⟨g, hg, h.stays g n (by rw [he]; exact hgn)⟩
  · exact ⟨g, hg, h.stays g n (by rw [he, Chip.offer_updOffer, if_pos rfl])⟩
  · obtain ⟨m, hm⟩ := Option.ne_none_iff_exists'.1 (hall f hf htake)
    have := h.stays f m (by rw [he]; exact hm)
    rw [hfree] at this
    cases this

theorem Chip.offering_foldl (l : List (Nat × Src)) (c : Chip) (hl : ∀ x ∈ l, c.src x.1 = x.2) :
    let d := l.foldl (fun (c : Chip) x => c.offerOne x.1 x.2) c
    c.Offering d ∧ ∀ x ∈ l, ∀ f, f < 12 → c.canTake f x.2 = true → (d.fielder f).offer = none →
      ∃ g, g < 12 ∧ (d.fielder g).offer = some x.1 := by
  induction l generalizing c with
  | nil => exact ⟨.refl c, fun x hx => by cases hx⟩
  | cons y t ih =>
    have hone := c.offering_offerOne (hl y (by simp))
    obtain ⟨hfold, hserves⟩ := ih (c.offerOne y.1 y.2) (fun x hx => by
      rw [hone.only.src]
      exact hl x (List.mem_cons_of_mem _ hx))
    refine ⟨hone.trans hfold, fun x hx f hf htake hfree => ?_⟩
    rcases List.mem_cons.1 hx with rfl | hx
    · exact Chip.offerOne_serves hfold hf htake hfree
    · exact hserves x hx f hf (by rw [hone.only.canTake]; exact htake) hfree

/-! ### Both passes -/

theorem mem_insSource {x y : Nat × Src} {l : List (Nat × Src)} : y ∈ insSource x l ↔ y = x ∨ y ∈ l := by
  induction l with
  | nil => simp [insSource]
  | cons z t ih =>
    unfold insSource
    split
    · simp
    · simp only [List.mem_cons, ih]; tauto

theorem mem_foldr_insSource {y : Nat × Src} {l : List (Nat × Src)} : y ∈ l.foldr insSource [] ↔ y ∈ l := by
  induction l with
  | nil => simp
  | cons x t ih => simp [mem_insSource, ih]

theorem Chip.pend_of_canTake {f : Nat} {s : Src} (h : c.canTake f s = true) : s.pend = true := by
  simp only [Chip.canTake, Chip.wakes, Chip.srcOpen, Bool.and_eq_true] at h
  tauto

/-- The chip after the offers that no longer stand are withdrawn. -/
def Chip.withdrawn (c : Chip) : Chip := (List.range 12).foldl Chip.withdrawOne c

/-- The pending sources in the order of R330. -/
def Chip.inOrder (c : Chip) : List (Nat × Src) := (c.srcs.filter (fun s => s.2.pend)).foldr insSource []

theorem Chip.offers_eq (c : Chip) : c.offers = c.inOrder.foldl (fun (c : Chip) s => c.offerOne s.1 s.2) c.withdrawn := by
  have hsrcs : c.withdrawn.srcs = c.srcs := (Chip.withdraw_spec _ (fun f hf => List.mem_range.1 hf) c).1.srcs
  unfold Chip.inOrder
  rw [← hsrcs]
  rfl

/-- Settles O43: withdrawing leaves offers that can be taken, and offering adds such offers only. -/
theorem offersFollowTheRules : Obligations.OffersFollowTheRules := by
  intro c hwf
  obtain ⟨hw, hstand⟩ := Chip.withdraw_spec (List.range 12) (fun f hf => List.mem_range.1 hf) c
  have hsrc (x : Nat × Src) (hx : x ∈ c.srcs) : c.src x.1 = x.2 :=
    (Tbl.get_of_mem ({} : Src) (Bool.and_eq_true_iff.1 hwf).1 hx).1
  obtain ⟨ho, hserves⟩ := Chip.offering_foldl c.inOrder c.withdrawn (fun x hx => by
    rw [show c.withdrawn.src x.1 = c.src x.1 from hw.src x.1]
    exact hsrc x (List.mem_of_mem_filter (mem_foldr_insSource.1 hx)))
  rw [← Chip.offers_eq] at ho hserves
  have hall : c.OffersOnly c.offers := hw.trans ho.only
  refine ⟨hall.rest, fun f _ => hall.fielder f, hall.outside, fun f n hf hoffer => ?stands, fun hdistinct => ?distinct,
    fun f n x hf hmem htake hfree => ?served⟩
  case stands =>
    have htaken : c.withdrawn.offersTaken := fun g m hg hgm => by
      rw [show c.withdrawn.canTake g (c.withdrawn.src m) = c.canTake g (c.src m) by rw [Chip.withdrawn, hw.canTake, hw.src]]
      exact (hstand g m hgm).2 (List.mem_range.2 hg)
    rw [← hall.canTake, ← hall.src]
    exact ho.taken htaken f n hf hoffer
  case distinct =>
    exact ho.distinct fun f g n hf hg hfn hgn => hdistinct f g n hf hg (hstand f n hfn).1 (hstand g n hgn).1
  case served =>
    have horder : (n, x) ∈ c.inOrder :=
      mem_foldr_insSource.2 (List.mem_filter.2 ⟨hmem, Chip.pend_of_canTake htake⟩)
    exact hserves (n, x) horder f hf (by rw [show c.withdrawn.canTake f x = _ from hw.canTake f x]; exact htake) hfree

end Sys2Proof.Machine
end

/-! Resets and the bring-up (R22, R26): what each clears and keeps, and the steps from RESET# to WAITING. -/
section

namespace Sys2Proof.Machine

variable {s : State} {c : Chip}

/-- A command that changes the chip answers `onward` of the change. -/
theorem next_act {f : Chip → Chip} {d : Chip} (h : f s.chip = d) :
    (Host.Outcome.next (s.act f) : Host.Outcome State Fault Refusal) = .next (s.onward d) := by
  rw [State.act_eq_onward, h]

/-! ### What a reset leaves -/

/-- A command that resets the chip: nothing waits afterwards, and the staging memory is gone with the SRAM. -/
theorem State.actReset_eq {f : Chip → Chip} {d : Chip} (h : f s.chip = d) (hcalm : d.calmed = true) (hpll : d.boot.pll = false) :
    s.actReset f = { s with chip := d, stage := [] } := by
  unfold State.actReset State.put
  rw [h, Chip.pump_calmed hcalm, hpll]
  rfl

/-- A reset of the core, with what holds it. -/
def Chip.resetHeld (c : Chip) (s : Straps) (h : Hold) : Chip := { c.coreReset s with hold := h }

/-- A power-on reset, with what holds it. -/
def Chip.powerHeld (c : Chip) (s : Straps) (h : Hold) : Chip := { c.powerOnReset s with hold := h }

theorem Chip.calmed_resetHeld (c : Chip) (s : Straps) (h : Hold) : (c.resetHeld s h).calmed = true := Chip.calmed_pfTable s rfl rfl
theorem Chip.calmed_powerHeld (c : Chip) (s : Straps) (h : Hold) : (c.powerHeld s h).calmed = true := Chip.calmed_pfTable s rfl rfl

theorem Chip.coreCleared_resetHeld (c : Chip) (s : Straps) (h : Hold) : (c.resetHeld s h).coreCleared := by
  unfold Chip.coreCleared
  refine ⟨?_, ?_, ?_, ?_, ?_, ?_, ?_, ?_, ?_, ?_, ?_, ?_, ?_, ?_, ?_, ?_, ?_, ?_, ?_, ?_, ?_, ?_, ?_, ?_, ?_, ?_, ?_, ?_, ?_⟩ <;> rfl

theorem Chip.coreCleared_powerHeld (c : Chip) (s : Straps) (h : Hold) : (c.powerHeld s h).coreCleared :=
  Chip.coreCleared_resetHeld c s h

/-- What is read of a table all of whose values were made by `f` is the default or made by `f`. -/
theorem Tbl.get_mapv_cases {α : Type} [DecidableEq α] (d : α) (t : Tbl α) (f : Nat → α → α) (k : Nat) :
    Tbl.get d (Tbl.mapv d t f) k = d ∨ ∃ j v, Tbl.get d (Tbl.mapv d t f) k = f j v := by
  by_cases h : Tbl.get d (Tbl.mapv d t f) k = d
  · exact .inl h
  · have hmem := Tbl.mem_of_get h
    unfold Tbl.mapv at hmem
    obtain ⟨e, _, he⟩ := List.mem_map.1 (List.mem_of_mem_filter hmem)
    exact .inr ⟨e.1, e.2, (congrArg Prod.snd he).symm⟩

theorem Chip.portsCleared_resetHeld (c : Chip) (s : Straps) (h : Hold) : (c.resetHeld s h).portsCleared := by
  intro p
  rcases Tbl.get_mapv_cases ({} : Port) c.ports (fun _ p => { pocLow := p.pocLow }) p with hp | ⟨_, v, hp⟩ <;>
  · rw [show (c.resetHeld s h).port p = _ from hp]

theorem Chip.portsCleared_powerHeld (c : Chip) (s : Straps) (h : Hold) : (c.powerHeld s h).portsCleared :=
  Chip.portsCleared_resetHeld c s h

theorem Chip.sidelineKept_resetHeld (c : Chip) (s : Straps) (h : Hold) : c.sidelineKept (c.resetHeld s h) := by
  unfold Chip.sidelineKept
  refine ⟨?_, ?_, ?_, ?_, ?_, ?_, ?_, ?_, ?_, ?_, ?_, ?_, ?_, ?_, ?_, ?_, ?_, ?_, ?_, ?_, ?_, ?_, ?_, ?_, ?_, ?_⟩ <;> rfl

/-- What every reset of the core shows. -/
theorem State.reset_shows {o : Host.Outcome State Fault Refusal} {f : Chip → Chip} {b : Chip} {st : Straps} {h : Hold}
    (ho : o = .next (s.actReset f)) (hf : f s.chip = b.resetHeld st h) :
    ∃ t, o = .next t ∧ t.chip = b.resetHeld st h ∧ t.chip.coreCleared ∧ t.chip.portsCleared
      ∧ b.sidelineKept t.chip ∧ t.stage = [] ∧ t.pending = s.pending :=
  ⟨_, ho.trans (congrArg _ (State.actReset_eq hf (Chip.calmed_resetHeld _ _ _) rfl)), rfl, Chip.coreCleared_resetHeld _ _ _,
    Chip.portsCleared_resetHeld _ _ _, Chip.sidelineKept_resetHeld _ _ _, rfl, rfl⟩

/-- What every power-on reset shows. -/
theorem State.power_shows {o : Host.Outcome State Fault Refusal} {f : Chip → Chip} {st : Straps} {h : Hold}
    (ho : o = .next (s.actReset f)) (hf : f s.chip = s.chip.powerHeld st h) :
    ∃ t, o = .next t ∧ t.chip = s.chip.powerHeld st h ∧ t.chip.coreCleared ∧ t.chip.portsCleared
      ∧ t.stage = [] ∧ t.pending = s.pending :=
  ⟨_, ho.trans (congrArg _ (State.actReset_eq hf (Chip.calmed_powerHeld _ _ _) rfl)), rfl, Chip.coreCleared_powerHeld _ _ _,
    Chip.portsCleared_powerHeld _ _ _, rfl, rfl⟩

/-! ### Which commands reset -/

theorem Chip.resetLow_eq (hpor : c.hold.por = false) : ∃ h : Hold, h.resetN = false ∧ c.resetLow = c.resetHeld c.straps h := by
  simp only [Chip.resetLow, hpor]
  exact ⟨_, rfl, rfl⟩

theorem Chip.resetHigh_eq (p : StrapPins) (hreset : c.hold.resetN = false) (hpor : c.hold.por = false) (hpwr : c.hold.pwrgdHold = false)
    (htrip : c.hold.trip = false) : c.resetHigh p = c.resetHeld (latch p) { c.hold with resetN := true } := by
  simp [Chip.resetHigh, Chip.resetHeld, hreset, hpor, hpwr, htrip]

theorem Chip.pwrgdLow_eq (hwake : c.hold.wakeOut = true) (hseen : c.hold.pwrgdSeen = true) (hpor : c.hold.por = false)
    (htrip : c.hold.trip = false) : c.pwrgdLow = c.resetHeld c.straps { c.hold with pwrgd := false, pwrgdHold := true } := by
  simp [Chip.pwrgdLow, Chip.resetHeld, hwake, hseen, hpor, htrip]

theorem Chip.pwrgdHigh_por (p : StrapPins) (hpor : c.hold.por = true) (hvdd : c.hold.vddSl = true) :
    c.pwrgdHigh p = c.powerHeld (latch p) { resetN := c.hold.resetN } := by
  simp [Chip.pwrgdHigh, Chip.powerHeld, hpor, hvdd]

/-! ### The manager's commands -/

theorem Chip.mgrAbort_idle (h : c.mgr.busy = false) : c.mgrAbort = c := by simp [Chip.mgrAbort, h]

/-- A write of MGR_CMD by the manager while no command is in progress begins the command (R116). -/
theorem Chip.mgrCmd_begins {w : Writer} (o : Bool) (act : Chip → Nat → Chip) (hm : c.isMgr w = true) (hb : c.mgr.busy = false) :
    c.mgrCmd w o act = act c.mgrBegin c.ids := by
  simp only [Chip.mgrCmd, Chip.byMgr, hm, hb, if_true, Bool.false_and, Bool.false_eq_true, if_false, Chip.mgrAbort_idle hb]
  rfl

/-- CHIP_RESET with its key (R245). -/
theorem Chip.mgrChipReset_keyed {w : Writer} (hm : c.isMgr w = true) (hb : c.mgr.busy = false) (h0 : c.mgr.arg0 = Config.escKey)
    (h1 : c.mgr.arg1 = 0) (h2 : c.mgr.arg2 = 0) (h3 : c.mgr.arg3 = 0) :
    c.mgrChipReset w = c.mgrBegin.coreReset c.straps := by
  rw [Chip.mgrChipReset, Chip.mgrCmd_begins _ _ hm hb]
  refine if_pos ⟨h0, ?_⟩
  simp [Mgr.argsOk, Chip.mgrBegin, h1, h2, h3]

/-- Settles O6: every reset is the core's or a power-on reset, whatever holds the chip afterwards. -/
theorem resetsClearAndKeep : Obligations.ResetsClearAndKeep := by
  refine ⟨fun s => ⟨fun hpor => ?assert, fun p hreset hpor hpwr htrip => ?release, fun hwake hseen hpor htrip => ?pwrgd,
    fun w hm hcalm hb h0 h1 h2 h3 => ?chip⟩, fun s => ⟨fun p => ?power, ?vdd, fun p hpor hvdd => ?rise⟩⟩
  case assert =>
    obtain ⟨h, hh, heq⟩ := Chip.resetLow_eq hpor
    obtain ⟨t, ht, hchip, hcore, hports, hkept, hstage, hpend⟩ := State.reset_shows (o := exec .resetAssert s) rfl heq
    exact ⟨t, ht, by rw [hchip]; exact hh, by rw [hchip]; rfl, hcore, hports, hkept, hstage, hpend⟩
  case release =>
    obtain ⟨t, ht, hchip, hcore, hports, hkept, hstage, hpend⟩ :=
      State.reset_shows (o := exec (.resetRelease p) s) rfl (Chip.resetHigh_eq p hreset hpor hpwr htrip)
    exact ⟨t, ht, by rw [hchip]; rfl, by rw [hchip]; rfl, by rw [hchip]; rfl, hcore, hports, hkept, hstage, hpend⟩
  case pwrgd =>
    obtain ⟨t, ht, hchip, hcore, hports, hkept, hstage, hpend⟩ :=
      State.reset_shows (o := exec .pwrgdInLow s) rfl (Chip.pwrgdLow_eq hwake hseen hpor htrip)
    exact ⟨t, ht, by rw [hchip]; rfl, by rw [hchip]; rfl, hcore, hports, hkept, hstage, hpend⟩
  case chip =>
    obtain ⟨t, ht, hchip, hcore, hports, hkept, hstage, hpend⟩ :=
      State.reset_shows (s := s) (o := exec (.chipReset w) s) (h := s.chip.hold) rfl
        (Chip.mgrChipReset_keyed (c := s.chip.spinBreak) hm hb h0 h1 h2 h3)
    exact ⟨t, ht, by rw [hchip]; rfl, by rw [hchip]; rfl, hcore, hports, hkept, hstage, hpend⟩
  case power =>
    obtain ⟨t, ht, hchip, hcore, hports, hstage, hpend⟩ := State.power_shows (s := s) (o := exec (.powerOn p) s)
      (st := latch p) (h := { resetN := false }) rfl rfl
    refine ⟨t, ht, ?_, ?_, hcore, hports, ?_, ?_, ?_, ?_, hstage, hpend⟩ <;> rw [hchip] <;> rfl
  case vdd =>
    obtain ⟨t, ht, hchip, hcore, hports, hstage, hpend⟩ := State.power_shows (s := s) (o := exec .vddSlFall s)
      (st := {}) (h := { resetN := s.chip.hold.resetN, pwrgd := s.chip.hold.pwrgd, vddSl := false, por := true }) rfl rfl
    refine ⟨t, ht, ?_, ?_, hcore, hports, ?_, ?_, ?_, ?_, hstage, hpend⟩ <;> rw [hchip] <;> rfl
  case rise =>
    obtain ⟨t, ht, hchip, hcore, hports, hstage, hpend⟩ := State.power_shows (o := exec (.pwrgdInRise p) s) rfl
      (Chip.pwrgdHigh_por p hpor hvdd)
    refine ⟨t, ht, ?_, ?_, hcore, hports, ?_, ?_, ?_, ?_, hstage, hpend⟩ <;> rw [hchip] <;> rfl

/-! ### The steps of the bring-up -/

theorem Chip.crystalOk_run (hup : c.up = true) (hrun : c.pwr.st = .run) (h : c.boot.crystal = false) : c.crystalOk = { c with
    boot := { c.boot with crystal := true }
    ports := Tbl.mapv {} c.ports (fun _ p => { p with deglitch := p.pocLow }) } := by
  simp [Chip.crystalOk, hup, hrun, h]

theorem Chip.pllOk_run (hup : c.up = true) (hrun : c.pwr.st = .run) (h : c.boot.crystal = true) :
    c.pllOk = { c with boot := { c.boot with pll := true } } := by
  simp [Chip.pllOk, hup, hrun, h]

theorem Chip.sramOk_run (hup : c.up = true) (hrun : c.pwr.st = .run) (h : c.boot.pll = true) :
    c.sramOk = { c with boot := { c.boot with sram := true } } := by
  simp [Chip.sramOk, hup, hrun, h]

theorem Chip.logicOk_run (hup : c.up = true) (hrun : c.pwr.st = .run) (h : c.boot.sram = true) (hready : c.boot.ready = false)
    (hret : c.rel.retired = []) : c.logicOk = { c with boot := { c.boot with ready := true, mode := .waiting } } := by
  simp [Chip.logicOk, Chip.bootReady, hup, hrun, h, hready, hret]

theorem Chip.selfTest_pass {f : Nat} (hready : c.boot.ready = true) (h : (c.fielder f).st = .boot) :
    c.selfTest f true = c.updFielder f (fun x => { x with st := .waiting, wfi := true }) := by
  simp [Chip.selfTest, hready, h]

/-- Settles O7. -/
theorem bringUpSteps : Obligations.BringUpSteps := by
  intro s hup hrun
  exact ⟨fun h => next_act (Chip.crystalOk_run hup hrun h), fun h => next_act (Chip.pllOk_run hup hrun h),
    fun h => next_act (Chip.sramOk_run hup hrun h), fun h hready hret => next_act (Chip.logicOk_run hup hrun h hready hret),
    fun f hready h => next_act (Chip.selfTest_pass hready h)⟩

/-- A step on a queue whose front command changes the chip, where nothing waits. -/
theorem step_calmed {i : Instr} {rest : List Instr} {d : Chip} (hq : s.pending = i :: rest)
    (h : exec i { s with pending := rest } = .next (({ s with pending := rest } : State).onward d)) (hd : d.calmed = true) :
    step s = .next { s with pending := rest, chip := d } := by
  rw [stepRunsTheFrontCommand s i rest hq, h, State.onward_calmed _ hd]

/-- Settles O58: the reset state is data; the four events of the bring-up then follow each other. -/
theorem resetStartsTheBringUp : Obligations.ResetStartsTheBringUp := by
  refine ⟨rfl, rfl, rfl, rfl, rfl, rfl, rfl, rfl, rfl, rfl, rfl, rfl, rfl, rfl, rfl, rfl, rfl, fun _ => ⟨rfl, rfl⟩,
    fun _ => ⟨rfl, rfl⟩, by decide, fun rest => ?_⟩
  obtain ⟨h1, -⟩ := bringUpSteps { State.reset with pending := [.pllLock, .sramRdy, .logicRdy] ++ rest } rfl rfl
  refine ⟨_, _, _, _, step_calmed rfl (h1 rfl) rfl, step_calmed rfl ((bringUpSteps _ rfl rfl).2.1 rfl) rfl,
    step_calmed rfl ((bringUpSteps _ rfl rfl).2.2.1 rfl) rfl, step_calmed rfl ((bringUpSteps _ rfl rfl).2.2.2.1 rfl rfl rfl) rfl,
    rfl, rfl, rfl⟩

end Sys2Proof.Machine
end

/-! Links (R22, R27, R257, R258, R278), the choice of R29, and what resets one instance (R236, R250). -/
section

namespace Sys2Proof.Machine

variable {s : State} {c d : Chip} {l n : Nat}

/-! ### One link's registers -/

theorem Chip.link_updLink (c : Chip) (l : Nat) (f : Link → Link) : (c.updLink l f).link l = f (c.link l) := by
  unfold Chip.updLink Chip.link
  split <;> rfl

/-- An update of a link changes its registers alone. -/
theorem Chip.updLink_rest (c : Chip) (l : Nat) (f : Link → Link) : ∃ a b, c.updLink l f = { c with link0 := a, link1 := b } := by
  unfold Chip.updLink
  split
  · exact ⟨_, c.link1, rfl⟩
  · exact ⟨c.link0, _, rfl⟩

/-- Telling the other nodes sends frames. -/
theorem Chip.tellLink_same (c : Chip) (l : Nat) (up : Bool) : c.SameButFab (c.tellLink l up) :=
  Chip.SameButFab.foldl (fun c _ => Chip.SameButFab.foldl (fun c _ => Chip.sendFrame_same c _ _ _ _) _ c) _ c

/-- A change of power state is one of the link's register, and frames. -/
theorem Chip.setPm_same (c : Chip) (l : Nat) (pm : LinkPm) : (c.updLink l (fun k => { k with pm := pm })).SameButFab (c.setPm l pm) := by
  unfold Chip.setPm
  dsimp only
  split
  · exact .refl _
  · exact Chip.tellLink_same _ _ _

theorem Chip.setPm_quiet {pm : LinkPm} (h : linkRunning (c.link l).pm = linkRunning pm) :
    c.setPm l pm = c.updLink l (fun k => { k with pm := pm }) := if_pos h

theorem Chip.linkDown_same {b : Bool} (h : (c.link l).down = b) : c.linkDown l b = c := if_pos h

theorem Chip.linkDown_change {b : Bool} (h : (c.link l).down ≠ b) (hie : c.cap.linkIe = false) :
    c.linkDown l b = c.updLink l (fun k => { k with down := b, chg := true }) := by
  obtain ⟨a, a', heq⟩ := c.updLink_rest l (fun k => { k with down := b, chg := true })
  simp [Chip.linkDown, h, heq, hie]

/-- LINK_STS.DOWN and CHG of a link, as `Chip.linkDown` sets them. -/
def Link.setDown (k : Link) (b : Bool) : Link := if k.down = b then k else { k with down := b, chg := true }

theorem Chip.updLink_self {f : Link → Link} (h : f (c.link l) = c.link l) : c.updLink l f = c := by
  unfold Chip.updLink
  unfold Chip.link at h
  split at h
  case isTrue hl => rw [if_pos hl, h]
  case isFalse hl => rw [if_neg hl, h]

theorem Chip.updLink_congr {f g : Link → Link} (h : f (c.link l) = g (c.link l)) : c.updLink l f = c.updLink l g := by
  unfold Chip.updLink
  unfold Chip.link at h
  split at h
  case isTrue hl => rw [if_pos hl, if_pos hl, h]
  case isFalse hl => rw [if_neg hl, if_neg hl, h]

theorem Chip.linkDown_silent (b : Bool) (hie : c.cap.linkIe = false) : c.linkDown l b = c.updLink l (fun k => k.setDown b) := by
  by_cases h : (c.link l).down = b
  · rw [Chip.linkDown_same h]
    exact (Chip.updLink_self (f := fun k => k.setDown b) (if_pos h)).symm
  · rw [Chip.linkDown_change h hie]
    exact Chip.updLink_congr (if_neg h).symm

/-! ### Charging follows -/

theorem Chip.perstLow_high (h : (c.link l).perstN = true) :
    c.perstLow l =
      (((if linkRunning (c.link l).pm then
          ((c.setPm l .down).updLink l (fun k => { k with perstN := false, lost := false, delay := false })).linkDown l true
        else (c.setPm l .down).updLink l (fun k => { k with perstN := false, lost := false, delay := false })).resetLink l).chargeAll) := by
  simp [Chip.perstLow, h]

theorem Chip.hotReset_live (h : (c.link l).perstN = true) (hpm : (c.link l).pm ≠ .down) :
    c.hotReset l = ((c.setPm l .training).resetLink l).chargeAll := by
  simp [Chip.hotReset, h, hpm]

theorem Chip.trainStart_down (hready : c.boot.ready = true) (h : (c.link l).perstN = true) (hl : l = 0 ∨ c.straps.bifur = true)
    (hpm : (c.link l).pm = .down) : c.trainStart l = c.updLink l (fun k => { k with pm := .training }) := by
  refine if_pos ?_
  rcases hl with rfl | hb
  · simp [hready, h, hpm]
  · simp [hready, h, hpm, hb]

/-- The link's registers as L0 is reached. -/
def Chip.atL0 (c : Chip) (l : Nat) : Chip :=
  ((c.setPm l .l0).updLink l (fun k => { k with lost := false, delay := false })).linkDown l false

/-- The choice of R29 by a link that reaches L0. -/
def Chip.choose (c : Chip) : Chip :=
  if c.boot.mode = .waiting ∧ c.boot.chosen = false then
    Chip.sandlotPorts { c with boot := { c.boot with mode := .sandlotHc, chosen := true } }
  else c

theorem Chip.choose_chosen (h : c.boot.chosen = true) : c.choose = c := if_neg (by simp [h])

theorem Chip.choose_waiting (hmode : c.boot.mode = .waiting) (h : c.boot.chosen = false) :
    c.choose = Chip.sandlotPorts { c with boot := { c.boot with mode := .sandlotHc, chosen := true } } := if_pos ⟨hmode, h⟩

theorem Chip.linkL0_eq (hready : c.boot.ready = true) (h : (c.link l).perstN = true) (hl : l = 0 ∨ c.straps.bifur = true) :
    c.linkL0 l = (if (c.link l).lost then (c.atL0 l).choose.linkBack l else (c.atL0 l).choose).chargeAll := by
  refine if_neg ?_
  rcases hl with rfl | hb
  · simp [hready, h]
  · simp [hready, h, hb]

/-- What a link's registers do not touch. -/
theorem Chip.setPm_boot (c : Chip) (l : Nat) (pm : LinkPm) : (c.setPm l pm).boot = c.boot := by
  obtain ⟨f, o, h⟩ := c.setPm_same l pm
  obtain ⟨a, b, ha⟩ := c.updLink_rest l (fun k => { k with pm := pm })
  rw [h, ha]

theorem Chip.linkDown_boot (c : Chip) (l : Nat) (b : Bool) : (c.linkDown l b).boot = c.boot := by
  unfold Chip.linkDown Chip.mgrMsix
  obtain ⟨x, y, h⟩ := c.updLink_rest l (fun k => { k with down := b, chg := true })
  simp only [h]
  split
  · rfl
  · split
    · split <;> rfl
    · rfl

theorem Chip.atL0_boot (c : Chip) (l : Nat) : (c.atL0 l).boot = c.boot := by
  unfold Chip.atL0
  obtain ⟨a, b, h⟩ := (c.setPm l .l0).updLink_rest l (fun k => { k with lost := false, delay := false })
  rw [Chip.linkDown_boot, h]
  exact Chip.setPm_boot c l .l0

theorem Chip.linkPm_up {pm : LinkPm} (h : linkRunning (c.link l).pm = false ∨ linkRunning pm = true ∨ pm = .l2 ∨ pm = .l3) :
    c.linkPm l pm = (c.setPm l pm).chargeAll := by
  have hif : (linkRunning (c.link l).pm && !linkRunning pm && pm != .l2 && pm != .l3) = false := by
    rcases h with h | h | rfl | rfl <;> simp_all
  simp [Chip.linkPm, hif]

theorem Chip.linkPm_down {pm : LinkPm} (h : linkRunning (c.link l).pm = true) (hpm : pm = .down ∨ pm = .training) :
    c.linkPm l pm = ((c.linkDown l true).setPm l pm).chargeAll := by
  have hif : (linkRunning (c.link l).pm && !linkRunning pm && pm != .l2 && pm != .l3) = true := by
    rw [h]
    rcases hpm with rfl | rfl <;> rfl
  simp [Chip.linkPm, hif]

/-! ### A link is lost -/

theorem Chip.heldNodes_nil (hs : c.slots = []) (hv : (c.inst n).portViews = []) : c.heldNodes n = [] := by
  simp [Chip.heldNodes, Chip.farNodes_nil hs, hv, dedup]

theorem Chip.tellLink_nil (hs : c.slots = []) (hv : ∀ m ∈ c.linkInsts l, (c.inst m).portViews = []) (up : Bool) :
    c.tellLink l up = c := by
  unfold Chip.tellLink
  refine List.foldlRecOn (motive := fun d => d = c) _ _ rfl fun d hd m hm => ?_
  rw [hd, Chip.heldNodes_nil hs (hv m hm)]
  rfl

theorem Chip.setPm_alone {pm : LinkPm} (hs : c.slots = []) (hv : ∀ m ∈ c.linkInsts l, (c.inst m).portViews = []) :
    c.setPm l pm = c.updLink l (fun k => { k with pm := pm }) := by
  unfold Chip.setPm
  obtain ⟨a, b, h⟩ := c.updLink_rest l (fun k => { k with pm := pm })
  dsimp only
  rw [h]
  split
  · rfl
  · exact Chip.tellLink_nil (c := { c with link0 := a, link1 := b }) hs hv _

/-- What the loss makes of an ACTIVE instance without devices (R258): its generation is bumped and its channels are reset. -/
def Inst.lostLink (x : Inst) : Inst :=
  { ({ x with st := .linkLost, cmdDead := x.cmdDead + x.cmdReads, cmdReads := 0, gen := x.gen + 1 } : Inst).resetChans with
    st := .linkLost }

/-- What a loss does to one instance of the link (R258). -/
def Chip.loseInst (c : Chip) (n : Nat) : Chip :=
  match (c.inst n).st with
  | .active | .frozen =>
    ((c.updInst n (fun x => { x with st := .linkLost, cmdDead := x.cmdDead + x.cmdReads, cmdReads := 0 })).bumpGen n).dropAll n
  | .resetting => c.updInst n (fun x => { x with back := .linkLost })
  | .created => c.bumpGen n
  | _ => c

theorem Chip.loseInst_alone (hs : c.slots = []) (he : c.eps = []) (hst : (c.inst n).st = .active) (hdue : (c.inst n).genDue = 0) :
    c.loseInst n = c.updInst n Inst.lostLink := by
  unfold Chip.loseInst
  rw [hst]
  dsimp only
  rw [Chip.bumpGen_now (by simpa using hdue) (Chip.genCarried_nil (by exact he) _), Chip.dropAll_nil (by exact hs),
    Chip.updInst_updInst, Chip.updInst_updInst]
  rfl

/-- The link's registers as the link is lost. -/
def Link.lose (k : Link) : Link := ({ k with pm := .down, lost := true, delay := true } : Link).setDown true

theorem Chip.lostLink_eq (h : (c.link l).perstN = true) (hie : c.cap.linkIe = false) (hs : c.slots = [])
    (hv : ∀ m ∈ c.linkInsts l, (c.inst m).portViews = []) :
    c.lostLink l = (((c.linkInsts l).foldl Chip.loseInst (c.updLink l Link.lose)).chargeAll) := by
  have hregs : ((c.setPm l .down).updLink l (fun k => { k with lost := true, delay := true })).linkDown l true
      = c.updLink l Link.lose := by
    rw [Chip.setPm_alone hs hv, Chip.linkDown_silent]
    · unfold Chip.updLink
      split <;> rfl
    · unfold Chip.updLink
      split <;> exact hie
  have hinsts : (c.updLink l Link.lose).linkInsts l = c.linkInsts l := by
    obtain ⟨a, b, hab⟩ := c.updLink_rest l Link.lose
    rw [hab]
    rfl
  rw [← hinsts, ← hregs]
  exact if_neg (by simp [h])

theorem Chip.delayEnd_keep (hlost : (c.link l).lost = true) (hdelay : (c.link l).delay = true) (hpol : (c.link l).policy = 0)
    (hie : c.cap.linkIe = false) : c.delayEnd l = c.updLink l (fun k => { k with delay := false, acted := true }) := by
  obtain ⟨a, b, h⟩ := c.updLink_rest l (fun k => { k with delay := false, acted := true })
  simp [Chip.delayEnd, hlost, hdelay, hpol, h, hie]

/-- Settles O8: each event changes the link's registers, tells or resets what the link has, and lets charging follow. -/
theorem linkEventsAct : Obligations.LinkEventsAct := by
  intro s l k
  refine ⟨fun pm h => Chip.setPm_quiet h, fun b h => Chip.linkDown_same h, fun b h hie => Chip.linkDown_change h hie, rfl,
    fun h => next_act (Chip.perstLow_high h), fun h hpm => next_act (Chip.hotReset_live h hpm),
    fun hready h hl hpm => next_act (Chip.trainStart_down hready h (hl.imp_left (congrArg Fin.val)) hpm),
    fun hready hchosen h hl => ?l0, fun pm h => next_act (Chip.linkPm_up h), fun pm h hpm => next_act (Chip.linkPm_down h hpm),
    fun n x h hie hs he hi hn hlink hst hdue hviews => ?lost,
    fun hlost hdelay hpol hie => next_act (Chip.delayEnd_keep hlost hdelay hpol hie)⟩
  case l0 =>
    refine next_act ((Chip.linkL0_eq hready h (hl.imp_left (congrArg Fin.val))).trans ?_)
    rw [Chip.choose_chosen (by rw [Chip.atL0_boot]; exact hchosen)]
    rfl
  case lost =>
    have hx : s.chip.inst n = x := by simp [Chip.inst, hi, Tbl.get]
    have hinsts : s.chip.linkInsts l.val = [n] := by simp [Chip.linkInsts, hi, hn, hlink]
    obtain ⟨a, b, hab⟩ := s.chip.updLink_rest l.val Link.lose
    have hlinkv := s.chip.link_updLink l.val Link.lose
    have hc : (s.chip.linkInsts l.val).foldl Chip.loseInst (s.chip.updLink l.val Link.lose)
        = (s.chip.updLink l.val Link.lose).updInst n Inst.lostLink := by
      have hx' : ({ s.chip with link0 := a, link1 := b } : Chip).inst n = x := hx
      rw [hinsts, List.foldl_cons, List.foldl_nil, hab]
      exact Chip.loseInst_alone hs he (hx' ▸ hst) (hx' ▸ hdue)
    refine ⟨(s.chip.updLink l.val Link.lose).updInst n Inst.lostLink, next_act ?_, ?_⟩
    · rw [← hc]
      exact Chip.lostLink_eq h hie hs fun m hm => by
        rw [hinsts, List.mem_singleton] at hm
        rw [hm, hx, hviews]
    · have hinst : ((s.chip.updLink l.val Link.lose).updInst n Inst.lostLink).inst n = x.lostLink := by
        rw [Chip.inst_updInst_same, hab]
        exact congrArg Inst.lostLink hx
      have hdown : (s.chip.link l.val).lose.down = true := by
        unfold Link.lose Link.setDown
        split
        case isTrue hd => exact hd
        case isFalse => rfl
      have hkept : (s.chip.link l.val).lose.pm = .down ∧ (s.chip.link l.val).lose.lost = true
          ∧ (s.chip.link l.val).lose.delay = true := by
        unfold Link.lose Link.setDown
        split <;> exact ⟨rfl, rfl, rfl⟩
      rw [hinst]
      have hl' : ((s.chip.updLink l.val Link.lose).updInst n Inst.lostLink).link l.val = (s.chip.link l.val).lose := hlinkv
      rw [hl']
      refine ⟨hkept.1, hkept.2.1, hkept.2.2, hdown, rfl, rfl, rfl, ?_, ?_, ?_⟩ <;> rw [hab] <;> rfl

/-- Settles O9. -/
theorem sandlotChoice : Obligations.SandlotChoice := by
  intro s hready hmode hchosen
  refine ⟨fun hperst hdown hlost => ?l0, fun hoff => ?fallback⟩
  case l0 =>
    refine next_act ((Chip.linkL0_eq (l := 0) hready hperst (.inl rfl)).trans ?_)
    have hlost' : (s.chip.link 0).lost = false := hlost
    have hd : ((s.chip.setPm 0 .l0).link 0).down = false := by
      obtain ⟨f, o, h⟩ := s.chip.setPm_same 0 .l0
      rw [h]
      exact hdown
    have hat : s.chip.atL0 0 = (s.chip.setPm 0 .l0).updLink 0 (fun k => { k with lost := false, delay := false }) :=
      Chip.linkDown_same hd
    rw [Chip.choose_waiting (by rw [Chip.atL0_boot]; exact hmode) (by rw [Chip.atL0_boot]; exact hchosen), hat, hlost']
    rfl
  case fallback =>
    exact next_act (if_pos ⟨hmode, hchosen, hoff⟩)

/-! ### One instance -/

theorem Chip.triggerReset_active (back : InstSt → InstSt) (h : (c.inst n).st = .active) :
    c.triggerReset n back = c.startReset n (back .active) := by
  simp only [Chip.triggerReset, h]

theorem Chip.vfDisable_active (hpf : c.isPf n = false) (hst : (c.inst n).st = .active) (hvf : (c.inst n).vfOn = true) :
    c.vfDisable n = (c.updInst n (fun x => { x with vfOn := false })).startReset n .created := by
  simp [Chip.vfDisable, hpf, hvf, hst]

theorem Chip.vfEnable_created (hpf : c.isPf n = false) (hst : (c.inst n).st = .created) :
    c.vfEnable n = c.updInst n Inst.enabled := by
  simp only [Chip.vfEnable, hpf, Bool.false_eq_true, if_false]
  exact Chip.updInst_congr _ _ _ _ (if_pos hst)

/-- Settles O10. -/
theorem instanceResetTriggers : Obligations.InstanceResetTriggers := by
  intro s i n
  refine ⟨fun hst => next_act ?flr, fun hpf hst hvf => next_act (Chip.vfDisable_active hpf hst hvf),
    fun hpf hst => next_act (Chip.vfEnable_created hpf hst), fun hst => next_act (if_pos hst)⟩
  case flr => exact congrArg (fun d : Chip => d.updInst n _) (Chip.triggerReset_active id hst)

end Sys2Proof.Machine
end

/-! Ring registers, producer doorbells, what host memory answers, and register writes (R4, R50 to R56, R71, R78 to R84). -/
section

namespace Sys2Proof.Machine

variable {s : State} {c : Chip} {n k key : Nat} {val : Word}

/-! ### Ring registers -/

/-- A write in the page of an instance that answers reaches the register (R236). -/
theorem Chip.page_on (f : Chip → Chip) (h : (c.inst n).pageOn = true) : c.page n f = f (c.paged n) :=
  if_pos (by rw [← Chip.inst_paged (n := n) n] at h; exact h)

theorem Chip.tellOrphans_off (h : (c.inst n).cmdEn = false) : c.tellOrphans n = c := by simp [Chip.tellOrphans, h]

theorem Chip.cmdSize_enable (hon : (c.inst n).pageOn = true) (hen : (c.inst n).cmdEn = false) (hv : bitAt val 31 = true) :
    c.cmdSize n val = (c.updInst n (fun x => { x with
      cmdLog2 := newLog2 x.cmdLog2 false val, cmdEn := true, cmdProd := 0, cmdCons := 0, cmdNext := 0, cmdHalted := false
      cmds := x.cmds.map (fun m => { m with old := true }) })).tellOrphans n := by
  simp only [Chip.cmdSize, hon, hv]
  exact congrArg (fun d : Chip => d.tellOrphans n) (Chip.updInst_congr _ _ _ _ (by simp [hen]))

theorem Chip.cmdSize_disable (hon : (c.inst n).pageOn = true) (hen : (c.inst n).cmdEn = true) (hv : bitAt val 31 = false) :
    c.cmdSize n val = c.updInst n (fun x => { x with
      cmdLog2 := x.cmdLog2, cmdEn := false, cmdDead := x.cmdDead + x.cmdReads, cmdReads := 0 }) := by
  have hupd : c.cmdSize n val = (c.updInst n (fun x => { x with
      cmdLog2 := x.cmdLog2, cmdEn := false, cmdDead := x.cmdDead + x.cmdReads, cmdReads := 0 })).tellOrphans n := by
    simp only [Chip.cmdSize, hon, hv]
    exact congrArg (fun d : Chip => d.tellOrphans n) (Chip.updInst_congr _ _ _ _ (by simp [hen, newLog2]))
  rw [hupd]
  exact Chip.tellOrphans_off (by simp)

theorem Inst.updCring_congr {x : Inst} {f g : CRing → CRing} (h : f (x.cring k) = g (x.cring k)) : x.updCring k f = x.updCring k g := by
  unfold Inst.updCring Tbl.upd
  rw [show f (Tbl.get ({} : CRing) x.crings k) = g (Tbl.get ({} : CRing) x.crings k) from h]

theorem Chip.cringSize_enable (hon : (c.inst n).pageOn = true) (hlive : ((c.inst n).cring 0).live = false) (hv : bitAt val 31 = true) :
    c.cringSize n val = ((c.updInst n (fun x => x.updCring 0 (fun r => { r with
      log2 := newLog2 r.log2 false val, live := true, base := x.cring0Base, prod := 0, cons := 0, phase := true, halted := false
      }))).ringRoom n 0).tellOrphans n := by
  simp only [Chip.cringSize, hon, hv, hlive, Bool.not_true, Bool.false_eq_true, if_false, Bool.not_false, Bool.and_self, if_true]
  refine congrArg (fun d : Chip => (d.ringRoom n 0).tellOrphans n) (Chip.updInst_congr _ _ _ _ ?_)
  exact Inst.updCring_congr (by simp [hlive])

theorem Chip.instCtl_clear (hon : (c.inst n).pageOn = true) (hc : (c.inst n).compat = true) (hv : bitAt val 0 = false)
    (hfree : (c.inst n).compatFree = true) : c.instCtl n val = c.updInst n (fun x => { x with compat := false }) := by
  simp [Chip.instCtl, hon, hc, hv, hfree]

/-- HUDDLE_CTL takes its fields; a reserved 0 keeps what it would set (R81). -/
def Huddle.set (h : Huddle) (val : Word) : Huddle where
  count := if fld val 7 0 = 0 then h.count else BitVec.ofNat 8 (fld val 7 0)
  time := if fld val 23 8 = 0 then h.time else BitVec.ofNat 16 (fld val 23 8)
  urgent := bitAt val 24
  idleCancel := bitAt val 25

theorem Chip.huddleCtl_uncounted (hon : (c.inst n).pageOn = true) (hc : (c.inst n).compat = false)
    (hcount : ((c.inst n).cring k).count = 0) :
    c.huddleCtl n k val = c.updInst n (fun x => { x with huddle := Tbl.set {} x.huddle k ((x.hud k).set val) }) := by
  have hring : ((c.updInst n (fun x => { x with huddle := Tbl.set {} x.huddle k (((c.inst n).hud k).set val) })).inst n).cring k
      = (c.inst n).cring k := by
    rw [Chip.inst_updInst_same]
    rfl
  have hupd : c.huddleCtl n k val
      = c.updInst n (fun x => { x with huddle := Tbl.set {} x.huddle k (((c.inst n).hud k).set val) }) := by
    unfold Chip.huddleCtl
    dsimp only
    rw [if_neg (by simp [hon, hc]), if_neg]
    · rfl
    · intro h
      have hpos : 0 < (((c.updInst n (fun x => { x with huddle := Tbl.set {} x.huddle k (((c.inst n).hud k).set val) })).inst n).cring
        k).count := h.1
      rw [hring] at hpos
      omega
  rw [hupd]
  exact Chip.updInst_congr _ _ _ _ rfl

/-- Where no message is pending, lifting a mask sends none. -/
theorem IW.sendPending_none (w : IW) (n : Nat) (h : w.x.pend = 0) : w.sendPending n = w := by
  unfold IW.sendPending
  refine List.foldlRecOn (motive := fun v => v = w) _ _ rfl fun v hv e _ => ?_
  rw [hv, h]
  simp [bitAt]

theorem Chip.unmask_quiet (h : (c.inst n).pend = 0) : c.unmask n none = c.updInst n (fun x => { x with fmask := false }) := by
  unfold Chip.unmask Chip.onInst
  dsimp only
  rw [IW.sendPending_none _ _ (by exact h)]
  rfl

/-- Settles O18. -/
theorem ringRegistersAct : Obligations.RingRegistersAct := by
  intro s i val n c hon
  have hinst : c.inst n = s.chip.inst n := Chip.inst_paged (n := n) n
  rw [← hinst] at hon ⊢
  have hpage (f : Chip → Chip) {d : Chip} (h : f c = d) : s.chip.page n f = d := by
    rw [Chip.page_on f (by rw [← hinst]; exact hon)]
    exact h
  exact ⟨fun hen hv => next_act (hpage _ (Chip.cmdSize_enable hon hen hv)),
    fun hen hv => next_act (hpage _ (Chip.cmdSize_disable hon hen hv)),
    fun hlive hv => next_act (hpage _ (Chip.cringSize_enable hon hlive hv)),
    fun hc hv hfree => next_act (hpage _ (Chip.instCtl_clear hon hc hv hfree)),
    fun k hc hcount => next_act (hpage _ (Chip.huddleCtl_uncounted hon hc hcount)),
    fun hpend => next_act (Chip.unmask_quiet (hinst ▸ hpend))⟩

/-! ### Producer doorbells -/

theorem doorbellFault_past {size prod cons idx : Nat} (h : size ≤ idx) : doorbellFault size prod cons idx = some 1 := if_pos h

theorem doorbellFault_none {size prod cons idx : Nat} (h : idx < size) (hf : (prod + size - cons) % size ≤ (idx + size - cons) % size) :
    doorbellFault size prod cons idx = none := by
  unfold doorbellFault
  rw [if_neg (by omega), if_neg (by omega)]

theorem Chip.doorbellP_active {idx : Nat} (hst : (c.inst n).st = .active) (hk : k ≠ 0) :
    c.doorbellP n k idx =
      if !(c.ring n k).live then c.dbDiscard n (toWord (k + 2 ^ 16 * idx))
      else
        match doorbellFault (c.ring n k).size (c.ring n k).prod (c.ring n k).cons idx with
        | some cause => c.ringFault n k cause ccRingErr
        | none =>
          if idx = (c.ring n k).prod then c
          else
            if (c.ring n k).halted then c.updRing n k (fun r => { r with prod := idx })
            else (c.updRing n k (fun r => { r with prod := idx })).runRing n k := by
  rw [Chip.doorbellP, Chip.atDoorbell_active _ hst]
  exact if_neg hk

theorem Chip.doorbellP_command {idx : Nat} (hst : (c.inst n).st = .active) : c.doorbellP n 0 idx = c.cmdDoorbell n idx := by
  rw [Chip.doorbellP, Chip.atDoorbell_active _ hst]
  rfl

theorem BitVec.toNat_ne_zero_of_ne {w : Nat} {k : BitVec w} (h : k ≠ 0) : k.toNat ≠ 0 := fun h0 =>
  h (BitVec.eq_of_toNat_eq (by simpa using h0))

/-- Settles O19. -/
theorem producerDoorbells : Obligations.ProducerDoorbells := by
  intro s i idx n x size hst
  refine ⟨fun hen hidx hfwd => next_act ?forward, fun hen hidx => next_act ?past, fun hen => next_act ?off,
    fun k hk hlive hhalt hidx hne hfwd => next_act ?halted, fun k hk hlive => next_act ?none⟩
  case forward =>
    refine (Chip.doorbellP_command hst).trans ?_
    rw [Chip.cmdDoorbell, if_neg (by simp [show (s.chip.inst n).cmdEn = true from hen])]
    rw [show doorbellFault _ _ _ _ = none from doorbellFault_none hidx hfwd]
  case past =>
    refine (Chip.doorbellP_command hst).trans ?_
    rw [Chip.cmdDoorbell, if_neg (by simp [show (s.chip.inst n).cmdEn = true from hen])]
    rw [show doorbellFault _ _ _ _ = some 1 from doorbellFault_past hidx]
    rfl
  case off =>
    refine (Chip.doorbellP_command hst).trans ?_
    exact if_pos (by simp [show (s.chip.inst n).cmdEn = false from hen])
  case halted =>
    refine (Chip.doorbellP_active hst (BitVec.toNat_ne_zero_of_ne hk)).trans ?_
    rw [if_neg (by simp [hlive]), doorbellFault_none hidx hfwd]
    exact (if_neg hne).trans (if_pos hhalt)
  case none =>
    refine (Chip.doorbellP_active hst (BitVec.toNat_ne_zero_of_ne hk)).trans ?_
    exact if_pos (by simp [hlive])

/-! ### What host memory answers -/

theorem Chip.elemDone_ok {raw : List Byte} (hdead : (c.ring n k).dead = 0) (hreads : 0 < (c.ring n k).reads) :
    c.elemDone n k .ok raw =
      (((c.updRing n k (fun t => { t with reads := t.reads - 1 })).updRing n k (fun t => { t with elems := t.elems ++
        [{ (c.updRing n k (fun t => { t with reads := t.reads - 1 })).parseElem n k raw with
          entry := (c.ring n k).entryAt (c.ring n k).elems.length, at_ := c.us }] })).stirRing n k) := by
  unfold Chip.elemDone
  dsimp only
  rw [if_neg (by omega), if_neg (by omega)]
  rfl

theorem Chip.cmdElemDone_ok {raw : List Byte} {tag : BitVec 16} {m : CmdKind} {par : BitVec 192} (hdead : (c.inst n).cmdDead = 0)
    (hreads : 0 < (c.inst n).cmdReads) (hparse : parseCmd (c.inst n).compat raw = (tag, some (m, par))) :
    c.cmdElemDone n .ok raw = (c.updInst n (fun x => { x with cmdReads := x.cmdReads - 1 })).pushCmd n tag m par .fetched := by
  unfold Chip.cmdElemDone
  dsimp only
  rw [if_neg (by omega), if_neg (by omega), if_pos rfl, hparse]

theorem Ep.landed_sole {e : Ep} {f : Flight} {out : Bool} (h : e.flights = [f]) (hout : f.out = out) : e.landed out = some (f, []) := by
  simp [Ep.landed, h, hout, dropFirst]

theorem Chip.outRead_staged {f : Flight} (hf : (c.ep key).flights = [f]) (hout : f.out = true)
    (hcur : c.current key f.inst f.epoch f.gen = true) (hfar : farKey (keySlot key) = false) (hst : (c.ep key).staging = true) :
    c.outRead key .ok = (c.updEp key (fun e => { e with flights := [], staging := false, staged := true })).released key f.inst := by
  simp [Chip.outRead, Ep.landed_sole hf hout, hcur, hfar, hst, Chip.updEp_updEp]

theorem Chip.outRead_stale {f : Flight} (hf : (c.ep key).flights = [f]) (hout : f.out = true)
    (hcur : c.current key f.inst f.epoch f.gen = false) :
    c.outRead key .ok = ((c.updEp key (fun e => { e with flights := [] })).countDrops f.inst 1).released key f.inst := by
  simp [Chip.outRead, Ep.landed_sole hf hout, hcur]

theorem Chip.confirmRead_last {f : Flight} {t : DoneTd} (hf : (c.ep key).flights = [f]) (hout : f.out = false)
    (hcur : c.current key f.inst f.epoch f.gen = true) (hdone : (c.ep key).done = [t]) (hconf : t.confirming = true)
    (hearly : t.early = none) :
    c.confirmRead key .ok =
      (c.updEp key (fun e => { e with flights := [], done := [{ t with confirming := false }] })).released key f.inst := by
  have hok : t.confirm true = { t with confirming := false } := by simp [DoneTd.confirm, hearly]
  have hdone' : ((c.updEp key (fun e => { e with flights := [] })).ep key).done = [t] := by simpa using hdone
  have hconfirmed : (c.updEp key (fun e => { e with flights := [] })).confirmed key .ok
      = c.updEp key (fun e => { e with flights := [], done := [{ t with confirming := false }] }) := by
    simp only [Chip.confirmed, hdone', List.find?_cons, hconf, beq_self_eq_true, hok]
    rw [if_neg (by simp), Chip.updEp_updEp]
    exact Chip.updEp_congr _ _ _ _ (by simp [hdone, updFirst, hconf, hok])
  simp only [Chip.confirmRead, Ep.landed_sole hf hout, hcur, if_true, hconfirmed]

theorem Chip.readback_ok {a : Addr} {t : List Addr} (h : ((c.inst n).cring k).reads = a :: t) :
    c.readback n k .ok = c.updInst n (fun x => x.updCring k (fun q => { q with reads := t })) := by
  simp only [Chip.readback, h, if_true]

theorem Inst.updCring_updCring (x : Inst) (k : Nat) (f g : CRing → CRing) :
    (x.updCring k f).updCring k g = x.updCring k (fun r => g (f r)) := by
  simp [Inst.updCring, Tbl.upd]

theorem Chip.readback_failed {a : Addr} {t : List Addr} {r : ReadEnd} (h : ((c.inst n).cring k).reads = a :: t) (hr : r ≠ .ok)
    (hk : k ≠ 0) :
    c.readback n k r
      = (c.updInst n (fun x => { x.updCring k (fun q => { q with reads := t, halted := true }) with errAddr := a })).event n
          evError noSubject (toWord (0x02 + 2 ^ 8 * k)) 0 := by
  simp only [Chip.readback, h, if_neg hr, if_neg hk, Chip.updInst_updInst]
  refine congrArg (fun d : Chip => d.event n evError noSubject _ 0) (Chip.updInst_congr _ _ _ _ ?_)
  simp only [Inst.updCring_updCring]

/-- Settles O21. -/
theorem hostMemoryAnswersAct : Obligations.HostMemoryAnswersAct := by
  intro s i n x
  refine ⟨fun k raw hk hdead hreads => next_act ?elem, fun raw tag m par hdead hreads hparse => next_act ?cmd,
    fun slot ep f => ?out, fun slot ep f t => ?confirm,
    fun k a t h => ⟨next_act (Chip.readback_ok h), fun r hr hk => next_act (Chip.readback_failed h hr (Fin.val_ne_zero_iff.2 hk))⟩,
    fun k htimer => ?timer⟩
  case elem => exact (if_neg (BitVec.toNat_ne_zero_of_ne hk)).trans (Chip.elemDone_ok hdead hreads)
  case cmd => exact Chip.cmdElemDone_ok hdead hreads hparse
  case out =>
    intro key hf hout
    exact ⟨fun hcur hfar hst => next_act (Chip.outRead_staged hf hout hcur hfar hst),
      fun hcur => next_act (Chip.outRead_stale hf hout hcur)⟩
  case confirm =>
    intro key hf hout hcur hdone hconf hearly c
    have hread := Chip.confirmRead_last hf hout hcur hdone hconf hearly
    exact next_act (by simp only [Chip.confirmDone]; rw [hread])
  case timer =>
    refine ⟨fun hst => next_act ?running, fun hst => next_act ?phase1, fun j hst hj => next_act ?phase2⟩
    all_goals simp only [Chip.huddleTimer, show ((s.chip.inst n).cring k.val).timer = true from htimer, n]
    case running => rcases hst with hst | hst <;> simp [hst]
    case phase1 => simp [hst]
    case phase2 => simp [hst, hj]

/-! ### Register writes -/

theorem State.hostWrite_narrow (s : State) (n : Fin 128) (bar off : Nat) (v : BitVec 64) (size : Nat)
    (h : off % 4 ≠ 0 ∨ (size ≠ 4 ∧ size ≠ 8)) : s.hostWrite n bar off v size = s := by
  unfold State.hostWrite
  split
  case isTrue => rfl
  case isFalse hal =>
    obtain ⟨h4, h8⟩ := h.resolve_left hal
    rw [if_neg h4, if_neg h8]

/-- A 32-bit write at an aligned offset of a BAR that the function has. -/
theorem exec_registerWrite_word (s : State) (n : Fin 128) (bar : BitVec 3) (off val : Word)
    (h : off.toNat < s.chip.barSize n.val bar.toNat) (hal : off.toNat % 4 = 0) :
    exec (.registerWrite (.fn n) bar off (val.setWidth 64) 4) s = .next (s.hostWord n bar.toNat off.toNat val).settled := by
  rw [exec_registerWrite_fn _ _ _ _ _ _ h, State.hostWrite_word _ _ _ _ _ hal]

/-- The doorbell register of BAR2. -/
theorem exec_registerWrite_doorbell (s : State) (n : Fin 128) (val : Word) :
    exec (.registerWrite (.fn n) 2 0 (val.setWidth 64) 4) s = .next (s.onward (s.chip.doorbell n.val val)) :=
  exec_registerWrite_word s n 2 0 val (by show 0 < 0x1000; omega) rfl

theorem Chip.pageSet_cmdSize (c : Chip) (n : Nat) (v : Word) (hn : n ≠ 0) :
    c.pageSet n 0x108 v false = c.page n (fun c => c.cmdSize n v) := by
  unfold Chip.pageSet Chip.page
  rw [if_neg hn]
  cases h : (c.inst n).pageOn <;> simp [h]

/-- The ring that a doorbell names, and its index, fit their fields. -/
theorem toNat_doorbellRing (v : Word) : (BitVec.ofNat 15 (fld v 14 0)).toNat = fld v 14 0 := Nat.mod_eq_of_lt (fld_lt v 14 0)
theorem toNat_doorbellIndex (v : Word) : (BitVec.ofNat 16 (fld v 31 16)).toNat = fld v 31 16 := Nat.mod_eq_of_lt (fld_lt v 31 16)

/-- BAR0 of PF0 holds the setup registers. -/
theorem State.hostWord_pf0 (s : State) (off : Nat) (v : Word) :
    s.hostWord 0 (0 : BitVec 3).toNat off v = s.setupWrite (.fn 0) off v := rfl

/-- MGR_ARG0 is a setup register of its own. -/
theorem Chip.setupSet_arg0 (c : Chip) (m : Memory) (w : Writer) (v : Word) :
    c.setupSet m w 0x404 v = { c with mgr := { c.mgr with arg0 := v } } := rfl

theorem State.setupWrite_reg (s : State) (w : Writer) {off : Nat} (v : Word) (hm : s.chip.isMgr w = true) (hoff : off < 0x8000)
    (hkey : off ≠ 0x5000) : s.setupWrite w off v = ({ s with chip := s.chip.spinBreak } : State).put
      (s.chip.spinBreak.setupSet s.stage w off v) := by
  have hm' : s.chip.spinBreak.isMgr w = true := hm
  unfold State.setupWrite
  simp only [hkey, if_false, show ¬ 0xC000 ≤ off by omega, hm', Bool.not_true, Bool.false_eq_true, show ¬ 0x8000 ≤ off by omega]

/-- Another writer's write of a setup register only ends the sequence of SPIN_KEY (R242, R419). -/
theorem State.setupWrite_foreign (s : State) (w : Writer) {off : Nat} (v : Word) (hm : s.chip.isMgr w = false) (hoff : off < 0xC000)
    (hkey : off ≠ 0x5000) : s.setupWrite w off v = { s with chip := s.chip.spinBreak } := by
  have hm' : s.chip.spinBreak.isMgr w = false := hm
  unfold State.setupWrite
  simp only [hkey, if_false, show ¬ 0xC000 ≤ off by omega, hm', Bool.not_false, if_true]

/-- Settles O22: a write acts as the row that names its register, or not at all. -/
theorem registerWritesAct : Obligations.RegisterWritesAct := by
  intro s n off val v64 size
  refine ⟨fun hbar hbad => ?narrow, fun hbit => ?producer, fun hbit => ?consumer, fun hpf => ?ringSize, fun hm hpll => ?arg0,
    fun hsel hlo hal hkey => ?foreign⟩
  case narrow => rw [exec_registerWrite_fn _ _ _ _ _ _ hbar, State.hostWrite_narrow _ _ _ _ _ _ hbad]
  case producer =>
    rw [exec_registerWrite_doorbell, Chip.doorbell, hbit]
    refine (next_act ?_).symm
    rw [toNat_doorbellRing, toNat_doorbellIndex]
    rfl
  case consumer =>
    rw [exec_registerWrite_doorbell, Chip.doorbell, hbit, exec_doorbellConsumer, toNat_doorbellRing, toNat_doorbellIndex]
    rfl
  case ringSize =>
    have hn : n.val ≠ 0 := by
      rintro h0
      simp [Chip.isPf, h0] at hpf
    have hbar : (0x108 : Word).toNat < s.chip.barSize n.val (0 : BitVec 3).toNat := by
      simp [Chip.barSize, hpf]
    have hword : s.hostWord n (0 : BitVec 3).toNat (0x108 : Word).toNat val
        = { s with chip := s.chip.pageSet n.val 0x108 val false } := by
      simp [State.hostWord, hn, hpf]
    rw [exec_registerWrite_word _ _ _ _ _ hbar rfl, hword, Chip.pageSet_cmdSize _ _ _ hn]
    rfl
  case arg0 =>
    have hbar : (0x404 : Word).toNat < s.chip.barSize (0 : Fin 128).val (0 : BitVec 3).toNat := by
      show 0x404 < 0x10000
      omega
    have hword : s.hostWord 0 (0 : BitVec 3).toNat (0x404 : Word).toNat val
        = { s with chip := { s.chip.spinBreak with mgr := { s.chip.mgr with arg0 := val } } } := by
      rw [State.hostWord_pf0, show (0x404 : Word).toNat = 0x404 by decide,
        State.setupWrite_reg _ _ _ hm (by omega) (by omega), Chip.setupSet_arg0]
      simp [State.put, hpll]
    rw [exec_registerWrite_word _ _ _ _ _ hbar rfl, hword]
    rfl
  case foreign =>
    have hbar : off.toNat < s.chip.barSize (0 : Fin 128).val (0 : BitVec 3).toNat := by
      show off.toNat < 0x10000
      omega
    have hm : s.chip.isMgr (.fn 0) = false := by simp [Chip.isMgr, hsel]
    have hword : s.hostWord 0 (0 : BitVec 3).toNat off.toNat val = { s with chip := s.chip.spinBreak } := by
      rw [State.hostWord_pf0, State.setupWrite_foreign _ _ _ hm (by omega) hkey]
    rw [exec_registerWrite_word _ _ _ _ _ hbar hal, hword]
    rfl

end Sys2Proof.Machine
end

/-! Manager commands (R115 to R119, R177, R183, R236, R242, R252 to R256). -/
section

namespace Sys2Proof.Machine

variable {s : State} {c : Chip} {w : Writer} {n : Nat}

/-! ### A write of MGR_CMD -/

theorem Chip.mgrCmd_foreign (o : Bool) (act : Chip → Nat → Chip) (hm : c.isMgr w = false) : c.mgrCmd w o act = c := by
  simp [Chip.mgrCmd, Chip.byMgr, hm]

theorem Chip.mgrCmd_late (act : Chip → Nat → Chip) (hm : c.isMgr w = true) (hb : c.mgr.busy = true) :
    c.mgrCmd w false act = { c with mgr := { c.mgr with overrun := true } } := by
  simp [Chip.mgrCmd, Chip.byMgr, hm, hb]

theorem Chip.mgrCmd_overtakes (act : Chip → Nat → Chip) (hm : c.isMgr w = true) :
    c.mgrCmd w true act = act c.mgrAbort.mgrBegin c.mgrAbort.mgrBegin.mgr.ticket := by
  simp [Chip.mgrCmd, Chip.byMgr, hm]

theorem Chip.fwCmd_foreign {op : Nat} {a0 a1 a2 a3 : Word} {act : Chip → Nat → Chip} (hm : c.isMgr w = false) :
    c.fwCmd w op a0 a1 a2 a3 act = c := Chip.mgrCmd_foreign _ _ hm

theorem Chip.fwCmd_late {op : Nat} {a0 a1 a2 a3 : Word} {act : Chip → Nat → Chip} (hm : c.isMgr w = true) (hb : c.mgr.busy = true) :
    c.fwCmd w op a0 a1 a2 a3 act = { c with mgr := { c.mgr with overrun := true } } := Chip.mgrCmd_late _ hm hb

/-- Settles O13. -/
theorem managerBusyAndForeignWrites : Obligations.ManagerBusyAndForeignWrites := by
  intro s w
  refine ⟨fun hm => ?foreign, fun hm hb => ?busy⟩
  case foreign =>
    have hm' : s.chip.spinBreak.isMgr w = false := hm
    exact ⟨next_act (Chip.fwCmd_foreign hm'), next_act (Chip.fwCmd_foreign hm'), next_act (Chip.mgrCmd_foreign _ _ hm'),
      next_act (Chip.mgrCmd_foreign _ _ hm')⟩
  case busy =>
    intro late
    have hm' : s.chip.spinBreak.isMgr w = true := hm
    exact ⟨next_act (Chip.fwCmd_late hm' hb), next_act (Chip.fwCmd_late hm' hb), next_act (Chip.fwCmd_late hm' hb),
      next_act (Chip.mgrCmd_late _ hm' hb), next_act (Chip.mgrCmd_overtakes _ hm')⟩

/-! ### Firmware-executed commands -/

/-- A command that has begun changes MGR_STS, the numbering and the free values alone. -/
theorem Chip.mgrBegun_frame (c : Chip) (op : Nat) : ∃ m fr, c.mgrBegun op = { c.spinBreak with mgr := m, ids := c.ids + 1, free := fr }
    ∧ m.arg0 = c.mgr.arg0 ∧ m.arg1 = c.mgr.arg1 ∧ m.arg2 = c.mgr.arg2 ∧ m.arg3 = c.mgr.arg3 ∧ m.ticket = c.ids ∧ m.busy = true
    ∧ m.ie = c.mgr.ie := by
  obtain ⟨fr, h⟩ := c.spinBreak.mgrBegin.dispatch_frame (32 + op)
  unfold Chip.mgrBegun
  dsimp only
  rw [h]
  exact ⟨_, fr, rfl, rfl, rfl, rfl, rfl, rfl, rfl, rfl⟩

/-- A firmware-executed command whose arguments have no reserved bit begins (R116, R117). -/
theorem Chip.fwCmd_runs {op : Nat} {a0 a1 a2 a3 : Word} (act : Chip → Nat → Chip) (hm : c.isMgr w = true) (hb : c.mgr.busy = false)
    (hfw : c.boot.fwRunning = true) (hrel : c.rel.suspended = 0) (hargs : c.mgr.argsOk a0 a1 a2 a3 = true) :
    c.spinBreak.fwCmd w op a0 a1 a2 a3 act = act (c.mgrBegun op) c.ids := by
  have hbegin : c.spinBreak.fwCmd w op a0 a1 a2 a3 act = _ :=
    Chip.mgrCmd_begins (c := c.spinBreak) false _ hm hb
  have hfw' : c.spinBreak.mgrBegin.boot.fwRunning = true := hfw
  have hargs' : c.spinBreak.mgrBegin.mgr.argsOk a0 a1 a2 a3 = true := hargs
  have hdown : c.spinBreak.mgrBegin.roleDown (32 + op) = false := Chip.roleDown_none hrel _
  rw [hbegin]
  simp only [hfw', hargs', hdown, Bool.not_true, Bool.false_eq_true, if_false]
  rfl

end Sys2Proof.Machine
end

/-! # The manager's settings: assignment, weights and rates, freezing (R119, R177, R183, R236, R252, R253) -/

section

namespace Sys2Proof.Machine

variable {s : State} {c : Chip} {w : Writer} {n : Nat}

/-- What does not depend on MGR_STS, the Spin registers, the numbering and the free values is as before the command began. -/
theorem Chip.mgrBegun_same {α : Type} (f : Chip → α) (h : ∀ (c : Chip) m sp i fr, f { c with mgr := m, spin := sp, ids := i, free := fr } = f c)
    (c : Chip) (op : Nat) : f (c.mgrBegun op) = f c := by
  obtain ⟨m, fr, heq, -⟩ := c.mgrBegun_frame op
  rw [heq]
  exact h c m c.spinBreak.spin (c.ids + 1) fr

@[simp] theorem Chip.mgrBegun_arg0 (c : Chip) (op : Nat) : (c.mgrBegun op).mgr.arg0 = c.mgr.arg0 := by
  obtain ⟨m, fr, heq, h, -⟩ := c.mgrBegun_frame op
  rw [heq, ← h]
@[simp] theorem Chip.mgrBegun_arg1 (c : Chip) (op : Nat) : (c.mgrBegun op).mgr.arg1 = c.mgr.arg1 := by
  obtain ⟨m, fr, heq, -, h, -⟩ := c.mgrBegun_frame op
  rw [heq, ← h]
@[simp] theorem Chip.mgrBegun_arg2 (c : Chip) (op : Nat) : (c.mgrBegun op).mgr.arg2 = c.mgr.arg2 := by
  obtain ⟨m, fr, heq, -, -, h, -⟩ := c.mgrBegun_frame op
  rw [heq, ← h]
@[simp] theorem Chip.mgrBegun_arg3 (c : Chip) (op : Nat) : (c.mgrBegun op).mgr.arg3 = c.mgr.arg3 := by
  obtain ⟨m, fr, heq, -, -, -, h, -⟩ := c.mgrBegun_frame op
  rw [heq, ← h]
@[simp] theorem Chip.mgrBegun_mgrInst (c : Chip) (op : Nat) : (c.mgrBegun op).mgr.inst = c.mgr.inst := by simp [Mgr.inst]
@[simp] theorem Chip.mgrBegun_sizes (c : Chip) (op : Nat) : (c.mgrBegun op).mgr.sizes = c.mgr.sizes := by simp [Mgr.sizes]
@[simp] theorem Chip.inst_mgrBegun (c : Chip) (op j : Nat) : (c.mgrBegun op).inst j = c.inst j :=
  Chip.mgrBegun_same (fun c => c.inst j) (fun _ _ _ _ _ => rfl) c op
@[simp] theorem Chip.slot_mgrBegun (c : Chip) (op j : Nat) : (c.mgrBegun op).slot j = c.slot j :=
  Chip.mgrBegun_same (fun c => c.slot j) (fun _ _ _ _ _ => rfl) c op
@[simp] theorem Chip.nodeNo_mgrBegun (c : Chip) (op : Nat) : (c.mgrBegun op).nodeNo = c.nodeNo :=
  Chip.mgrBegun_same (fun c => c.nodeNo) (fun _ _ _ _ _ => rfl) c op
@[simp] theorem Chip.ringHome_mgrBegun (c : Chip) (op j : Nat) : (c.mgrBegun op).ringHome j = c.ringHome j :=
  Chip.mgrBegun_same (fun c => c.ringHome j) (fun _ _ _ _ _ => rfl) c op
@[simp] theorem Chip.assigned_mgrBegun (c : Chip) (op p owner : Nat) (pass : Bool) :
    (c.mgrBegun op).assigned p owner pass = c.assigned p owner pass :=
  Chip.mgrBegun_same (fun c => c.assigned p owner pass) (fun _ _ _ _ _ => rfl) c op
@[simp] theorem Chip.portRefused_mgrBegun (c : Chip) (op p owner : Nat) (pass keep : Bool) :
    (c.mgrBegun op).portRefused p owner pass keep = c.portRefused p owner pass keep :=
  Chip.mgrBegun_same (fun c => c.portRefused p owner pass keep) (fun _ _ _ _ _ => rfl) c op
@[simp] theorem Chip.slotRefused_mgrBegun (c : Chip) (op sk owner : Nat) : (c.mgrBegun op).slotRefused sk owner = c.slotRefused sk owner :=
  Chip.mgrBegun_same (fun c => c.slotRefused sk owner) (fun _ _ _ _ _ => rfl) c op
@[simp] theorem Chip.connSlots_mgrBegun (c : Chip) (op p : Nat) : (c.mgrBegun op).connSlots p = c.connSlots p :=
  Chip.mgrBegun_same (fun c => c.connSlots p) (fun _ _ _ _ _ => rfl) c op
@[simp] theorem Chip.unreserved_mgrBegun (c : Chip) (op : Nat) : (c.mgrBegun op).unreserved = c.unreserved :=
  Chip.mgrBegun_same (fun c => c.unreserved) (fun _ _ _ _ _ => rfl) c op
@[simp] theorem Chip.use_mgrBegun (c : Chip) (op j : Nat) : (c.mgrBegun op).use j = c.use j :=
  Chip.mgrBegun_same (fun c => c.use j) (fun _ _ _ _ _ => rfl) c op
@[simp] theorem Chip.isPf_mgrBegun (c : Chip) (op j : Nat) : (c.mgrBegun op).isPf j = c.isPf j :=
  Chip.mgrBegun_same (fun c => c.isPf j) (fun _ _ _ _ _ => rfl) c op

/-- FREEZE or THAW of an instance that is there (R119). -/
theorem Chip.mgrFreeze_runs (hm : c.isMgr w = true) (hb : c.mgr.busy = false) (hargs : c.mgr.argsOk 0x1FF 0 0 0 = true)
    (hn : fld c.mgr.arg0 7 0 ≤ 127) (hst : (c.inst (fld c.mgr.arg0 7 0)).st ≠ .absent) :
    c.mgrFreeze w = (c.mgrBegin.freezeInst (fld c.mgr.arg0 7 0) (bitAt c.mgr.arg0 8)).mgrDone c.ids ccSuccess 0 := by
  have hargs' : c.mgrBegin.mgr.argsOk 0x1FF 0 0 0 = true := hargs
  have hone : fld c.mgr.arg0 7 0 ≠ 0xFF := by omega
  have hrefused : c.mgrBegin.freezeRefused (fld c.mgrBegin.mgr.arg0 7 0) = none :=
    (if_neg hone).trans ((if_neg (Nat.not_lt.mpr hn)).trans (if_neg hst))
  have htarget : c.mgrBegin.freezeTarget (fld c.mgr.arg0 7 0) (bitAt c.mgr.arg0 8) = c.mgrBegin.freezeInst (fld c.mgr.arg0 7 0) (bitAt c.mgr.arg0 8) :=
    if_neg hone
  rw [Chip.mgrFreeze, Chip.mgrCmd_begins _ _ hm hb, ← htarget]
  simp only [hargs', hrefused, Bool.not_true, Bool.false_eq_true, if_false]
  rfl

/-- Settles O15: each command, once begun, is the act of its opcode. -/
theorem settingsAndFreezing : Obligations.SettingsAndFreezing := by
  refine ⟨?cmds, ?freezing⟩
  case cmds =>
    intro s w hm hb hfw hrel hst n c
    refine ⟨?port, ?device, ?weight, ?rates⟩
    case port =>
      intro hargs hn hpass hun hlt hnode b hb' hassigned href
      refine next_act ((Chip.fwCmd_runs _ hm hb hfw hrel hargs).trans ?_)
      have hst' : ¬ (s.chip.inst s.chip.mgr.inst).st = .absent := hst
      have hn' : ¬ s.chip.mgr.inst = 127 := hn
      simp [hpass, hun, hlt, hnode, hb', hassigned, href, hst', hn', c, n, Chip.assignPort]
    case device =>
      intro hargs hnode sk href hhome hleave
      refine next_act ((Chip.fwCmd_runs _ hm hb hfw hrel hargs).trans ?_)
      simp [hnode, sk, href, hhome, hleave, c, n, Chip.assignSlot, hst]
    case weight =>
      intro hargs hpos hmax bs hbs
      refine next_act ((Chip.fwCmd_runs _ hm hb hfw hrel hargs).trans ?_)
      have hbs' : busesNamed (fld s.chip.mgr.arg0 15 8) = some bs := hbs
      simp [hbs', hpos, hmax, c, n, hst]
    case rates =>
      intro hargs bs hbs
      refine next_act ((Chip.fwCmd_runs _ hm hb hfw hrel hargs).trans ?_)
      have hbs' : busesNamed (fld s.chip.mgr.arg0 15 8) = some bs := hbs
      simp only [Chip.mgrBegun_mgrInst, Chip.inst_mgrBegun, hst, if_false, Chip.mgrBegun_arg0, Chip.mgrBegun_arg1, Chip.mgrBegun_arg2, hbs']
      cases bitAt s.chip.mgr.arg0 16 <;> rfl
  case freezing =>
    intro s w i hi hm hb hargs hn n c
    have hexec : exec i s = .next (s.act (fun c => c.spinBreak.mgrFreeze w)) := by
      rcases hi with rfl | rfl <;> rfl
    have hruns (hst : (s.chip.inst n).st ≠ .absent) := Chip.mgrFreeze_runs (c := s.chip.spinBreak) hm hb hargs hn hst
    refine ⟨fun hst hthaw => ?freeze, fun hst hthaw => ?thaw, fun op => next_act (Chip.mgrCmd_begins (c := s.chip.spinBreak) _ _ hm hb)⟩
    case freeze =>
      refine hexec.trans (next_act ((hruns (by simp [hst])).trans ?_))
      have hthaw' : bitAt s.chip.spinBreak.mgr.arg0 8 = false := hthaw
      rw [hthaw']
      exact congrArg (Chip.mgrDone · s.chip.ids ccSuccess 0) (if_pos hst)
    case thaw =>
      refine hexec.trans (next_act ((hruns (by simp [hst])).trans ?_))
      have hthaw' : bitAt s.chip.spinBreak.mgr.arg0 8 = true := hthaw
      rw [hthaw']
      exact congrArg (Chip.mgrDone · s.chip.ids ccSuccess 0) (if_pos hst)

end Sys2Proof.Machine
end

/-! # INST_CREATE, INST_RESIZE, INST_DESTROY and INST_RESET (R116 to R118, R246 to R250) -/

section

namespace Sys2Proof.Machine

variable {s : State} {c : Chip} {w : Writer} {n : Nat}

/-! ### What the end of a reset does on a node without devices -/

/-- Binding channels changes those of the instance alone. -/
theorem Chip.bindChans_frame (c : Chip) (n q : Nat) : ∃ ch, c.bindChans n q = c.updInst n (fun x => { x with chans := ch }) := by
  have hfold (bs : List (Nat × Nat)) (d : Chip) (ch : Tbl Chan) (hd : d = c.updInst n (fun x => { x with chans := ch })) :
      ∃ ch', bs.foldl (fun (c : Chip) (b : Nat × Nat) => c.updInst n (fun x => { x with
        chans := Tbl.upd {} x.chans b.1 (fun h => { h with phys := some b.2 }) })) d = c.updInst n (fun x => { x with chans := ch' }) := by
    induction bs generalizing d ch with
    | nil => exact ⟨ch, hd⟩
    | cons b bs ih =>
      refine ih _ (Tbl.upd {} ch b.1 (fun h => { h with phys := some b.2 })) ?_
      rw [hd]
      exact Chip.updInst_updInst ..
  exact hfold _ _ _ (Chip.updInst_congr _ _ _ _ rfl)

/-- Rings that are not live need no drop. -/
theorem filter_live_nil {t : Tbl Ring} (h : ∀ r ∈ t, r.2.live = false) : t.filter (fun r => r.2.live) = [] :=
  List.filter_eq_nil_iff.2 fun r hr => by simp [h r hr]

/-- Without slots nothing is behind a port, so no device is there to be dropped, moved or adopted. -/
theorem Chip.retryParked_nil (h : ∀ p < 24, (c.port p).parked = []) : c.retryParked = c := by
  have hfold (ps : List Nat) (hps : ∀ p ∈ ps, (c.port p).parked = []) :
      ps.foldl (fun (c : Chip) p => if (c.port p).parked.isEmpty then c else c.unpark p (fun x => x.reason == 4 || x.reason == 5)) c = c := by
    induction ps with
    | nil => rfl
    | cons p ps ih =>
      rw [List.foldl_cons, if_pos (by simp [hps p (by simp)])]
      exact ih fun p hp => hps p (by simp [hp])
  exact hfold _ fun p hp => h p (List.mem_range.1 hp)

theorem Chip.members_nil (h : c.shares = []) (g : Nat) : c.members g = [] := by
  have hat (i : Nat) : c.memberAt g i = none := by
    have hz : fld (0#32) (8 * (i % 4) + 7) (8 * (i % 4)) = 0 := by simp [fld]
    simp [Chip.memberAt, Chip.share, h, hz]
  simp [Chip.members, hat, dedup]

theorem Chip.memberGone_nil (h : c.shares = []) (f : Chip → Chip) : c.memberGone n f = f c := by
  simp [Chip.memberGone, Chip.members_nil h]

theorem Chip.heldNodes_none (h : c.slots = []) (hv : (c.inst n).portViews = []) : c.heldNodes n = [] := by
  simp [Chip.heldNodes, Chip.farNodes_nil h, hv, dedup]

/-- What INST_DESTROY leaves of an instance (R248). -/
def Inst.destroyed (x : Inst) : Inst :=
  { gen := x.gen, genDue := x.genDue, vfOn := x.vfOn, rings := x.rings, cmdDead := x.cmdDead, fmask := x.fmask
    chans := Tbl.mapv {} x.chans (fun _ h => { h.reset with phys := none }) }

theorem Chip.destroyInst_nil (h : c.slots = []) (hv : (c.inst n).portViews = []) (hown : ∀ p < 24, c.ownerOf p ≠ some n)
    (hshares : c.shares = []) (hparked : ∀ p < 24, (c.port p).parked = []) : c.destroyInst n = c.updInst n Inst.destroyed := by
  have hports : (List.range 24).filter (fun p => !(c.port p).pass && c.ownerOf p == some n) = [] :=
    List.filter_eq_nil_iff.2 fun p hp => by simp [hown p (List.mem_range.1 hp)]
  simp only [Chip.destroyInst, Chip.heldNodes_none h hv, List.foldl_nil, hports, Chip.ownSlots_nil h, Chip.present, List.filter_nil,
    Chip.memberGone_nil hshares]
  exact Chip.retryParked_nil (by exact hparked)

/-- The instance whose reset is over, before what joined it (R250). -/
def Chip.wasReset (c : Chip) (n : Nat) : Chip :=
  ((c.updInst n (fun x => x.afterReset (if c.isPf n then c.cap.compatDefault else x.compat))).clearQueues n).updInst n
    (fun x => { x with joinDestroy := false, inMgr := false })

theorem Chip.inst_clearQueues (c : Chip) (n : Nat) : (c.clearQueues n).inst n = { c.inst n with samples := 0 } :=
  Chip.inst_updInst_same ..

theorem Chip.resetFinish_nil (h : c.slots = []) (hn : n < 128) (hrings : ∀ r ∈ (c.inst n).rings, r.2.live = false) :
    c.resetFinish n =
      (let d := if (c.inst n).joinDestroy then (c.wasReset n).destroyInst n else c.wasReset n
      if (c.inst n).inMgr then d.mgrDone d.mgr.ticket ccSuccess (c.inst n).gen.toNat else d) := by
  have hx : ((c.updInst n (fun x => x.afterReset (if c.isPf n then c.cap.compatDefault else x.compat))).clearQueues n).inst n
      = { (c.inst n).afterReset (if c.isPf n then c.cap.compatDefault else (c.inst n).compat) with samples := 0 } := by
    rw [Chip.inst_clearQueues, Chip.inst_updInst_same]
  rw [Chip.resetFinish, if_neg (by omega)]
  simp only [filter_live_nil hrings, Chip.resetSlots_nil h, List.foldl_nil, List.flatMap_nil, hx]
  rfl

/-- Only the instance and the queues change. -/
theorem Chip.wasReset_frame (c : Chip) (n : Nat) : ∃ qs, c.wasReset n = { c with
    insts := Tbl.set {} c.insts n { (c.inst n).afterReset (if c.isPf n then c.cap.compatDefault else (c.inst n).compat) with
      samples := 0, joinDestroy := false, inMgr := false }
    queues := qs } := by
  refine ⟨(c.wasReset n).queues, ?_⟩
  simp only [Chip.wasReset, Chip.clearQueues, Chip.updInst_updInst]
  simp only [Chip.updInst, Chip.mapQueues, Tbl.upd, Tbl.set_set, Tbl.get_set_same]
  rfl

/-! ### The commands -/

/-- A change of an instance, with its queues and channels as they are then. -/
theorem Chip.madeInst_frame (c : Chip) (n k : Nat) (f : Inst → Inst) : ∃ qs ch,
    ((c.updInst n f).freshQueues n).bindChans n k =
      { c with insts := Tbl.set {} c.insts n { f (c.inst n) with chans := ch }, queues := qs } := by
  obtain ⟨ch, h⟩ := ((c.updInst n f).freshQueues n).bindChans_frame n k
  refine ⟨((c.updInst n f).freshQueues n).queues, ch, ?_⟩
  rw [h]
  simp only [Chip.updInst, Chip.freshQueues, Chip.mapQueues, Tbl.upd, Tbl.set_set, Tbl.get_set_same]
  rfl

theorem Chip.calmed_mgrBegun (op : Nat) (h : c.calmed = true) : (c.mgrBegun op).calmed = true :=
  (Chip.mgrBegun_same (fun c => c.calmed) (fun _ _ _ _ _ => rfl) c op).trans h

theorem Chip.mgrBegun_ticket (c : Chip) (op : Nat) : (c.mgrBegun op).mgr.busy = true ∧ (c.mgrBegun op).mgr.ticket = c.ids
    ∧ (c.mgrBegun op).mgr.ie = c.mgr.ie := by
  obtain ⟨m, fr, heq, -, -, -, -, ht, hb, hie⟩ := c.mgrBegun_frame op
  rw [heq]
  exact ⟨hb, ht, hie⟩

/-- A manager command that still holds MGR_STS and asks for no interrupt completes with its code and RESULT alone (R116). -/
theorem Chip.mgrDone_quiet (t : Nat) (code : Byte) (r : Nat) (hb : c.mgr.busy = true) (ht : c.mgr.ticket = t) (hie : c.mgr.ie = false) :
    c.mgrDone t code r = { c with mgr := { c.mgr with busy := false, done := true, code := code, result := BitVec.ofNat 16 r } } := by
  simp [Chip.mgrDone, hb, ht, hie]

theorem State.onward_wait {c d : Chip} {w : Wait} (h : c.calmed = true) (hd : (c.wait w).detachRoot w = none) (hr : (c.wait w).ready w = true)
    (hc : c.runCont w.cont = d) (h2 : d.calmed = true) : s.onward (c.wait w) = { s with chip := d } := by
  simp only [State.onward, State.settled, Chip.pump_wait h hd hr hc h2]

/-- The bump of GEN that INST_CREATE waits for takes effect with the command itself, on a calmed chip (R249). -/
theorem State.onward_created {t : Nat} (h : c.calmed = true) (hdue : (c.inst n).genDue = 0)
    (hfree : c.genCarried n ((c.inst n).gen + 1) = false) (hb : c.mgr.busy = true) (ht : c.mgr.ticket = t) (hie : c.mgr.ie = false) :
    s.onward ((c.bumpGen n).wait { gens := [n], cont := .genDone t n }) =
      { s with chip := (c.updInst n (fun x => { x with gen := x.gen + 1 })).mgrDone t ccSuccess ((c.inst n).gen + 1).toNat } := by
  have hcalm : (c.updInst n (fun x => { x with gen := x.gen + 1 })).calmed = true := Chip.calmed_updInst h fun _ => rfl
  have hgen : ((c.updInst n (fun x => { x with gen := x.gen + 1 })).inst n).gen = (c.inst n).gen + 1 := by rw [Chip.inst_updInst_same]
  have hdue' : (((c.updInst n (fun x => { x with gen := x.gen + 1 })).inst n).genDue == 0) = true := by rw [Chip.inst_updInst_same, hdue]; rfl
  rw [Chip.bumpGen_now hdue hfree]
  refine State.onward_wait hcalm rfl ?_ (by simp only [Chip.runCont, hgen]) ?_
  · exact (Bool.and_true _).trans hdue'
  · rw [Chip.mgrDone_quiet _ _ _ (by exact hb) (by exact ht) (by exact hie)]
    exact hcalm

/-- The instance while its reset waits for the bump of GEN (R250 steps 1 to 3). -/
def Inst.inReset (back : InstSt) (x : Inst) : Inst :=
  { x with
    st := .resetting, back := back, gen := x.gen + 1, escalated := false, cmds := [], cmdDead := x.cmdDead + x.cmdReads,
    cmdReads := 0, chans := Tbl.mapv {} x.chans (fun _ h => h.reset), stsEn := false }

/-- A reset that a manager command started ends with it, on a calmed node without devices (R250). -/
theorem State.onward_reset {back : InstSt} {f : Inst → Inst} (h : c.calmed = true) (hs : c.slots = []) (he : c.eps = [])
    (hrel : c.rel.suspended = 0) (hfw : c.boot.fwRunning = true) (hdue : (c.inst n).genDue = 0)
    (hf : ∀ x : Inst, (f x).genDue = x.genDue ∧ (f x).cmds = x.cmds)
    (hd : ((c.updInst n (fun x => f (x.inReset back))).resetFinish n).calmed = true) :
    s.onward ((c.startReset n back).updInst n f) = { s with chip := (c.updInst n (fun x => f (x.inReset back))).resetFinish n } := by
  have hw := ((Chip.calmed_iff c).1 h).1
  have hwait : (c.startReset n back).updInst n f = Chip.wait (c.updInst n (fun x => f (x.inReset back)))
        { posted := false, gens := [n], cont := .instReset n } := by
    rw [startResetBumpsGeneration c n back hs he hw hrel hdue, if_pos hfw]
    simp only [Chip.wait, Chip.updInst, hw, List.nil_append, Tbl.upd, Tbl.set_set, Tbl.get_set_same]
    rfl
  rw [hwait]
  refine State.onward_wait ?_ rfl ?_ rfl hd
  · exact Chip.calmed_set h rfl rfl (by simp [hf, Inst.inReset])
  · have hdue' : (((c.updInst n (fun x => f (x.inReset back))).inst n).genDue == 0) = true := by
      rw [Chip.inst_updInst_same, (hf _).1]
      exact beq_iff_eq.2 hdue
    exact (Bool.and_true _).trans hdue'

/-- What a reset that a manager command joined leaves on a node without devices (R116, R250). -/
theorem Chip.resetFinish_joined {f : Inst → Inst} (hs : c.slots = []) (hn : n < 128)
    (hrings : ∀ r ∈ (c.inst n).rings, r.2.live = false) (hb : c.mgr.busy = true) (hie : c.mgr.ie = false)
    (hf : (f (c.inst n)).rings = (c.inst n).rings ∧ (f (c.inst n)).inMgr = true ∧ (f (c.inst n)).joinDestroy = false) :
    (∃ x qs, (c.updInst n f).resetFinish n = { c with
      insts := Tbl.set {} c.insts n x
      queues := qs
      mgr := { c.mgr with busy := false, done := true, code := ccSuccess, result := BitVec.ofNat 16 (f (c.inst n)).gen.toNat } }
      ∧ x.st = (f (c.inst n)).back ∧ x.gen = (f (c.inst n)).gen ∧ x.cmds = [] ∧ x.cmdEn = false ∧ x.crings = []
      ∧ x.quota = (f (c.inst n)).quota) := by
  obtain ⟨hr, hin, hjoin⟩ := hf
  obtain ⟨qs, hwas⟩ := (c.updInst n f).wasReset_frame n
  rw [Chip.inst_updInst_same] at hwas
  have hx : ((c.updInst n f).wasReset n).inst n = _ := (congrArg (fun d : Chip => d.inst n) hwas).trans (Tbl.get_set_same ..)
  refine ⟨((c.updInst n f).wasReset n).inst n, qs, ?_, by rw [hx]; exact ⟨rfl, rfl, rfl, rfl, rfl, rfl⟩⟩
  rw [Chip.resetFinish_nil (by exact hs) hn (by rw [Chip.inst_updInst_same, hr]; exact hrings)]
  simp only [Chip.inst_updInst_same, hjoin, hin, if_true, Bool.false_eq_true, if_false]
  rw [Chip.mgrDone_quiet _ _ _ (by rw [hwas]; exact hb) rfl (by rw [hwas]; exact hie), hx, hwas]
  simp only [Chip.updInst, Tbl.upd, Tbl.set_set]

/-- The same where INST_DESTROY joined the reset of an instance that owns nothing (R248). -/
theorem Chip.resetFinish_destroyed {f : Inst → Inst} (hs : c.slots = []) (hn : n < 128)
    (hrings : ∀ r ∈ (c.inst n).rings, r.2.live = false) (hb : c.mgr.busy = true) (hie : c.mgr.ie = false)
    (hviews : (c.inst n).portViews = []) (hown : ∀ p < 24, c.ownerOf p ≠ some n) (hparked : ∀ p < 24, (c.port p).parked = [])
    (hshares : c.shares = [])
    (hf : ∀ x : Inst, (f x).rings = x.rings ∧ (f x).inMgr = true ∧ (f x).joinDestroy = true ∧ (f x).portViews = x.portViews) :
    (∃ x qs, (c.updInst n f).resetFinish n = { c with
      insts := Tbl.set {} c.insts n (Inst.destroyed x)
      queues := qs
      mgr := { c.mgr with busy := false, done := true, code := ccSuccess, result := BitVec.ofNat 16 (f (c.inst n)).gen.toNat } }
      ∧ x.gen = (f (c.inst n)).gen) := by
  obtain ⟨hr, hin, hjoin, hv⟩ := hf (c.inst n)
  obtain ⟨qs, hwas⟩ := (c.updInst n f).wasReset_frame n
  rw [Chip.inst_updInst_same] at hwas
  have hx : ((c.updInst n f).wasReset n).inst n = _ := (congrArg (fun d : Chip => d.inst n) hwas).trans (Tbl.get_set_same ..)
  refine ⟨((c.updInst n f).wasReset n).inst n, qs, ?_, by rw [hx]; rfl⟩
  rw [Chip.resetFinish_nil (by exact hs) hn (by rw [Chip.inst_updInst_same, hr]; exact hrings)]
  simp only [Chip.inst_updInst_same, hjoin, hin, if_true]
  rw [Chip.destroyInst_nil (by rw [hwas]; exact hs) ?views (by rw [hwas]; exact hown) (by rw [hwas]; exact hshares)
      (by rw [hwas]; exact hparked),
    Chip.mgrDone_quiet _ _ _ (by rw [hwas]; exact hb) rfl (by rw [hwas]; exact hie), hwas]
  case views => exact (by rw [hx]; exact hv.trans hviews)
  simp only [Chip.updInst, Chip.inst, Tbl.upd, Tbl.set_set, Tbl.get_set_same]

/-- INST_DESTROY of an instance that owns nothing, on a calmed node without devices (R248). -/
theorem State.onward_destroy (h : c.calmed = true) (hs : c.slots = []) (he : c.eps = []) (hrel : c.rel.suspended = 0)
    (hfw : c.boot.fwRunning = true) (hdue : (c.inst n).genDue = 0) (hn : n < 128) (hrings : ∀ r ∈ (c.inst n).rings, r.2.live = false)
    (hb : c.mgr.busy = true) (hie : c.mgr.ie = false) (hviews : (c.inst n).portViews = []) (hown : ∀ p < 24, c.ownerOf p ≠ some n)
    (hparked : ∀ p < 24, (c.port p).parked = []) (hshares : c.shares = []) :
    ∃ x qs, s.onward ((c.startReset n .absent).updInst n (fun x => { x with joinDestroy := true, inMgr := true })) =
      { s with chip := { c with
          insts := Tbl.set {} c.insts n (Inst.destroyed x)
          queues := qs
          mgr := { c.mgr with busy := false, done := true, code := ccSuccess, result := BitVec.ofNat 16 ((c.inst n).gen + 1).toNat } } }
      ∧ x.gen = (c.inst n).gen + 1 := by
  obtain ⟨x, qs, hfin, hgen⟩ := Chip.resetFinish_destroyed (f := fun x => { x.inReset .absent with joinDestroy := true, inMgr := true })
    hs hn hrings hb hie hviews hown hparked hshares fun _ => ⟨rfl, rfl, rfl, rfl⟩
  refine ⟨x, qs, ?_, hgen⟩
  rw [State.onward_reset (f := fun x => { x with joinDestroy := true, inMgr := true }) h hs he hrel hfw hdue (fun _ => ⟨rfl, rfl⟩)
    (by rw [hfin]; exact Chip.calmed_set h rfl rfl (by simp [Inst.destroyed])), hfin]
  rfl

/-- INST_RESET on a calmed node without devices (R250). -/
theorem State.onward_instReset (h : c.calmed = true) (hs : c.slots = []) (he : c.eps = []) (hrel : c.rel.suspended = 0)
    (hfw : c.boot.fwRunning = true) (hdue : (c.inst n).genDue = 0) (hn : n < 128) (hrings : ∀ r ∈ (c.inst n).rings, r.2.live = false)
    (hb : c.mgr.busy = true) (hie : c.mgr.ie = false) (hjoin : (c.inst n).joinDestroy = false) :
    ∃ x qs, s.onward ((c.startReset n .active).updInst n (fun x => { x with inMgr := true })) =
      { s with chip := { c with
          insts := Tbl.set {} c.insts n x
          queues := qs
          mgr := { c.mgr with busy := false, done := true, code := ccSuccess, result := BitVec.ofNat 16 ((c.inst n).gen + 1).toNat } } }
      ∧ x.st = .active ∧ x.gen = (c.inst n).gen + 1 ∧ x.cmds = [] ∧ x.cmdEn = false ∧ x.crings = [] ∧ x.quota = (c.inst n).quota := by
  obtain ⟨x, qs, hfin, hst, hgen, hcmds, hrest⟩ := Chip.resetFinish_joined (f := fun x => { x.inReset .active with inMgr := true })
    hs hn hrings hb hie ⟨rfl, rfl, hjoin⟩
  refine ⟨x, qs, ?_, hst, hgen, hcmds, hrest⟩
  rw [State.onward_reset (f := fun x => { x with inMgr := true }) h hs he hrel hfw hdue (fun _ => ⟨rfl, rfl⟩)
    (by rw [hfin]; exact Chip.calmed_set h rfl rfl (by simp [hcmds])), hfin]
  rfl

section Effects
variable (hm : s.chip.isMgr w = true) (hb : s.chip.mgr.busy = false) (hfw : s.chip.boot.fwRunning = true) (hrel : s.chip.rel.suspended = 0)
include hm hb hfw hrel

/-- INST_CREATE of an instance that is not there, for which the pool has enough (R246). -/
theorem exec_instCreate (hargs : s.chip.mgr.argsOk 0x7F 0x03FF01FF 0x1FFF0FFF 0x01FF7F7F = true) (hpf : s.chip.isPf s.chip.mgr.inst = false)
    (hst : (s.chip.inst s.chip.mgr.inst).st = .absent) (hrange : s.chip.mgr.sizes.inRange = true)
    (hshort : s.chip.mgr.sizes.short s.chip.unreserved = none) :
    exec (.instCreate w) s = .next (s.onward (((((((s.chip.mgrBegun 1).updInst s.chip.mgr.inst (fun x => { x with
        st := if x.vfOn then .active else .created
        compat := s.chip.cap.compatDefault, quota := s.chip.mgr.sizes, told := [] })).freshQueues s.chip.mgr.inst).bindChans
          s.chip.mgr.inst s.chip.mgr.sizes.chans).bumpGen s.chip.mgr.inst).wait
        { gens := [s.chip.mgr.inst], cont := .genDone s.chip.ids s.chip.mgr.inst }))) := by
  refine next_act ((Chip.fwCmd_runs _ hm hb hfw hrel hargs).trans ?_)
  have hcap : (s.chip.mgrBegun 1).cap = s.chip.cap := Chip.mgrBegun_same (fun c => c.cap) (fun _ _ _ _ _ => rfl) s.chip 1
  simp only [Chip.mgrBegun_mgrInst, Chip.isPf_mgrBegun, hpf, Chip.inst_mgrBegun, hst, Chip.mgrBegun_sizes, hrange,
    Chip.unreserved_mgrBegun, hshort, hcap]
  rfl

/-- INST_RESIZE within what the pool has and no lower than what is in use (R247). -/
theorem exec_instResize (hargs : s.chip.mgr.argsOk 0x7F 0x03FF01FF 0x1FFF0FFF 0x01FF7F7F = true)
    (hst : (s.chip.inst s.chip.mgr.inst).st ≠ .absent) (hrange : s.chip.mgr.sizes.inRange = true)
    (huse : (s.chip.use s.chip.mgr.inst).short s.chip.mgr.sizes = none)
    (hvec : (s.chip.inst s.chip.mgr.inst).vectorsFit s.chip.mgr.sizes = true)
    (hpool : (s.chip.mgr.sizes.sub (s.chip.inst s.chip.mgr.inst).quota).short s.chip.unreserved = none) :
    let d := ((s.chip.mgrBegun 2).updInst s.chip.mgr.inst (fun x => { x with quota := s.chip.mgr.sizes })).bindChans
      s.chip.mgr.inst s.chip.mgr.sizes.chans
    exec (.instResize w) s = .next (s.onward
      ((if (s.chip.inst s.chip.mgr.inst).quota.slots < s.chip.mgr.sizes.slots then d.retryParked else d).mgrDone
        s.chip.ids ccSuccess (s.chip.inst s.chip.mgr.inst).gen.toNat)) := by
  intro d
  refine next_act ((Chip.fwCmd_runs _ hm hb hfw hrel hargs).trans ?_)
  simp only [Chip.mgrBegun_mgrInst, Chip.inst_mgrBegun, hst, if_false, Chip.mgrBegun_sizes, hrange, Chip.use_mgrBegun, huse, hvec,
    Chip.unreserved_mgrBegun, hpool, d]
  rfl

/-- INST_DESTROY of an ACTIVE instance starts its reset (R248). -/
theorem exec_instDestroy (hargs : s.chip.mgr.argsOk 0x7F 0 0 0 = true) (hpf : s.chip.isPf s.chip.mgr.inst = false)
    (hst : (s.chip.inst s.chip.mgr.inst).st = .active) :
    exec (.instDestroy w) s = .next (s.onward (((s.chip.mgrBegun 3).startReset s.chip.mgr.inst .absent).updInst s.chip.mgr.inst
      (fun x => { x with joinDestroy := true, inMgr := true }))) := by
  refine next_act ((Chip.fwCmd_runs _ hm hb hfw hrel hargs).trans ?_)
  simp only [Chip.mgrBegun_mgrInst, Chip.inst_mgrBegun, Chip.isPf_mgrBegun, hpf, hst, reduceCtorEq, Bool.false_eq_true, if_false]

/-- INST_RESET of an ACTIVE instance starts its reset (R250). -/
theorem exec_instReset (hargs : s.chip.mgr.argsOk 0x7F 0 0 0 = true) (hst : (s.chip.inst s.chip.mgr.inst).st = .active) :
    exec (.instReset w) s = .next (s.onward (((s.chip.mgrBegun 4).startReset s.chip.mgr.inst .active).updInst s.chip.mgr.inst
      (fun x => { x with inMgr := true }))) := by
  have htrig : (s.chip.mgrBegun 4).triggerReset s.chip.mgr.inst id = (s.chip.mgrBegun 4).startReset s.chip.mgr.inst .active :=
    Chip.triggerReset_active id (by rw [Chip.inst_mgrBegun]; exact hst)
  refine next_act ((Chip.fwCmd_runs _ hm hb hfw hrel hargs).trans ?_)
  simp only [Chip.mgrBegun_mgrInst, Chip.inst_mgrBegun, hst, htrig]

end Effects

/-- Settles O14: the commands whose reset or bump of GEN is over at once complete with the command itself. -/
theorem instanceCommandsComplete : Obligations.InstanceCommandsComplete := by
  intro s w hm hb hfw hrel n x q c made ended
  have hn : n < 128 := fld_lt ..
  have hsame (op : Nat) {α : Type} (f : Chip → α) (h : ∀ (c : Chip) m sp i fr, f { c with mgr := m, spin := sp, ids := i, free := fr } = f c) :
      f (s.chip.mgrBegun op) = f s.chip := Chip.mgrBegun_same f h s.chip op
  have hended (op : Nat) (y : Inst) (qs : Tbl Queue) (st : InstSt) (hst : y.st = st) (hgen : y.gen = x.gen + 1) (hcmds : y.cmds = [])
      (hen : y.cmdEn = false) (hcr : y.crings = []) : ended { s with chip := { s.chip.mgrBegun op with
        insts := Tbl.set {} (s.chip.mgrBegun op).insts n y
        queues := qs
        mgr := { (s.chip.mgrBegun op).mgr with
          busy := false, done := true, code := ccSuccess, result := BitVec.ofNat 16 (x.gen + 1).toNat } } } st := by
    have hy : Tbl.get {} (Tbl.set {} (s.chip.mgrBegun op).insts n y) n = y := Tbl.get_set_same ..
    exact ⟨(congrArg Inst.st hy).trans hst, (congrArg Inst.gen hy).trans hgen, (congrArg Inst.cmds hy).trans hcmds,
      (congrArg Inst.cmdEn hy).trans hen, (congrArg Inst.crings hy).trans hcr,
      fun m hm => (Tbl.get_set_other _ _ _ hm).trans (s.chip.inst_mgrBegun op m), hsame op (fun c => c.ports) fun _ _ _ _ _ => rfl,
      rfl, rfl, rfl, rfl⟩
  obtain ⟨hb1, ht1, hie1⟩ := s.chip.mgrBegun_ticket 1
  refine ⟨fun hargs hpf hst hrange hshort => ?create, fun hargs hst hrange huse hvec hpool => ?resize, fun hargs hpf hst => ?destroy,
    fun hargs hst => ?reset⟩
  case create =>
    have hexec := exec_instCreate hm hb hfw hrel hargs hpf hst hrange hshort
    refine ⟨hexec, fun hcalm hie hdue hfree => ?_⟩
    obtain ⟨qs, ch, hmade⟩ := (s.chip.mgrBegun 1).madeInst_frame n q.chans (fun x => { x with
      st := if x.vfOn then .active else .created
      compat := s.chip.cap.compatDefault, quota := q, told := [] })
    have hgen : (made.inst n).gen = x.gen ∧ (made.inst n).genDue = x.genDue := by
      have hinst : made.inst n = _ := (congrArg (fun d : Chip => d.inst n) hmade).trans (Tbl.get_set_same ..)
      rw [hinst]
      simp only [Chip.inst_mgrBegun]
      exact ⟨rfl, rfl⟩
    have hcalm' : made.calmed = true := by
      simp only [made, c, hmade]
      exact Chip.calmed_set (Chip.calmed_mgrBegun 1 hcalm) rfl rfl (Chip.cmds_calmed (Chip.calmed_mgrBegun 1 hcalm) n)
    have hmgr : made.mgr = (s.chip.mgrBegun 1).mgr := by
      simp only [made, c, hmade]
    have hcarried (g : BitVec 8) : made.genCarried n g = s.chip.genCarried n g := by
      simp only [made, c, hmade]
      exact Chip.mgrBegun_same (fun c => c.genCarried n g) (fun _ _ _ _ _ => rfl) s.chip 1
    rw [hexec, State.onward_created hcalm' (hgen.2.trans hdue) (by rw [hcarried, hgen.1]; exact hfree) (by rw [hmgr]; exact hb1)
      (by rw [hmgr]; exact ht1) (by rw [hmgr]; exact hie1.trans hie), hgen.1]
  case resize =>
    exact exec_instResize hm hb hfw hrel hargs hst hrange huse hvec hpool
  case destroy =>
    have hexec := exec_instDestroy hm hb hfw hrel hargs hpf hst
    refine ⟨hexec, fun hcalm hie hslots heps hdue hrings hviews hown hparked hshares => ?_⟩
    obtain ⟨hbusy, -, hie'⟩ := s.chip.mgrBegun_ticket 3
    obtain ⟨hbusy, -, hie'⟩ := s.chip.mgrBegun_ticket 3
    obtain ⟨y, qs, hon, hgen⟩ := State.onward_destroy (s := s) (c := s.chip.mgrBegun 3) (n := n)
      (Chip.calmed_mgrBegun 3 hcalm) ((hsame 3 _ fun _ _ _ _ _ => rfl).trans hslots) ((hsame 3 _ fun _ _ _ _ _ => rfl).trans heps)
      ((hsame 3 (fun c => c.rel.suspended) fun _ _ _ _ _ => rfl).trans hrel)
      ((hsame 3 (fun c => c.boot.fwRunning) fun _ _ _ _ _ => rfl).trans hfw) (by rw [Chip.inst_mgrBegun]; exact hdue) hn
      (by rw [Chip.inst_mgrBegun]; exact hrings) hbusy (hie'.trans hie) (by rw [Chip.inst_mgrBegun]; exact hviews)
      (fun p hp => by rw [hsame 3 (fun c => c.ownerOf p) fun _ _ _ _ _ => rfl]; exact hown p hp)
      (fun p hp => (hsame 3 (fun c => (c.port p).parked) fun _ _ _ _ _ => rfl).trans (hparked p hp))
      ((hsame 3 _ fun _ _ _ _ _ => rfl).trans hshares)
    rw [Chip.inst_mgrBegun] at hon hgen
    exact ⟨_, hexec.trans (congrArg _ hon), hended 3 y.destroyed qs .absent rfl hgen rfl rfl rfl,
      congrArg Inst.quota (Tbl.get_set_same ..), rfl⟩
  case reset =>
    have hexec := exec_instReset hm hb hfw hrel hargs hst
    refine ⟨hexec, fun hcalm hie hslots heps hdue hjoin hrings => ?_⟩
    obtain ⟨hbusy, -, hie'⟩ := s.chip.mgrBegun_ticket 4
    obtain ⟨y, qs, hon, hyst, hgen, hcmds, hen, hcr, hquota⟩ := State.onward_instReset (s := s) (c := s.chip.mgrBegun 4) (n := n)
      (Chip.calmed_mgrBegun 4 hcalm) ((hsame 4 _ fun _ _ _ _ _ => rfl).trans hslots) ((hsame 4 _ fun _ _ _ _ _ => rfl).trans heps)
      ((hsame 4 (fun c => c.rel.suspended) fun _ _ _ _ _ => rfl).trans hrel)
      ((hsame 4 (fun c => c.boot.fwRunning) fun _ _ _ _ _ => rfl).trans hfw) (by rw [Chip.inst_mgrBegun]; exact hdue) hn
      (by rw [Chip.inst_mgrBegun]; exact hrings) hbusy (hie'.trans hie) (by rw [Chip.inst_mgrBegun]; exact hjoin)
    rw [Chip.inst_mgrBegun] at hon hgen hquota
    exact ⟨_, hexec.trans (congrArg _ hon), hended 4 y qs .active hyst hgen hcmds hen hcr,
      (congrArg Inst.quota (Tbl.get_set_same ..)).trans hquota, rfl⟩

end Sys2Proof.Machine
end

/-! # The loader and the live firmware swap (R36 to R47) -/

section

namespace Sys2Proof.Machine

variable {s : State} {c : Chip} {w : Writer} {n : Nat}

theorem Chip.setup_byMgr (hm : c.isMgr w = true) (f : Chip → Chip) : c.setup w f = f c.spinBreak := if_pos hm

theorem Chip.fuseBlown_due (h : c.fuse < c.fw.fuseTo) : c.fuseBlown = if c.fuse + 1 = c.fw.fuseTo then
    ({ c with fuse := c.fuse + 1, fw := { c.fw with fuseTo := 0 } } : Chip).fwEvent 4 c.fw.running else { c with fuse := c.fuse + 1 } :=
  if_pos h

/-- A discard with no load or swap going on drops the staged image (R42). -/
theorem Chip.fwDiscard_resting (h : c.fw.phase = .idle ∨ c.fw.phase = .installing) :
    c.fwDiscard = { c with fw := { c.fw with staged := false, cells := 0, halted := false, before := none } } := by
  rcases h with h | h <;> simp only [Chip.fwDiscard, h]

/-- A discard ends a load, and the command that began it. -/
theorem Chip.fwDiscard_loading (h : c.fw.phase = .fetching ∨ c.fw.phase = .verifying) : c.fwDiscard =
    (let d : Chip := { c with fw := { c.fw with
      phase := .idle, busy := false, inMgr := false, staged := false, cells := 0, halted := false, before := none } }
    if c.fw.inMgr then d.mgrDone d.mgr.ticket ccAborted 0 else d) := by
  rcases h with h | h <;> simp only [Chip.fwDiscard, h]

/-- A discard during a swap does nothing. -/
theorem Chip.fwDiscard_swapping (h : c.fw.phase = .swapCopy ∨ c.fw.phase = .swapStart ∨ c.fw.phase = .swapDrain
    ∨ c.fw.phase = .restoreStart) : c.fwDiscard = c := by
  rcases h with h | h | h | h <;> simp only [Chip.fwDiscard, h]

/-- Settles O17: each event acts in the loader's phase that waits for it. -/
theorem firmwareEventsAct : Obligations.FirmwareEventsAct := by
  intro s
  refine ⟨fun image hph => ?fetched, fun r image hph hr => ?fetchFails, fun k g hph hap herr => ?verified, fun k g e hph herr => ?verifyFails,
    fun h => ?fuse, fun h => ?lastFuse, fun w hm hph => ?discard, fun w hm hph => ?discardLoad, fun w hm hph => ?discardSwap, fun hph => ?copied⟩
  case fetched =>
    have hstage : s.chip.fetchedStage s.stage .ok image = Memory.ofBytes 0 (image.take (min s.chip.fw.len.toNat stageSize)) :=
      if_pos ⟨hph, rfl⟩
    have hchip : s.chip.fetched .ok = _ := (if_neg (not_not.2 hph)).trans (if_neg (not_not.2 rfl))
    exact congrArg Host.Outcome.next (congrArg₂ (fun m (d : Chip) => { s with stage := m, chip := d.pump }) hstage hchip)
  case fetchFails =>
    have hstage : s.chip.fetchedStage s.stage r image = s.stage := if_neg fun h => hr h.2
    have hchip : s.chip.fetched r = _ := (if_neg (not_not.2 hph)).trans (if_pos hr)
    exact congrArg Host.Outcome.next (congrArg₂ (fun m (d : Chip) => { s with stage := m, chip := d.pump }) hstage hchip)
  case verified =>
    refine next_act ((if_neg (not_not.2 hph)).trans ((if_neg (not_not.2 herr)).trans (if_pos ?_)))
    simp [hap]
  case verifyFails =>
    refine next_act ((if_neg (not_not.2 hph)).trans ((if_pos ?_).trans (congrArg (fun n => s.chip.fwFail n _) herr)))
    rw [herr]
    exact Nat.succ_ne_zero e
  case fuse => exact next_act ((Chip.fuseBlown_due (by omega)).trans (if_neg (by omega)))
  case lastFuse => exact next_act ((Chip.fuseBlown_due (by omega)).trans (if_pos h))
  case discard => exact next_act ((Chip.setup_byMgr hm _).trans (Chip.fwDiscard_resting (by exact hph)))
  case discardLoad => exact next_act ((Chip.setup_byMgr hm _).trans (Chip.fwDiscard_loading (by exact hph)))
  case discardSwap => exact next_act ((Chip.setup_byMgr hm _).trans (Chip.fwDiscard_swapping (by exact hph)))
  case copied => exact next_act (if_pos hph)

/-! ### Loads and swaps begin -/

/-- FW_LOAD of an image of a permitted length (R36, R38): the checks begin, or the image is read first. -/
theorem Chip.fwLoad_begins (hm : c.isMgr w = true) (hb : c.mgr.busy = false) (hbusy : c.fw.busy = false)
    (hargs : c.mgr.argsOk 3 0 0 0 = true) (hmin : 384 ≤ c.fw.len.toNat) (hmax : c.fw.len.toNat ≤ 1310720) :
    c.fwLoad w = (let fw : Loader := { c.fw with
        err := 0, staged := false, halted := false, inMgr := true, apply := bitAt c.mgr.arg0 1, commit := c.fw.svnCommit
        busy := true, cells := cdiv c.fw.len.toNat 512
        before := some (c.fw.err, c.fw.staged, c.fw.halted, c.fw.cells, c.fw.image) }
      if bitAt c.mgr.arg0 0 then { c.mgrBegin with fw := { fw with phase := .verifying } }
      else if c.link0.pm ≠ .l0 then ({ c.mgrBegin with fw := fw } : Chip).fwFail 8 none
      else ({ c.mgrBegin with fw := { fw with phase := .fetching } } : Chip).emit (.hostRead 0 c.fw.addr c.fw.len.toNat)) := by
  have hlen : ¬(c.fw.len.toNat < 384 ∨ 1310720 < c.fw.len.toNat) := by omega
  refine (Chip.mgrCmd_begins false _ hm hb).trans ?_
  refine (if_neg (by exact Bool.not_eq_true _ ▸ hbusy)).trans ((if_neg ?_).trans ((if_neg hlen).trans rfl))
  exact ne_true_of_eq_false (congrArg (!·) hargs)

theorem Chip.askSwap_begins {m : Memory} (hb : c.freeBench.isSome = true) (hprev : ¬ c.fw.running < c.fw.image.prevMin) :
    c.askSwap m false = c.fwBegun.beginSwap none := by
  obtain ⟨b, hb'⟩ := Option.isSome_iff_exists.1 hb
  simp only [Chip.askSwap, hb', Bool.false_eq_true, if_false, hprev]

/-- FW_SWAP of a staged image, with a bench (R43). -/
theorem Chip.fwSwap_begins {m : Memory} (hm : c.isMgr w = true) (hb : c.mgr.busy = false) (hbusy : c.fw.busy = false)
    (hargs : c.mgr.argsOk 0 0 0 0 = true) (hst : c.fw.staged = true) (hhalt : c.fw.halted = false) (hfw : c.boot.fwRunning = true)
    (hbench : c.freeBench.isSome = true) (hprev : ¬ c.fw.running < c.fw.image.prevMin) :
    c.fwSwap m w = ({ c.mgrBegin with fw := { c.fw with err := 0, inMgr := true } } : Chip).fwBegun.beginSwap none := by
  refine (Chip.mgrCmd_begins false _ hm hb).trans ?_
  refine (if_neg (ne_true_of_eq_false hbusy)).trans ((if_neg (ne_true_of_eq_false (congrArg (!·) hargs))).trans
    ((if_neg (ne_true_of_eq_false (congrArg (!·) hst))).trans ((if_neg (ne_true_of_eq_false (congrArg (!·) hfw))).trans
      ((if_neg (ne_true_of_eq_false hhalt)).trans ?_))))
  exact Chip.askSwap_begins (c := { c.mgrBegin with fw := { c.fw with err := 0, inMgr := true } }) hbench hprev

/-! ### Fielders that are late, and the drain limit -/

/-- The incoming Fielder of a swap that is not ready in time goes back to the bench, and the swap halts (R44). -/
theorem Chip.startTimeout_swap {f : Nat} (hph : c.fw.phase = .swapStart) (hin : c.fw.incoming = f) (hready : (c.fielder f).ready = false) :
    c.startTimeout f = (let d := (c.leaveActive f .bench).updFielder f (fun x => { x with st := .bench })
      (({ d with fw := { d.fw with err := 0xC, bench := some f } } : Chip).haltSwap).startLate f 0) := by
  have hno : ¬(c.fw.phase == .restoreStart) = true := by rw [hph]; decide
  refine (if_neg fun h => ?_).trans ((if_pos ⟨.inl hph, hin, hready⟩).trans (congrArg (Chip.startLate · f 0) (if_neg hno)))
  exact absurd (hph.symm.trans h.1) (by decide)

/-- A drained Fielder becomes the bench, and the next step begins (R44). -/
theorem Chip.drained2_active (hph : c.fw.phase = .swapDrain) (hst : (c.fielder c.fw.outgoing).st = .active) :
    c.drained2 = (let f := c.fw.outgoing
      let d := ((c.leaveActive f .bench).clearRam f).updFielder f
        (fun x => { st := .bench, role := x.role, cycles := x.cycles, retired := x.retired })
      ((({ d with fw := { d.fw with
        phase := .swapCopy, bench := some f, visit := d.fw.visit.drop 1, roles := d.fw.roles.drop 1
        swapStep := if d.fw.visit.length ≤ 1 then d.fw.swapStep else d.fw.swapStep + 1 } } : Chip).nextStep 12).shareResume)) := by
  have hok : ((c.fielder c.fw.outgoing).st == .active) = true := beq_iff_eq.2 hst
  refine (if_pos hph).trans ?_
  simp only [hok, if_true]

/-- At the drain limit nothing that waits is held by the Fielder: nothing is cancelled (R45). -/
theorem Chip.cancelHeld_none {f : Nat} (hb : c.mgr.busy = false) (hj : c.jobs = [])
    (h : ∀ x ∈ c.insts, x.2.cmds = [] ∧ x.2.mbox.busy = false) : c.cancelHeld f = c := by
  have hheld : c.insts.flatMap (fun x => (x.2.cmds.filter (fun m => m.phase == .running && m.holder == some f
      && !c.finishing x.1 m)).map (fun m => (x.1, m))) = [] :=
    List.flatMap_eq_nil_iff.2 fun x hx => by simp [h x hx]
  have hmail : c.abortMail f = c := by
    have : c.insts.filter (fun x => x.2.mbox.busy && x.2.mbox.holder == some f) = [] :=
      List.filter_eq_nil_iff.2 fun x hx => by simp [h x hx]
    simp [Chip.abortMail, this]
  simp [Chip.cancelHeld, hheld, hmail, hb, hj]

/-- A command that runs alone in the chip is cancelled: its ports and its requests to other nodes are as before it (R45). -/
theorem Chip.cancelCmd_alone {m : Cmd} (hw : c.waits = []) (he : c.eps = []) (hc : (c.inst n).cmds = [m]) (hrun : m.phase = .running)
    (hsusp : ∀ p < 24, (c.port p).suspendCmd ≠ some (n, m.id)) :
    c.cancelCmd n m = ({ c with
        ports := Tbl.mapv {} c.ports (fun _ p => p.undo (n, m.id)), ssps := Tbl.mapv {} c.ssps (fun _ p => p.undo (n, m.id))
        fab := { c.fab with proxies := c.fab.proxies.filter (fun y => y.2 != (n, m.id)) } } : Chip).reported n m ccAborted 0 := by
  have hlpm : (List.range 24).filter (fun p => (c.port p).suspendCmd == some (n, m.id) && (c.port p).st == pEnabled) = [] :=
    List.filter_eq_nil_iff.2 fun p hp => by simp [hsusp p (List.mem_range.1 hp)]
  have hm : m = { m with phase := .running, holder := m.holder } := by rw [← hrun]
  rw [← Chip.finish_sole _ n m ccAborted 0 (h := m.holder) (by rw [← hm]; exact hc)]
  simp only [Chip.cancelCmd, hw, List.filter_nil, List.foldl_nil, hlpm, he, List.isEmpty_nil, if_true]

/-- At the drain limit the one command that the Fielder holds is cancelled. -/
theorem Chip.cancelHeld_alone {f : Nat} {x : Inst} {m : Cmd} (hn : n < 128) (hb : c.mgr.busy = false) (hj : c.jobs = []) (hw : c.waits = [])
    (hi : c.insts = [(n, x)]) (hc : x.cmds = [m]) (hbox : x.mbox.busy = false) (hrun : m.phase = .running) (hholder : m.holder = some f)
    (he : c.eps = []) (hsusp : ∀ p < 24, (c.port p).suspendCmd ≠ some (n, m.id)) :
    c.cancelHeld f = ({ c with
        ports := Tbl.mapv {} c.ports (fun _ p => p.undo (n, m.id)), ssps := Tbl.mapv {} c.ssps (fun _ p => p.undo (n, m.id))
        fab := { c.fab with proxies := c.fab.proxies.filter (fun y => y.2 != (n, m.id)) } } : Chip).reported n m ccAborted 0 := by
  have hinst : c.inst n = x := by simp [Chip.inst, hi, Tbl.get]
  have hfin : c.finishing n m = false := by simp [Chip.finishing, hw]
  have hheld : c.insts.flatMap (fun x => (x.2.cmds.filter (fun m => m.phase == .running && m.holder == some f
      && !c.finishing x.1 m)).map (fun m => (x.1, m))) = [(n, m)] := by
    simp [hi, hc, hrun, hholder, hfin]
  have hcancel := Chip.cancelCmd_alone (c := c) (n := n) (m := m) hw he (by rw [hinst]; exact hc) hrun hsusp
  obtain ⟨y, o, fr, heq, -, hmbox⟩ := Chip.reported_frame ({ c with
    ports := Tbl.mapv {} c.ports (fun _ p => p.undo (n, m.id)), ssps := Tbl.mapv {} c.ssps (fun _ p => p.undo (n, m.id))
    fab := { c.fab with proxies := c.fab.proxies.filter (fun y => y.2 != (n, m.id)) } } : Chip) m ccAborted 0 hn
  have hmail : (Tbl.set {} c.insts n y).filter (fun x => x.2.mbox.busy && x.2.mbox.holder == some f) = [] := by
    refine List.filter_eq_nil_iff.2 fun z hz => ?_
    have hz' : z.2.mbox.busy = false := by
      rcases Tbl.mem_set hz with rfl | hz
      · exact (congrArg Mbox.busy (hmbox.trans (congrArg Inst.mbox hinst))).trans hbox
      · rw [hi, List.mem_singleton] at hz
        rw [hz]
        exact hbox
    simp [hz']
  rw [← hcancel] at heq ⊢
  simp only [Chip.cancelHeld, hheld, List.foldl_cons, List.foldl_nil, Chip.abortMail, heq, hmail, hb, hj, Bool.false_and, Bool.false_eq_true,
    if_false, List.filter_nil]

/-- Settles O16: each command and limit acts in the phase that waits for it. -/
theorem firmwareCommandsAndLimits : Obligations.FirmwareCommandsAndLimits := by
  refine ⟨fun s w hm hb hbusy => ?commands, fun s => ⟨fun f hph hvisit hready => ?install, fun f hph hin hready => ?late, fun hph hst => ?drained,
    fun hph hb hj hx => ?limit, fun n x m hn hph hb hj hw he hx hc hbox hrun hholder hsusp => ?cancels⟩⟩
  case commands =>
    intro c fw
    refine ⟨fun hargs hmin hmax => ⟨fun h0 => ?verify, fun h0 hpm => ?fetch⟩, fun hargs hst hhalt hfw hbench hprev => ?swap⟩
    case verify => exact next_act ((Chip.fwLoad_begins (c := s.chip.spinBreak) hm hb hbusy hargs hmin hmax).trans (if_pos h0))
    case fetch =>
      refine next_act ((Chip.fwLoad_begins (c := s.chip.spinBreak) hm hb hbusy hargs hmin hmax).trans ((if_neg ?_).trans (if_neg ?_)))
      · exact ne_true_of_eq_false h0
      · exact not_not.2 hpm
    case swap => exact next_act (Chip.fwSwap_begins (c := s.chip.spinBreak) hm hb hbusy hargs hst hhalt hfw hbench hprev)
  case install => exact next_act (if_pos ⟨hph, hvisit, hready⟩)
  case late =>
    exact next_act (Chip.startTimeout_swap (c := s.chip) (f := f.val) hph hin hready)
  case drained =>
    exact next_act (Chip.drained2_active (c := s.chip) hph hst)
  case limit => exact next_act ((if_pos hph).trans (Chip.cancelHeld_none hb hj hx))
  case cancels =>
    exact next_act ((if_pos hph).trans (Chip.cancelHeld_alone hn hb hj hw hx hc hbox hrun hholder he hsusp))

end Sys2Proof.Machine
end

/-! # Commands on slots, endpoints and rings (R98 to R110) -/

section

namespace Sys2Proof.Machine

variable {s : State} {c : Chip} {n : Nat} {m : Cmd}

/-! ### A sole command and its record -/

theorem Chip.finish_begun {D : Chip} {code : Byte} {r : Nat} (hcmds : (D.inst n).cmds = ((c.begun n m).inst n).cmds) :
    D.finish n m.id code r = D.reported n m code r :=
  Chip.finish_sole D n m code r (hcmds.trans (Chip.begun_cmds c n m))

section Sole
variable (h : s.chip.soleCmd n m) (hn : n < 128) {k : CmdKind} (hk : m.kind = k) {x : Instr}
  (hx : exec x s = .next (s.act (fun c => c.cmdRow n k m.tag m.par))) {D : Chip} {code : Byte} {r : Nat}
  (hD : D.calmed = true) (hcmds : (D.inst n).cmds = ((s.chip.begun n m).inst n).cmds)
include h hn hk hx hD hcmds

/-- A command that ends with its row is reported. -/
theorem exec_reports (hl : (s.chip.begun n m).localCmd n { m with phase := .waiting } = D.finish n m.id code r) :
    exec x s = .next { s with chip := D.reported n m code r } := by
  rw [hx, ← hk, State.act_cmdRow h (Chip.calmed_reported m code r hn hD) (hl.trans (Chip.finish_begun hcmds))]

/-- A command whose work is ready is reported as that work says. -/
theorem exec_wait_reports {d : Chip} {w : Wait} (hl : (s.chip.begun n m).localCmd n { m with phase := .waiting } = d.wait w)
    (hw : d.calmed = true) (hd : (d.wait w).detachRoot w = none) (hr : (d.wait w).ready w = true)
    (hc : d.runCont w.cont = D.finish n m.id code r) : exec x s = .next { s with chip := D.reported n m code r } := by
  rw [hx, ← hk, State.act_cmdRow_wait h hl ((Chip.calmed_iff d).1 hw).1 hd hr (hc.trans (Chip.finish_begun hcmds))
    (Chip.calmed_reported m code r hn hD)]

/-- The same, where that work leaves further work that is ready. -/
theorem exec_waits_reports {d d' : Chip} {w w' : Wait} (hl : (s.chip.begun n m).localCmd n { m with phase := .waiting } = d.wait w)
    (hw : d.calmed = true) (hd : (d.wait w).detachRoot w = none) (hr : (d.wait w).ready w = true)
    (hc : d.runCont w.cont = d'.wait w') (hw' : d'.calmed = true) (hd' : (d'.wait w').detachRoot w' = none)
    (hr' : (d'.wait w').ready w' = true) (hc' : d'.runCont w'.cont = D.finish n m.id code r) :
    exec x s = .next { s with chip := D.reported n m code r } := by
  rw [hx, ← hk, State.act_cmdRow_waits h hl ((Chip.calmed_iff d).1 hw).1 hd hr hc ((Chip.calmed_iff d').1 hw').1 hd' hr'
    (hc'.trans (Chip.finish_begun hcmds)) (Chip.calmed_reported m code r hn hD)]

end Sole

/-! ### Which command a kind names -/

theorem Chip.localCmd_enableSlot (hk : m.kind = .enableSlot) : c.localCmd n m = c.cmdEnableSlot n m := by simp only [Chip.localCmd, hk]
theorem Chip.localCmd_addressDevice (hk : m.kind = .addressDevice) : c.localCmd n m = c.cmdAddressDevice n m := by simp only [Chip.localCmd, hk]
theorem Chip.localCmd_configureEp (hk : m.kind = .configureEp) : c.localCmd n m = c.cmdConfigureEp n m := by simp only [Chip.localCmd, hk]
theorem Chip.localCmd_resetEp (hk : m.kind = .resetEp) : c.localCmd n m = c.cmdResetEp n m := by simp only [Chip.localCmd, hk]
theorem Chip.localCmd_stopEp (hk : m.kind = .stopEp) : c.localCmd n m = c.cmdStopEp n m := by simp only [Chip.localCmd, hk]
theorem Chip.localCmd_setDequeue (hk : m.kind = .setDequeue) : c.localCmd n m = c.cmdSetDequeue n m := by simp only [Chip.localCmd, hk]
theorem Chip.localCmd_disableSlot (hk : m.kind = .disableSlot) : c.localCmd n m = c.cmdDisableSlot n m := by simp only [Chip.localCmd, hk]
theorem Chip.localCmd_createRing (hk : m.kind = .createRing) : c.localCmd n m = c.cmdCreateRing n m := by simp only [Chip.localCmd, hk]
theorem Chip.localCmd_destroyRing (hk : m.kind = .destroyRing) : c.localCmd n m = c.cmdDestroyRing n m := by simp only [Chip.localCmd, hk]
theorem Chip.localCmd_portReset (hk : m.kind = .portReset) : c.localCmd n m = c.cmdPortReset n m := by simp only [Chip.localCmd, hk]
theorem Chip.localCmd_portSuspend (hk : m.kind = .portSuspend) : c.localCmd n m = c.cmdPortSuspend n m := by simp only [Chip.localCmd, hk]
theorem Chip.localCmd_portResume (hk : m.kind = .portResume) : c.localCmd n m = c.cmdPortResume n m := by simp only [Chip.localCmd, hk]
theorem Chip.localCmd_portPower (hk : m.kind = .portPower) : c.localCmd n m = c.cmdPortPower n m := by simp only [Chip.localCmd, hk]
theorem Chip.localCmd_getScorebook (hk : m.kind = .getScorebook) : c.localCmd n m = c.cmdGetScorebook n m := by simp only [Chip.localCmd, hk]
theorem Chip.localCmd_noop (hk : m.kind = .noop) : c.localCmd n m = c.cmdNoop n m := by simp only [Chip.localCmd, hk]

/-! ### Endpoint keys -/

theorem epBit_lt {v b : Nat} (h : epBit v = some b) : b < 32 := by
  unfold epBit at h
  split at h
  · cases h
  · cases h
    split <;> omega

theorem epBit_getD_lt (v : Nat) : (epBit v).getD 0 < 32 := by
  cases h : epBit v with
  | none => decide
  | some b => exact epBit_lt h

theorem keySlot_epKey (sk v : Nat) : keySlot (epKey sk ((epBit v).getD 0)) = sk := by
  have hb := epBit_getD_lt v
  unfold keySlot epKey
  omega

theorem keyBit_epKey (sk v : Nat) : keyBit (epKey sk ((epBit v).getD 0)) = (epBit v).getD 0 := by
  have hb := epBit_getD_lt v
  unfold keyBit epKey
  omega

/-! ### Slots -/

/-- ENABLE_SLOT of a device on a port that the instance owns, where there is room (R101). -/
theorem Chip.cmdEnableSlot_new {b k : Nat} (hn : n < 128) (hb : c.ownedBus n (BitVec.ofNat 16 (par m.par 0 12)) = some b)
    (hconn : c.connectedOn b = true) (henum : c.enumOn b = false) (hspeed : c.speedOk b (par m.par 16 4) (par m.par 32 20) = true)
    (hroute : routeOk (par m.par 32 20) = true) (horph : c.orphanAt n b (par m.par 32 20) = none) (hroom : c.room n Quota.slots 1 = true)
    (hnew : c.newSlot = some k) : c.cmdEnableSlot n m = (c.updSlot k (fun _ => {
      st := .enabled, root := c.subject b, route := BitVec.ofNat 20 (par m.par 32 20), speed := BitVec.ofNat 4 (par m.par 16 4)
      owner := BitVec.ofNat 7 n })).finish n m.id ccSuccess (c.slotName k) := by
  simp only [Chip.cmdEnableSlot, hb, hconn, henum, hspeed, hroute, horph, hroom, hnew, Bool.not_true, Bool.or_self, Bool.false_eq_true,
    if_false, Bool.true_eq_false, and_false, Chip.freshSlot, show ¬ 128 ≤ n by omega]

theorem Chip.cmdEnableSlot_foreign (hb : c.ownedBus n (BitVec.ofNat 16 (par m.par 0 12)) = none) :
    c.cmdEnableSlot n m = c.finish n m.id ccParam 0 := by
  simp only [Chip.cmdEnableSlot, hb]

theorem Chip.cmdStopEp_foreign (hown : c.owns n (c.slotKey (par m.par 0 12)) = false) : c.cmdStopEp n m = c.finish n m.id ccParam 0 := by
  simp [Chip.cmdStopEp, hown]

section Owned
variable (hown : c.owns n (c.slotKey (par m.par 0 12)) = true) (horph : (c.slot (c.slotKey (par m.par 0 12))).orphan = false)
  (hsh : (c.slot (c.slotKey (par m.par 0 12))).shared = none)
include hown horph

/-- ADDRESS_DEVICE that only makes endpoint 0 (R102). -/
theorem Chip.cmdAddressDevice_default (hmode : par m.par 32 2 = 1) (hst : (c.slot (c.slotKey (par m.par 0 12))).st = .enabled)
    (htt : c.ttOk n (c.slotKey (par m.par 0 12)) m.par = true) (hep : (c.ep (epKey (c.slotKey (par m.par 0 12)) 0)).st = .disabled)
    (hroom : c.room n Quota.eps 1 = true) (hctx : c.newCtx.isSome = true) (hplace : (c.takePlace (c.slotKey (par m.par 0 12))).isSome = true) :
    c.cmdAddressDevice n m = ((c.makeEp0 (c.slotKey (par m.par 0 12)) (par m.par 16 11)).updSlot (c.slotKey (par m.par 0 12)) (fun s =>
      { s.withTt m.par with st := .default })).finish n m.id ccSuccess 0 := by
  have hctx' : c.newCtx.isNone = false := by simpa using hctx
  have hplace' : (c.takePlace (c.slotKey (par m.par 0 12))).isNone = false := by simpa using hplace
  simp [Chip.cmdAddressDevice, hown, Chip.adopt_owned horph, hst, htt, hep, hroom, hctx', hplace', hmode]

include hsh

theorem Chip.cmdConfigureEp_drop (hdrop : m.par.getLsbD 26 = true) (honly : onlyDrop m.par = true) {key : Nat}
    (hkey : epKey (c.slotKey (par m.par 0 12)) ((epBit (par m.par 16 8)).getD 0) = key)
    (hst : (c.ep key).st = .stopped ∨ (c.ep key).st = .halted) (hrings : (c.ep key).rings = []) :
    c.cmdConfigureEp n m = ((c.stop key .quit).tend key).wait { keys := [key], was := c.epStates [key], cont := .dropEp n m.id key } := by
  subst hkey
  have hst' : ((c.ep (epKey (c.slotKey (par m.par 0 12)) ((epBit (par m.par 16 8)).getD 0))).st == .stopped
      || (c.ep (epKey (c.slotKey (par m.par 0 12)) ((epBit (par m.par 16 8)).getD 0))).st == .halted) = true := by simpa using hst
  simp [Chip.cmdConfigureEp, hown, Chip.adopt_owned horph, Chip.sharedBy_none hsh, hdrop, honly, hst', hrings]

theorem Chip.cmdResetEp_halted {key : Nat} (hkey : epKey (c.slotKey (par m.par 0 12)) ((epBit (par m.par 16 8)).getD 0) = key)
    (hst : (c.ep key).st = .halted) : c.cmdResetEp n m = ((c.stop key .quit).tend key).wait
      { keys := [key], posted := false, was := c.epStates [key], cont := .resetEp n m.id key } := by
  subst hkey
  simp [Chip.cmdResetEp, hown, Chip.adopt_owned horph, Chip.sharedBy_none hsh, hst]

theorem Chip.cmdResetEp_running {key : Nat} (hkey : epKey (c.slotKey (par m.par 0 12)) ((epBit (par m.par 16 8)).getD 0) = key)
    (hst : (c.ep key).st = .running) : c.cmdResetEp n m = c.finish n m.id ccParam 0 := by
  subst hkey
  simp [Chip.cmdResetEp, hown, Chip.adopt_owned horph, Chip.sharedBy_none hsh, hst]

theorem Chip.cmdStopEp_stopped {key : Nat} (hkey : epKey (c.slotKey (par m.par 0 12)) ((epBit (par m.par 16 8)).getD 0) = key)
    (hall : m.par.getLsbD 24 = false) (hst : (c.ep key).st = .stopped) : c.cmdStopEp n m = c.finish n m.id ccSuccess (c.consOf n key) := by
  subst hkey
  have hall' : m.par[24] = false := by simpa using hall
  simp [Chip.cmdStopEp, hown, Chip.adopt_owned horph, Chip.sharedBy_none hsh, hst, hall']

theorem Chip.cmdStopEp_running {key : Nat} (hkey : epKey (c.slotKey (par m.par 0 12)) ((epBit (par m.par 16 8)).getD 0) = key)
    (hall : m.par.getLsbD 24 = false) (hst : (c.ep key).st = .running) : c.cmdStopEp n m = ((c.stop key .settle).tend key).wait
      { keys := [key], was := c.epStates [key], cont := .stopEp n m.id key } := by
  subst hkey
  have hall' : m.par[24] = false := by simpa using hall
  simp [Chip.cmdStopEp, hown, Chip.adopt_owned horph, Chip.sharedBy_none hsh, hst, hall']

theorem Chip.cmdDisableSlot_bare {sk : Nat} (hsk : c.slotKey (par m.par 0 12) = sk) (heps : c.slotEps sk = []) :
    c.cmdDisableSlot n m = c.wait { cont := .disableSlot n m.id sk } := by
  subst hsk
  simp [Chip.cmdDisableSlot, hown, Chip.adopt_owned horph, Chip.sharedBy_none hsh, heps, Chip.epStates]

end Owned

theorem Chip.owns_far {sk : Nat} (hn : n < 128) (hown : c.owns n sk = true) (hsh : (c.slot sk).shared = none) : (c.slot sk).far = none := by
  simp only [Chip.owns, hsh, show ¬ 128 ≤ n by omega, if_false, Bool.and_eq_true] at hown
  exact Option.isNone_iff_eq_none.1 hown.2.1

theorem Chip.takePlace_local {sk : Nat} (h : (c.slot sk).far = none) : c.takePlace sk = some c := by simp [Chip.takePlace, h]

/-- SET_DEQUEUE on a ring of a stopped endpoint that is not shared (R107). -/
theorem Chip.cmdSetDequeue_stopped {k : Nat} (hk : par m.par 0 15 = k) (hlive : (c.ring n k).live = true)
    (horph : (c.slot (c.ring n k).slot).orphan = false) (hsh : (c.slot (c.ring n k).slot).shared = none)
    (hidx : par m.par 16 16 < (c.ring n k).size) (hst : (c.ep (c.ring n k).key).st = .stopped) (hstop : (c.ep (c.ring n k).key).stop = none) :
    c.cmdSetDequeue n m = ((c.stop (c.ring n k).key .quit).tend (c.ring n k).key).wait
      { keys := [(c.ring n k).key], posted := false, cont := .setDequeue n m.id k (par m.par 16 16) true } := by
  subst hk
  have hview : c.ringView n (par m.par 0 15) = false := by simp [Chip.ringView, Chip.sharedBy_none hsh]
  have hno : ¬((c.ring n (par m.par 0 15)).size ≤ par m.par 16 16) := by omega
  simp [Chip.cmdSetDequeue, hview, hlive, Chip.adopt_owned horph, hno, hst, hstop]
  rfl

theorem Chip.ring_updRing_same (c : Chip) (n k : Nat) (f : Ring → Ring) : (c.updRing n k f).ring n k = f (c.ring n k) := by
  rw [Chip.ring, Chip.updRing, Chip.inst_updInst_same]
  exact Tbl.get_set_same ..

theorem Chip.cmds_updRing (c : Chip) (n k : Nat) (f : Ring → Ring) : ((c.updRing n k f).inst n).cmds = (c.inst n).cmds := by
  rw [Chip.updRing, Chip.inst_updInst_same]

theorem Chip.ring_updRing_other {k j : Nat} (f : Ring → Ring) (hj : j ≠ k) : (c.updRing n k f).ring n j = c.ring n j := by
  rw [Chip.ring, Chip.updRing, Chip.inst_updInst_same]
  exact Tbl.get_set_other _ _ _ hj

/-! ### The stop of an endpoint that rests -/

variable {e : Ep} {now key : Nat}

theorem Ep.bump_free (h : e.flights = []) : e.bump now = { e with epoch := e.epoch + 1, rally := e.rally.ease now } := by
  simp [Ep.bump, Ep.carries, h]

theorem Ep.stopped_quit : ∃ st nrdy erdy, e.stopped .quit now =
    { e with stop := none, asked := false, rerouted := false, st := st, nrdy := nrdy, erdy := erdy } ∧ (e.st ≠ .running → st = e.st) := by
  by_cases h : e.st = .running
  · exact ⟨.stopped, false, false, if_pos h, fun g => absurd h g⟩
  · exact ⟨e.st, e.nrdy, e.erdy, if_neg h, fun _ => rfl⟩

theorem Ep.stopped_settle (h : e.st = .running) (hf : e.flights = []) : e.stopped .settle now =
    { e with stop := none, asked := false, rerouted := false, epoch := e.epoch + 1, rally := e.rally.ease now, st := .stopped
             nrdy := false, erdy := false } := by
  simp only [Ep.stopped, h, if_true]
  rw [Ep.bump_free (by exact hf)]
  rfl

/-- An endpoint at rest settles at once, and its instance's commands stay. -/
theorem Chip.stop_rests {why : StopWhy} (hr : c.resting key) (hw : why = .quit ∨ why = .settle)
    (hf : ((c.ep key).unstaged.stopped why c.us).stop = none ∧ ((c.ep key).unstaged.stopped why c.us).due = 0) :
    (((c.stop key why).tend key).ep key).stop = none ∧ (((c.stop key why).tend key).ep key).due = 0 := by
  obtain ⟨-, he⟩ := Chip.stop_tend_resting hr why (by tauto)
  rw [he]
  exact hf

theorem Chip.KeptBut.cmds {d : Chip} (h : c.KeptBut key d) (n : Nat) : (d.inst n).cmds = (c.inst n).cmds :=
  (congrArg Inst.cmds (h.inst n) :)

theorem Chip.KeptBut.epHeld {d : Chip} (h : c.KeptBut key d) (j : Nat) : d.epHeld j = c.epHeld j := by
  have hc (n : Nat) : (d.inst n).crings = (c.inst n).crings := (congrArg Inst.crings (h.inst n) :)
  simp only [Chip.epHeld, h.ringHome, hc]

theorem Chip.KeptBut.slot {d : Chip} (h : c.KeptBut key d) (sk : Nat) : d.slot sk = c.slot sk := by
  simp only [Chip.slot, h.slots]

theorem Chip.settledAll_one {d : Chip} (hs : (d.ep key).stop = none) (hd : (d.ep key).due = 0) : d.settledAll [key] = true := by
  simp [Chip.settledAll, hs, hd]

/-- Work that waits for one settled endpoint alone is ready. -/
theorem Chip.ready_one {d : Chip} {posted : Bool} {was : List (Nat × EpSt)} {peps : List Nat} {k : Cont} (hs : (d.ep key).stop = none)
    (hd : (d.ep key).due = 0) (hh : posted = true → d.epHeld key = false) (hp : peps = []) :
    (d.wait { keys := [key], posted := posted, was := was, peps := peps, cont := k }).ready
      { keys := [key], posted := posted, was := was, peps := peps, cont := k } = true := by
  subst hp
  have hsettled : (d.wait { keys := [key], posted := posted, was := was, peps := [], cont := k }).settledAll [key] = true :=
    Chip.settledAll_one hs hd
  have hheld : (!posted || !(d.wait { keys := [key], posted := posted, was := was, peps := [], cont := k }).epHeld key) = true := by
    cases posted
    · rfl
    · exact congrArg (!·) (hh rfl)
  simp only [Chip.ready, hsettled, List.any_cons, List.any_nil, Bool.or_false, hheld, List.all_nil, Bool.and_self]

/-- Disabling a slot without endpoints clears it (R108). -/
theorem Chip.disableRings_bare {sk id : Nat} (heps : c.slotEps sk = []) :
    c.disableRings n id sk = c.wait { cont := .clearSlot n id sk } := by
  simp [Chip.disableRings, heps]

theorem Chip.disableDone_bare {sk id : Nat} (heps : c.slotEps sk = []) (hman : (c.slot sk).managed = false)
    (hfar : (c.slot sk).far = none) : c.disableDone n id sk
      = (({ c with slots := Tbl.set {} c.slots sk {} } : Chip).finish n id ccSuccess 0).retryParked := by
  have hclear : c.clearSlot sk true = { c with slots := Tbl.set {} c.slots sk {} } := by simp [Chip.clearSlot, heps, hfar]
  simp only [Chip.disableDone, hclear, hman, Bool.false_and, Bool.false_eq_true, if_false]

/-- What STOP_EP reports of an endpoint that has stopped (R106). -/
theorem Chip.stopDone_kept {d : Chip} {id : Nat} (hkept : c.KeptBut key d) (hsh : (c.slot (keySlot key)).shared = none)
    (hst : (d.ep key).st = .stopped) (hring : (d.ep key).headRing = (c.ep key).headRing) :
    d.stopDone n id key = d.finish n id ccSuccess ((c.ring (c.ringHome (keySlot key)) (c.ep key).headRing).cons
      + flagAt (d.ep key).settled 16) := by
  have hcons : d.consOf n key = (c.ring (c.ringHome (keySlot key)) (c.ep key).headRing).cons := by
    rw [← hkept.ring, ← hkept.ringHome, ← hring]
    exact if_neg (by rw [Chip.sharedBy_none (by rw [hkept.slot]; exact hsh)]; decide)
  simp [Chip.stopDone, hcons, hst]

theorem Chip.finishBumped_free {id : Nat} (h : (c.ep key).due = 0) : c.finishBumped n id key = c.finish n id ccSuccess 0 := if_pos h

/-- Dropping an endpoint without a context of its own (R104). -/
theorem Chip.dropDone_plain {id sk bit : Nat} (hsk : keySlot key = sk) (hbit : keyBit key = bit)
    (hpep : (c.ep key).pep = none) (hfar : (c.slot sk).far = none) :
    ∃ d, c.dropDone n id key = Chip.wait d { keys := [key], posted := false, cont := .finish n id ccSuccess 0 }
      ∧ d.ep key = (c.ep key).gone true c.us ∧ (∀ j, j ≠ key → d.ep j = c.ep j)
      ∧ d.slots = Tbl.upd {} c.slots sk (fun s => { s with epMask := s.epMask &&& ~~~(BitVec.ofNat 32 (2 ^ bit)) })
      ∧ d.waits = c.waits ∧ d.insts = c.insts := by
  subst hsk hbit
  have hkey : epKey (keySlot key) (keyBit key) = key := by
    unfold epKey keySlot keyBit
    omega
  have hclear : (c.clearEp key true).slot (keySlot key) = c.slot (keySlot key) := by simp only [Chip.clearEp, hpep]; rfl
  refine ⟨c.dropEp (keySlot key) (keyBit key), by simp [Chip.dropDone, hpep], ?_⟩
  have hdrop : c.dropEp (keySlot key) (keyBit key) = (c.clearEp key true).updSlot (keySlot key) (fun s =>
      { s with epMask := s.epMask &&& ~~~(BitVec.ofNat 32 (2 ^ keyBit key)) }) := by
    rw [Chip.dropEp, hkey]
    refine if_neg ?_
    rw [Chip.slot_updSlot_same, hclear, hfar]
    decide
  rw [hdrop]
  simp only [Chip.clearEp, hpep]
  exact ⟨Tbl.get_set_same .., fun j hj => Tbl.get_set_other _ _ _ hj, rfl, rfl, rfl⟩

/-- The work of SET_DEQUEUE, on an endpoint with nothing in flight (R107). -/
theorem Chip.setDequeueDone_free {id k idx : Nat} (hkey : (c.ring n k).key = key) (hf : (c.ep key).flights = []) (hd : (c.ep key).due = 0) :
    c.setDequeueDone n id k idx true
      = ((c.updRing n k (fun r => r.restart idx)).updEp key (fun e => e.bump c.us)).finish n id ccSuccess 0 := by
  subst hkey
  refine Chip.finishBumped_free ?_
  have hep : ((c.updRing n k (fun r => r.restart idx)).updEp (c.ring n k).key (fun e => e.bump c.us)).ep (c.ring n k).key
      = (c.ep (c.ring n k).key).bump c.us := Chip.ep_updEp_same ..
  exact (congrArg Ep.due (hep.trans (Ep.bump_free hf))).trans hd

theorem exec_setDequeue {i : Fin 128} (h : s.chip.soleCmd i.val m) (hn : i.val < 128) (hk : m.kind = .setDequeue) :
    let n := i.val
    let c := s.chip.begun n m
    let k := par m.par 0 15
    let r := c.ring n k
    r.live = true → (c.slot r.slot).orphan = false → (c.slot r.slot).shared = none →
      par m.par 16 16 < r.size → (c.ep r.key).st = .stopped → (c.ep r.key).stop = none → c.resting r.key →
      ∃ d : Chip, exec (.setDequeue i m.tag m.par) s = .next { s with chip := d.reported n m ccSuccess 0 }
        ∧ d.ring n k = r.restart (par m.par 16 16)
        ∧ (∀ j, j ≠ k → d.ring n j = c.ring n j) ∧ d.ep r.key = ((c.ep r.key).unstaged.stopped .quit c.us).bump c.us
        ∧ (d.ep r.key).epoch = (c.ep r.key).epoch + 1 ∧ (∀ j, j ≠ r.key → d.ep j = c.ep j) ∧ d.slots = c.slots := by
  intro n c k r hlive horph hsh hidx hst hstop hrest
  have hcalm : c.calmed = true := Chip.calmed_begun m h.1
  obtain ⟨hkept, hep⟩ := Chip.stop_tend_resting hrest .quit (.inl rfl)
  have hrow := (Chip.localCmd_setDequeue (c := c) (n := n) (m := { m with phase := .waiting }) hk).trans
    (Chip.cmdSetDequeue_stopped rfl hlive horph hsh hidx hst hstop)
  obtain ⟨st, nrdy, erdy, hquit, -⟩ := Ep.stopped_quit (e := (c.ep r.key).unstaged) (now := c.us)
  have hflights : ((c.ep r.key).unstaged.stopped .quit c.us).flights = [] := by rw [hquit]; exact hrest.2.2.2.2.2.1
  have hdue : ((c.ep r.key).unstaged.stopped .quit c.us).due = 0 := by rw [hquit]; exact hrest.2.2.2.2.1
  have hnone : ((c.ep r.key).unstaged.stopped .quit c.us).stop = none := by rw [hquit]
  have hepoch : ((c.ep r.key).unstaged.stopped .quit c.us).epoch = (c.ep r.key).epoch := by rw [hquit]; rfl
  change (c.localCmd n { m with phase := .waiting } = ((c.stop r.key .quit).tend r.key).wait _) at hrow
  generalize (c.stop r.key .quit).tend r.key = d at hkept hep hrow
  have hep' : ((d.updRing n k (fun r => r.restart (par m.par 16 16))).updEp r.key (fun e => e.bump d.us)).ep r.key
      = ((c.ep r.key).unstaged.stopped .quit c.us).bump c.us :=
    (Chip.ep_updEp_same ..).trans (congrArg₂ Ep.bump hep hkept.us)
  refine ⟨_, exec_wait_reports h hn hk rfl (D := (d.updRing n k (fun r => r.restart (par m.par 16 16))).updEp r.key (fun e => e.bump d.us))
      ?calm ?cmds hrow (hkept.calm hcalm) rfl (Chip.ready_one (by rw [hep, hnone]) (by rw [hep, hdue]) (fun h => Bool.noConfusion h) rfl)
      (Chip.setDequeueDone_free (congrArg Ring.key (hkept.ring n k)) (by rw [hep]; exact hflights) (by rw [hep]; exact hdue)),
    ?ring, fun j hj => ?rings, hep', ?epoch, fun j hj => ?eps, hkept.slots⟩
  case calm =>
    exact Chip.calmed_updInst (f := fun x => { x with rings := Tbl.upd {} x.rings k (fun r => r.restart (par m.par 16 16)) })
      (hkept.calm hcalm) fun _ => rfl
  case cmds => exact (Chip.cmds_updRing d n k _).trans (hkept.cmds n)
  case ring => exact (Chip.ring_updRing_same ..).trans (congrArg (Ring.restart · (par m.par 16 16)) (hkept.ring n k))
  case rings => exact (Chip.ring_updRing_other _ hj).trans (hkept.ring n j)
  case epoch => rw [hep', Ep.bump_free hflights, ← hepoch]
  case eps => rw [Chip.ep_updEp, if_neg hj]; exact hkept.ep j hj

/-- Settles O26: each command answers with its row, or with the work that is ready once its endpoints have stopped. -/
theorem slotAndEndpointCommands : Obligations.SlotAndEndpointCommands := by
  intro s i m h n c sk key e ends
  have hn : n < 128 := i.isLt
  have hcalm : c.calmed = true := Chip.calmed_begun m h.1
  have hslot : keySlot key = sk := keySlot_epKey sk _
  refine ⟨fun b k hk hb hconn henum hspeed hroute horph hroom hnew => ?enable, fun hk hb => ?enableForeign, fun hk hown => ?stopForeign,
    fun hown horph hsh => ⟨fun hk hmode hst htt hep hroom hctx => ?address, fun hk hdrop honly hst hrings hpep hrest hheld => ?drop,
      fun hk hst hrest => ?reset, fun hk hst => ?resetRunning, fun hk ha hst => ?stopStopped, fun hk ha hst hrest hheld => ?stop,
      fun hk heps hman hfar hpark => ?disable⟩, ?setDequeue⟩
  case enable =>
    exact exec_reports h hn hk rfl (D := c.updSlot k _) (by exact hcalm) rfl
      ((Chip.localCmd_enableSlot hk).trans (Chip.cmdEnableSlot_new hn hb hconn henum hspeed hroute horph hroom hnew))
  case enableForeign => exact exec_reports h hn hk rfl hcalm rfl ((Chip.localCmd_enableSlot hk).trans (Chip.cmdEnableSlot_foreign hb))
  case stopForeign => exact exec_reports h hn hk rfl hcalm rfl ((Chip.localCmd_stopEp hk).trans (Chip.cmdStopEp_foreign hown))
  case address =>
    have hplace := Chip.takePlace_local (Chip.owns_far hn hown hsh)
    have hmake : (c.makeEp0 sk (par m.par 16 11)).waits = c.waits ∧ (c.makeEp0 sk (par m.par 16 11)).insts = c.insts := by
      simp only [Chip.makeEp0, hplace, Option.getD_some]
      exact ⟨rfl, rfl⟩
    refine exec_reports (D := (c.makeEp0 sk (par m.par 16 11)).updSlot sk _) h hn hk rfl (Chip.calmed_same hcalm hmake.1 hmake.2)
      (congrArg (fun t => (Tbl.get {} t n).cmds) hmake.2)
      ((Chip.localCmd_addressDevice hk).trans (Chip.cmdAddressDevice_default hown horph hmode hst htt hep hroom hctx ?_))
    exact Option.isSome_iff_exists.2 ⟨_, hplace⟩
  case resetRunning =>
    exact exec_reports h hn hk rfl hcalm rfl ((Chip.localCmd_resetEp hk).trans (Chip.cmdResetEp_running hown horph hsh rfl hst))
  case stopStopped =>
    have hcons : c.consOf n key = (c.ring (c.ringHome (keySlot key)) e.headRing).cons :=
      if_neg (by rw [hslot, Chip.sharedBy_none hsh]; decide)
    rw [← hcons]
    exact exec_reports h hn hk rfl hcalm rfl ((Chip.localCmd_stopEp hk).trans (Chip.cmdStopEp_stopped hown horph hsh rfl ha hst))
  case disable =>
    have hcont (code : Byte) (r : Nat) (D : Chip) (hD : (D.inst n).cmds = (c.inst n).cmds) (hp : D.ports = c.ports) :
        (D.finish n m.id code r).retryParked = D.finish n m.id code r := by
      rw [Chip.finish_begun hD]
      obtain ⟨y, o, fr, heq, -⟩ := D.reported_frame m code r hn
      rw [heq]
      exact Chip.retryParked_nil fun p hp' => by simpa only [Chip.port, hp] using hpark p hp'
    refine exec_waits_reports (D := { c with slots := Tbl.set {} c.slots sk {} }) h hn hk rfl (by exact hcalm) rfl
      ((Chip.localCmd_disableSlot hk).trans (Chip.cmdDisableSlot_bare hown horph hsh rfl heps)) hcalm rfl rfl
      (Chip.disableRings_bare heps) hcalm rfl rfl ((Chip.disableDone_bare heps hman hfar).trans (hcont _ _ _ rfl rfl))
  case stop =>
    obtain ⟨hkept, hep⟩ := Chip.stop_tend_resting hrest .settle (.inr (.inl rfl))
    have hflights : e.unstaged.flights = [] := hrest.2.2.2.2.2.1
    have hstopped := Ep.stopped_settle (now := c.us) (e := e.unstaged) hst hflights
    rw [hstopped] at hep
    refine ⟨(c.stop key .settle).tend key, ?_, by rw [hstopped]; exact hep, by rw [hep], by rw [hep]; rfl, hkept.ep, hkept.slots⟩
    have hdone := Chip.stopDone_kept (n := n) (id := m.id) hkept (by rw [hslot]; exact hsh) (by rw [hep]) (by rw [hep]; rfl)
    rw [show (((c.stop key .settle).tend key).ep key).settled = (e.asked && e.settled) by rw [hep]; rfl] at hdone
    exact exec_wait_reports h hn hk rfl (hkept.calm hcalm) (hkept.cmds n)
      ((Chip.localCmd_stopEp hk).trans (Chip.cmdStopEp_running hown horph hsh rfl ha hst)) (hkept.calm hcalm) rfl
      (Chip.ready_one (by rw [hep]) (by rw [hep]; exact hrest.2.2.2.2.1) (fun _ => (hkept.epHeld key).trans hheld) rfl) hdone
  case reset =>
    obtain ⟨hkept, hep⟩ := Chip.stop_tend_resting hrest .quit (.inl rfl)
    obtain ⟨st, nrdy, erdy, hquit, hst'⟩ := Ep.stopped_quit (e := e.unstaged) (now := c.us)
    have hflights : ((e.unstaged.stopped .quit c.us)).flights = [] := by rw [hquit]; exact hrest.2.2.2.2.2.1
    have hdue : (e.unstaged.stopped .quit c.us).due = 0 := by rw [hquit]; exact hrest.2.2.2.2.1
    have hreset : (e.unstaged.stopped .quit c.us).reset c.us = _ := congrArg (fun e : Ep => { e with
      st := .stopped, seq := 0, strikes := 0, pingDue := false, nrdy := false, erdy := false, split := false }) (Ep.bump_free hflights)
    have hep' : (((c.stop key .quit).tend key).updEp key (fun e => e.reset ((c.stop key .quit).tend key).us)).ep key
        = (e.unstaged.stopped .quit c.us).reset c.us := by rw [Chip.ep_updEp_same, hep, hkept.us]
    refine ⟨((c.stop key .quit).tend key).updEp key (fun e => e.reset ((c.stop key .quit).tend key).us), ?_, hep', ?_, ?_, ?_, ?_,
      fun j hj => ?_, hkept.slots⟩
    · exact exec_wait_reports h hn hk rfl (hkept.calm hcalm) (hkept.cmds n)
        ((Chip.localCmd_resetEp hk).trans (Chip.cmdResetEp_halted hown horph hsh rfl hst)) (hkept.calm hcalm) rfl
        (Chip.ready_one (by rw [hep, hquit]) (by rw [hep]; exact hdue) (fun h => Bool.noConfusion h) rfl)
        (Chip.finishBumped_free (by rw [hep', hreset]; exact hdue))
    · rw [hep', hreset]
    · rw [hep', hreset, hquit]; rfl
    · rw [hep', hreset]
    · rw [hep', hreset]
    · rw [Chip.ep_updEp, if_neg hj]
      exact hkept.ep j hj
  case drop =>
    obtain ⟨hkept, hep⟩ := Chip.stop_tend_resting hrest .quit (.inl rfl)
    obtain ⟨st, nrdy, erdy, hquit, -⟩ := Ep.stopped_quit (e := e.unstaged) (now := c.us)
    have hfar : (((c.stop key .quit).tend key).slot sk).far = none := by
      rw [hkept.slot]
      exact Chip.owns_far hn hown hsh
    obtain ⟨d, hdone, hdep, hother, hslots, hwaits, hinsts⟩ := Chip.dropDone_plain (c := (c.stop key .quit).tend key) (n := n) (id := m.id)
      hslot (keyBit_epKey sk (par m.par 16 8)) (by rw [hep, hquit]; exact hpep) hfar
    have hgone : d.ep key = { epoch := e.epoch + 1 } := by
      rw [hdep, hep, hquit]
      have hflights : e.flights = [] := hrest.2.2.2.2.2.1
      have hdue : e.due = 0 := hrest.2.2.2.2.1
      simp [Ep.gone, Ep.unstaged, Ep.bump, Ep.carries, hflights, hdue]
    refine ⟨d, ?_, hgone, fun j hj => (hother j hj).trans (hkept.ep j hj), by rw [hslots, hkept.slots]⟩
    have hd : d.calmed = true := Chip.calmed_same (hkept.calm hcalm) hwaits hinsts
    exact exec_waits_reports h hn hk rfl hd ((congrArg (fun t => (Tbl.get {} t n).cmds) hinsts).trans (hkept.cmds n))
      ((Chip.localCmd_configureEp hk).trans (Chip.cmdConfigureEp_drop hown horph hsh hdrop honly rfl hst hrings)) (hkept.calm hcalm) rfl
      (Chip.ready_one (by rw [hep, hquit]) (by rw [hep, hquit]; exact hrest.2.2.2.2.1) (fun _ => (hkept.epHeld key).trans hheld) rfl)
      hdone hd rfl (Chip.ready_one (by rw [hgone]) (by rw [hgone]) (fun h => Bool.noConfusion h) rfl) rfl
  case setDequeue => exact fun hk hlive horph hsh hidx hst hstop hrest => exec_setDequeue h hn hk hlive horph hsh hidx hst hstop hrest

end Sys2Proof.Machine
end

/-! # Commands on rings, ports and the Scorebook (R98, R107 to R114, R194) -/

section

namespace Sys2Proof.Machine

variable {s : State} {c : Chip} {n : Nat} {m : Cmd}

/-! ### Rings -/

theorem Ep.stopped_quit_st {e : Ep} {now : Nat} : (e.stopped .quit now).st ≠ .running := by
  by_cases h : e.st = .running
  · simp [Ep.stopped, h]
  · simp [Ep.stopped, h]

theorem Chip.inst_begun (c : Chip) (n : Nat) (m : Cmd) : (c.begun n m).inst n = { c.inst n with
    cmds := [{ m with phase := .running, holder := (c.dispatch (cmdKinds.idxOf m.kind)).1 }] } := by
  obtain ⟨fr, hd⟩ := c.dispatch_frame (cmdKinds.idxOf m.kind)
  simp only [Chip.begun, hd, Chip.inst_updInst_same]
  rfl

theorem Chip.cmds_updInst {f : Inst → Inst} (h : (f (c.inst n)).cmds = (c.inst n).cmds) :
    ((c.updInst n f).inst n).cmds = (c.inst n).cmds := by
  rw [Chip.inst_updInst_same, h]

/-- CREATE_RING for an endpoint that has no ring (R107). -/
theorem Chip.cmdCreateRing_transfer {sk bit k : Nat} (hsk : c.slotKey (par m.par 64 12) = sk)
    (hbit : par m.par 76 4 + 16 * par m.par 80 1 = bit) (hkind : m.par.getLsbD 5 = false) (hown : c.owns n sk = true)
    (horph : (c.slot sk).orphan = false) (hsh : (c.slot sk).shared = none) (hst : (c.ep (epKey sk bit)).st ≠ .disabled)
    (hmax : (c.ep (epKey sk bit)).maxStreams = 0) (hring : (c.ep (epKey sk bit)).ring = 0) (hstream : par m.par 81 9 = 0)
    (hnew : c.newRing n = some k) :
    c.cmdCreateRing n m = ((c.updRing n k (fun r => {
        live := true, base := BitVec.ofNat 64 (par m.par 6 58 * 64), log2 := par m.par 0 5, slot := sk, ep := bit, stream := 0
        dead := r.dead })).updEp (epKey sk bit) (fun e => { e with ring := k })).finish n m.id ccSuccess k := by
  subst hsk hbit
  have hshared := Chip.sharedBy_none hsh
  have hfits : c.ringFits n (c.slotKey (par m.par 64 12)) (par m.par 76 4 + 16 * par m.par 80 1) 0 = true := by
    simp [Chip.ringFits, hshared, hst, hmax, hring]
  have hshared' (f : Ring → Ring) : (c.updRing n k f).sharedBy (c.slotKey (par m.par 64 12)) = false := hshared
  rw [Chip.cmdCreateRing, if_neg (ne_true_of_eq_false hkind)]
  simp only [Chip.createTransfer, hown, Chip.adopt_owned horph, hstream, hfits, hnew, Bool.not_true, Bool.false_eq_true, if_false,
    Chip.bindRing, hshared', if_true]

/-- CREATE_RING of a completion ring of a free index (R107). -/
theorem Chip.cmdCreateRing_completion {k : Nat} (hk : par m.par 64 6 = k) (hkind : m.par.getLsbD 5 = true) (h0 : k ≠ 0)
    (hfree : ((c.inst n).cring k).live = false) (hcompat : (c.inst n).compat = false) (hvec : par m.par 72 6 < (c.inst n).quota.vectors)
    (hroom : c.room n Quota.crings 1 = true) :
    c.cmdCreateRing n m = (c.updInst n (fun x => { x with crings := Tbl.set {} x.crings k {
        live := true, base := BitVec.ofNat 64 (par m.par 6 58 * 64), log2 := par m.par 0 5, vector := par m.par 72 6 } })).finish
      n m.id ccSuccess k := by
  subst hk
  have hvec' : ¬ (c.inst n).quota.vectors ≤ par m.par 72 6 := by omega
  rw [Chip.cmdCreateRing, if_pos hkind]
  simp only [Chip.createCring, h0, hfree, hcompat, hvec', hroom, Bool.not_true, Bool.false_eq_true, and_false, false_and, or_self, if_false]

theorem Chip.cmdDestroyRing_transfer {k : Nat} (hk : par m.par 0 15 = k) (hkind : m.par.getLsbD 15 = false) (hlive : (c.ring n k).live = true)
    (horph : (c.slot (c.ring n k).slot).orphan = false) (hsh : (c.slot (c.ring n k).slot).shared = none) :
    c.cmdDestroyRing n m = ((c.stop (c.ring n k).key .quit).tend (c.ring n k).key).wait
      { keys := [(c.ring n k).key], was := c.epStates [(c.ring n k).key], cont := .destroyRing n m.id k } := by
  subst hk
  have hview : c.ringView n (par m.par 0 15) = false := by simp [Chip.ringView, Chip.sharedBy_none hsh]
  rw [Chip.cmdDestroyRing, if_neg (ne_true_of_eq_false hkind)]
  simp only [hlive, Chip.adopt_owned horph, hview, Bool.not_true, Bool.false_eq_true, if_false]

/-! ### The Scorebook -/

/-- GET_SCOREBOOK of an instance without far devices dumps at once (R194). -/
theorem Chip.cmdGetScorebook_local (hn : n < 128) (hnodes : c.farNodes n = []) :
    c.cmdGetScorebook n m = (c.updInst n (fun x => { x with
      cmds := updFirst (fun a => a.id == m.id) (fun a => { a with ask := [] }) x.cmds })).dumpDone n { m with ask := [] } := by
  simp only [Chip.cmdGetScorebook, show ¬ 128 ≤ n by omega, if_false, hnodes, Chip.dumpStep]

theorem Chip.sbDump_updInst (f : Inst → Inst) (far : List Byte) (h : (f (c.inst n)).gen = (c.inst n).gen)
    (h2 : (f (c.inst n)).samples = (c.inst n).samples) : (c.updInst n f).sbDump n far = c.sbDump n far := by
  have hl : (c.updInst n f).localEntries n = c.localEntries n := rfl
  simp only [Chip.sbDump, hl, Chip.inst_updInst_same, h, h2]
  rfl

theorem Chip.dropRing_ep {k key : Nat} (hkey : (c.ring n k).key = key) : (c.dropRing n k).ep key = { c.ep key with
    ring := if (c.ep key).ring = k then 0 else (c.ep key).ring
    streams := (c.ep key).streams.filter (fun s => s.2 != k)
    views := (c.ep key).views.filter (fun m => !(m.1 == n && m.2.ring == k)) } := by
  subst hkey
  exact Chip.ep_updEp_same ..

theorem exec_destroyRing {i : Fin 128} (h : s.chip.soleCmd i.val m) (hn : i.val < 128) (hk : m.kind = .destroyRing) :
    let n := i.val
    let c := s.chip.begun n m
    let k := par m.par 0 15
    let r := c.ring n k
    m.par.getLsbD 15 = false → r.live = true → (c.slot r.slot).orphan = false → (c.slot r.slot).shared = none →
      c.resting r.key → c.epHeld r.key = false →
      ∃ d : Chip, exec (.destroyRing i m.tag m.par) s = .next { s with chip := d.reported n m ccSuccess 0 }
        ∧ d.ring n k = { dead := r.dead + r.reads } ∧ (∀ j, j ≠ k → d.ring n j = c.ring n j)
        ∧ (d.ep r.key).st ≠ .running ∧ ((c.ep r.key).ring = k → (d.ep r.key).ring = 0) ∧ (d.ep r.key).epoch = (c.ep r.key).epoch
        ∧ (∀ j, j ≠ r.key → d.ep j = c.ep j) ∧ d.slots = c.slots := by
  intro n c k r hkind hlive horph hsh hrest hheld
  have hcalm : c.calmed = true := Chip.calmed_begun m h.1
  obtain ⟨hkept, hep⟩ := Chip.stop_tend_resting hrest .quit (.inl rfl)
  have hrow := (Chip.localCmd_destroyRing (c := c) (n := n) (m := { m with phase := .waiting }) hk).trans
    (Chip.cmdDestroyRing_transfer rfl hkind hlive horph hsh)
  obtain ⟨st, nrdy, erdy, hquit, -⟩ := Ep.stopped_quit (e := (c.ep r.key).unstaged) (now := c.us)
  have hdue : ((c.ep r.key).unstaged.stopped .quit c.us).due = 0 := by rw [hquit]; exact hrest.2.2.2.2.1
  have hnone : ((c.ep r.key).unstaged.stopped .quit c.us).stop = none := by rw [hquit]
  have hst : ((c.ep r.key).unstaged.stopped .quit c.us).st ≠ .running := Ep.stopped_quit_st
  have hsame : ((c.ep r.key).unstaged.stopped .quit c.us).ring = (c.ep r.key).ring
      ∧ ((c.ep r.key).unstaged.stopped .quit c.us).epoch = (c.ep r.key).epoch := by rw [hquit]; exact ⟨rfl, rfl⟩
  change (c.localCmd n { m with phase := .waiting } = ((c.stop r.key .quit).tend r.key).wait _) at hrow
  generalize (c.stop r.key .quit).tend r.key = d at hkept hep hrow
  have hkey : (d.ring n k).key = r.key := congrArg Ring.key (hkept.ring n k)
  have hdrop := Chip.dropRing_ep hkey
  rw [hep] at hdrop
  refine ⟨d.dropRing n k, exec_wait_reports h hn hk rfl ?calm ?cmds hrow (hkept.calm hcalm) rfl
      (Chip.ready_one (by rw [hep, hnone]) (by rw [hep, hdue]) (fun _ => (hkept.epHeld _).trans hheld) rfl) rfl,
    ?ring, fun j hj => ?rings, by rw [hdrop]; exact hst, fun h => ?bound, by rw [hdrop]; exact hsame.2, fun j hj => ?eps, hkept.slots⟩
  case calm => exact Chip.calmed_set (x := { d.inst n with rings := _ }) (hkept.calm hcalm) rfl rfl (Chip.cmds_calmed (hkept.calm hcalm) n)
  case cmds => exact (Chip.cmds_updRing d n k _).trans (hkept.cmds n)
  case ring => exact (Chip.ring_updRing_same ..).trans (congrArg Ring.destroyed (hkept.ring n k))
  case rings => exact (Chip.ring_updRing_other _ hj).trans (hkept.ring n j)
  case bound => rw [hdrop]; exact if_pos (hsame.1.trans h)
  case eps =>
    rw [Chip.dropRing, hkey, Chip.ep_updEp, if_neg hj]
    exact hkept.ep j hj

/-- A report does not depend on what the instance's commands were. -/
theorem Chip.reported_updCmds (f : List Cmd → List Cmd) (o : Out) (a : List Nat) (code : Byte) (r : Nat) :
    ((c.updInst n (fun x => { x with cmds := f x.cmds })).emit o).reported n { m with ask := a, phase := .waiting } code r
      = (c.emit o).reported n m code r := by
  have hcomm : (c.updInst n (fun x => { x with cmds := f x.cmds })).emit o = (c.emit o).updInst n (fun x => { x with cmds := f x.cmds }) := rfl
  rw [hcomm]
  simp only [Chip.reported, Chip.updInst_updInst, Chip.inst_updInst_same]

theorem exec_getScorebook {i : Fin 128} {bs : List Byte} (h : s.chip.soleCmd i.val m) (hn : i.val < 128) (hk : m.kind = .getScorebook)
    (hc : s.chip.begun i.val m = c) (hbs : c.sbDump i.val m.parts = bs) (hnodes : c.farNodes i.val = []) :
    exec (.getScorebook i m.tag m.par) s = .next { s with chip := (c.emit (.dump i.val (BitVec.ofNat 64 (par m.par 0 64))
                                                    (dumpCut (par m.par 64 24) bs))).reported i.val m ccSuccess bs.length } := by
  have hcalm : c.calmed = true := hc ▸ Chip.calmed_begun m h.1
  have hcmds := Chip.begun_cmds s.chip i.val m
  have hrow := (Chip.localCmd_getScorebook (c := c) (n := i.val) (m := { m with phase := .waiting }) hk).trans
    (Chip.cmdGetScorebook_local hn hnodes)
  have hdump := Chip.sbDump_updInst (c := c) (n := i.val) (fun x => { x with
    cmds := updFirst (fun a => a.id == m.id) (fun a => { a with ask := [] }) x.cmds }) m.parts rfl rfl
  have hbegun : ((c.updInst i.val (fun x => { x with
      cmds := updFirst (fun a => a.id == m.id) (fun a => { a with ask := [] }) x.cmds })).inst i.val).cmds
      = [{ m with ask := [], phase := .running, holder := (s.chip.dispatch (cmdKinds.idxOf m.kind)).1 }] := by
    rw [Chip.inst_updInst_same]
    dsimp only
    rw [← hc, hcmds]
    simp [updFirst]
  refine (congrArg Host.Outcome.next (?_ : s.act (fun c => c.cmdRow i.val .getScorebook m.tag m.par) = _))
  rw [← hk]
  refine State.act_cmdRow h (Chip.calmed_reported m ccSuccess _ hn (by exact hcalm)) ?_
  rw [hc, hrow, ← Chip.reported_updCmds (updFirst (fun a => a.id == m.id) (fun a => { a with ask := [] })) _ [], Chip.dumpDone]
  dsimp only
  rw [hdump, hbs]
  exact Chip.finish_sole _ i.val { m with ask := [], phase := .waiting } ccSuccess bs.length hbegun

/-! ### Ports -/

theorem Chip.powerOn_rest (c : Chip) (b : Nat) : (c.powerOn b).insts = c.insts ∧ (c.powerOn b).waits = c.waits := by
  unfold Chip.powerOn Chip.ppeHigh
  by_cases hb : b < 8
  · simp only [hb, if_true]
    exact ⟨rfl, rfl⟩
  · simp only [hb, if_false]
    exact ⟨rfl, rfl⟩

/-- A port while its reset waits for its slots (R111). -/
def Port.resetting (r : CmdRef) (p : Port) : Port :=
  { p with
    st := pResetting, wasSpeed := p.speed
    before := if p.st = pSuspending then pEnabled
      else if p.st = pResuming ∨ (p.st = pRecovery ∧ p.afterResume = true) then (if p.fromL1 then pL1 else pSuspended) else p.st
    se0 := false, fromL1 := false, afterResume := false, devResumed := false
    already := false, suspendCmd := none, resumeCmd := none, resetCmd := some r
    resumeLost := if p.st == pResuming || (p.st == pRecovery && p.afterResume) then p.resumeLost + 1 else p.resumeLost }

section Port
variable {b : Nat} (hb : b < 24) (hbus : c.ownedBus n (BitVec.ofNat 16 (par m.par 0 12)) = some b)
include hb hbus

theorem Chip.cmdPortReset_usb2 (hwarm : m.par.getLsbD 16 = false) (hconn : (c.port b).connected = true) (hpow : (c.port b).powered = true)
    (hjob : (c.job (jobKey b 0)).step = 0) (hslots : c.busSlots b = []) (hsusp : (c.port b).suspendCmd = none)
    (hres : (c.port b).resumeCmd = none) :
    c.cmdPortReset n m = ((c.updPort b (Port.resetting (n, m.id))).updBus b (fun x => { x with lpm := none })).wait
      { posted := false, cont := .portReset b false } := by
  have hok : c.resetOk b false = true := by simp [Chip.resetOk, hb, hconn, hpow]
  have henum : c.enumStop b = c := if_pos hjob
  have hslots' (f : Port → Port) (g : Bus → Bus) : ((c.updPort b f).updBus b g).busSlots b = [] := hslots
  simp only [Chip.cmdPortReset, Chip.onPort, hbus, hwarm, hok, Bool.not_true, Bool.false_eq_true, if_false, henum, Chip.beginReset, hb, if_true,
    hsusp, hres, Chip.finishRef, Option.isSome_none, Bool.or_false, Chip.stopForReset, hslots', List.flatMap_nil, List.foldl_nil, Chip.epStates,
    List.map_nil]
  simp only [Chip.wait, Chip.updPort, Chip.updBus, Tbl.upd, Tbl.set_set, Tbl.get_set_same, Chip.port]
  rfl

theorem Chip.cmdPortSuspend_usb2 (hl1 : m.par.getLsbD 16 = false) (hst : (c.port b).st = pEnabled) (hidle : c.idleBus b = true) :
    c.cmdPortSuspend n m = c.updPort b (fun p => { p with st := pSuspending, suspendCmd := some (n, m.id) }) := by
  have hl1' : ¬(m.par.getLsbD 16 = true ∧ (c.port b).speed ≠ 3) := fun h => absurd h.1 (ne_true_of_eq_false hl1)
  simp only [Chip.cmdPortSuspend, Chip.onPort, hbus, hb, if_true, hst, hidle, hl1', not_true, Bool.true_eq_false, or_self, if_false, ne_eq]
  exact if_neg (ne_true_of_eq_false hl1)

theorem Chip.cmdPortResume_usb2 (hst : (c.port b).st = pSuspended) :
    c.cmdPortResume n m = (c.updPort b (fun p => { p with
          st := pResuming, fromL1 := false, nowCause := causeHost, already := false, afterResume := false
          resumeCmd := some (n, m.id) })).emit (.resumeK b) := by
  have hl1 : ((c.port b).st == pL1) = false := by rw [hst]; decide
  have hbegin : c.beginResume b causeHost = (c.updPort b (fun q => { q with
      st := pResuming, fromL1 := false, nowCause := causeHost, already := false, afterResume := false })).emit (.resumeK b) :=
    congrArg (Chip.emit · (.resumeK b)) (Chip.updPort_congr _ _ _ _ (congrArg (fun l => { c.port b with
      st := pResuming, fromL1 := l, nowCause := causeHost, already := false, afterResume := false }) hl1))
  simp only [Chip.cmdPortResume, Chip.onPort, hbus, hb, if_true, hst, true_or, hbegin]
  simp only [Chip.emit, Chip.updPort, Tbl.upd, Tbl.set_set, Tbl.get_set_same]

theorem Chip.cmdPortPower_on (hon : m.par.getLsbD 16 = true) (hoc : (c.port b).oc = false) (hpol : c.policy b ≠ 3)
    (hpow : (c.port b).powered = false) (hcyc : (c.port b).cycle = none) :
    c.cmdPortPower n m = (let d := (c.updPort b (fun p => { p with noAuto := false, ownerOff := false })).powerOn b
      d.finish n m.id ccSuccess (d.port b).powerResult) := by
  have hp : busPort b = b := if_pos hb
  have hq : (c.updPort b (fun p => { p with noAuto := false, ownerOff := false })).port b
      = { c.port b with noAuto := false, ownerOff := false } := Chip.port_updPort_same ..
  have hpol' : (c.updPort b (fun p => { p with noAuto := false, ownerOff := false })).policy b = c.policy b := by
    simp only [Chip.policy, hq]
    rfl
  have hown : c.ownerOn b = (c.updPort b (fun p => { p with noAuto := false, ownerOff := false })).powerOn b := by
    simp only [Chip.ownerOn, hoc, hpol', hpol, hpow, hcyc, Option.isSome_none, Bool.or_self, Bool.false_eq_true, if_false]
  simp only [Chip.cmdPortPower, Chip.onPort, hbus, hon, if_true, hp, hown]

theorem Chip.cmdPortPower_oc (hon : m.par.getLsbD 16 = true) (hoc : (c.port b).oc = true) :
    c.cmdPortPower n m = c.finish n m.id ccSuccess (c.port b).powerResult := by
  have hp : busPort b = b := if_pos hb
  simp only [Chip.cmdPortPower, Chip.onPort, hbus, hon, if_true, hp, Chip.ownerOn, hoc]

end Port

/-- Where no slot lies behind a port, its reset signals at once (R111). -/
theorem Chip.resetSignal_usb2 {b : Nat} {r : CmdRef} (hb : b < 24) (hslots : c.busSlots b = []) :
    ((c.updPort b (Port.resetting r)).updBus b (fun x => { x with lpm := none })).resetSignal b false
      = ((c.updPort b (fun p => { p.resetting r with se0 := true })).updBus b (fun x => { x with lpm := none })).emit (.se0 b) := by
  have hslots' : ((c.updPort b (Port.resetting r)).updBus b (fun x => { x with lpm := none })).busSlots b = [] := hslots
  have hport : ((c.updPort b (Port.resetting r)).updBus b (fun x => { x with lpm := none })).port b = (c.port b).resetting r :=
    Chip.port_updPort_same c b (Port.resetting r)
  have hst : (((c.port b).resetting r).st == pResetting && !((c.port b).resetting r).se0) = true := by simp [Port.resetting]
  simp only [Chip.resetSignal, hb, if_true, hport, hst, hslots', List.foldl_nil, List.flatMap_nil]
  simp only [Chip.emit, Chip.updPort, Chip.updBus, Tbl.upd, Tbl.set_set, Tbl.get_set_same]

theorem exec_portReset {i : Fin 128} {b : Nat} (h : s.chip.soleCmd i.val m) (hb : b < 24) (hc : s.chip.begun i.val m = c)
    (hbus : c.ownedBus i.val (BitVec.ofNat 16 (par m.par 0 12)) = some b) (hk : m.kind = .portReset)
    (hwarm : m.par.getLsbD 16 = false) (hconn : (c.port b).connected = true) (hpow : (c.port b).powered = true)
    (hjob : (c.job (jobKey b 0)).step = 0) (hslots : c.busSlots b = []) (hsusp : (c.port b).suspendCmd = none)
    (hres : (c.port b).resumeCmd = none) :
    exec (.portReset i m.tag m.par) s = .next { s with
      chip := ((c.updPort b (fun p => { p.resetting (i.val, m.id) with se0 := true })).updBus b (fun x => { x with lpm := none })).emit (.se0 b) } := by
  subst hc
  have hcalm : (s.chip.begun i.val m).calmed = true := Chip.calmed_begun m h.1
  have hrow := (Chip.localCmd_portReset (c := s.chip.begun i.val m) (n := i.val) (m := { m with phase := .waiting }) hk).trans
    (Chip.cmdPortReset_usb2 hb hbus hwarm hconn hpow hjob hslots hsusp hres)
  refine (congrArg Host.Outcome.next (?_ : s.act (fun c => c.cmdRow i.val .portReset m.tag m.par) = _))
  rw [← hk]
  exact State.act_cmdRow_wait h hrow ((Chip.calmed_iff _).1 hcalm).1 rfl rfl (Chip.resetSignal_usb2 hb hslots) hcalm

/-- Settles O27: each command answers with its row, or with the work that is ready with it. -/
theorem ringAndPortCommands : Obligations.RingAndPortCommands := by
  refine ⟨fun s i m h => ?rings, fun s i m b h hb => ?ports⟩
  case rings =>
    intro n c ends
    have hn : n < 128 := i.isLt
    have hcalm : c.calmed = true := Chip.calmed_begun m h.1
    refine ⟨fun k => ?transfer, ?completion, ?destroy, ?scorebook, fun hk => ?noop⟩
    case transfer =>
      intro sk bit hk hkind hown horph hsh hst hmax hring hstream hnew
      refine exec_reports h hn hk rfl (D := (c.updRing n k _).updEp _ _) ?_ (Chip.cmds_updRing c n k _)
        ((Chip.localCmd_createRing hk).trans (Chip.cmdCreateRing_transfer rfl rfl hkind hown horph hsh hst hmax hring hstream hnew))
      exact Chip.calmed_set (x := { c.inst n with rings := _ }) hcalm rfl rfl (Chip.cmds_calmed hcalm n)
    case completion =>
      intro k hk hkind h0 hfree hvec hroom
      have hcompat : (c.inst n).compat = false := (congrArg Inst.compat (Chip.inst_begun ..)).trans h.2.2.1
      refine exec_reports h hn hk rfl (D := c.updInst n _) ?_ (Chip.cmds_updInst rfl)
        ((Chip.localCmd_createRing hk).trans (Chip.cmdCreateRing_completion rfl hkind h0 hfree hcompat hvec hroom))
      exact Chip.calmed_set (x := { c.inst n with crings := _ }) hcalm rfl rfl (Chip.cmds_calmed hcalm n)
    case destroy =>
      intro k r hk hkind hlive horph hsh hrest hheld
      exact exec_destroyRing h hn hk hkind hlive horph hsh hrest hheld
    case scorebook =>
      intro bs hk hnodes
      exact exec_getScorebook h hn hk rfl rfl hnodes
    case noop => exact exec_reports h hn hk rfl hcalm rfl (Chip.localCmd_noop hk)
  case ports =>
    intro n c q ends
    have hn : n < 128 := i.isLt
    have hcalm : c.calmed = true := Chip.calmed_begun m h.1
    refine ⟨fun hbus => ⟨fun hk hwarm hconn hpow hjob hslots hsusp hres => ?reset, fun hk hl1 hst hidle => ?suspend, fun hk hst => ?resume,
      fun hk hon hoc hpol hpow hcyc => ?power, fun hk hon hoc => ?powerOc⟩, fun hk hbus => ?foreign⟩
    case reset => exact exec_portReset h hb rfl hbus hk hwarm hconn hpow hjob hslots hsusp hres
    case suspend =>
      refine (congrArg Host.Outcome.next (?_ : s.act (fun c => c.cmdRow i.val .portSuspend m.tag m.par) = _))
      rw [← hk]
      exact State.act_cmdRow h (by exact hcalm) ((Chip.localCmd_portSuspend hk).trans (Chip.cmdPortSuspend_usb2 hb hbus hl1 hst hidle))
    case resume =>
      refine (congrArg Host.Outcome.next (?_ : s.act (fun c => c.cmdRow i.val .portResume m.tag m.par) = _))
      rw [← hk]
      exact State.act_cmdRow h (by exact hcalm) ((Chip.localCmd_portResume hk).trans (Chip.cmdPortResume_usb2 hb hbus hst))
    case power =>
      intro d
      have hsame : d.insts = c.insts ∧ d.waits = c.waits := Chip.powerOn_rest ..
      exact exec_reports h hn hk rfl (Chip.calmed_same hcalm hsame.2 hsame.1) (congrArg (fun t => (Tbl.get {} t n).cmds) hsame.1)
        ((Chip.localCmd_portPower hk).trans (Chip.cmdPortPower_on hb hbus hon hoc hpol hpow hcyc))
    case powerOc =>
      exact exec_reports h hn hk rfl hcalm rfl ((Chip.localCmd_portPower hk).trans (Chip.cmdPortPower_oc hb hbus hon hoc))
    case foreign =>
      have hrow : c.cmdPortReset n { m with phase := .waiting } = c.finish n m.id ccParam 0 := by
        simp only [Chip.cmdPortReset, Chip.onPort, hbus]
      exact exec_reports h hn hk rfl hcalm rfl ((Chip.localCmd_portReset hk).trans hrow)

end Sys2Proof.Machine
end

/-! # Ticks, bus micro-frames, the Scorebook and the capture registers (R6, R18, R182, R190 to R196, R241, R373) -/

section

namespace Sys2Proof.Machine

variable {s : State} {c : Chip} {w : Writer} {n : Nat}

/-! ### Ticks -/

theorem Pwr.count_st (p : Pwr) (k : Nat) : (p.count k).st = p.st := rfl

/-- What the Sideline counts does not clock the core. -/
theorem Chip.clocked_count (c : Chip) (k fr : Nat) : ({ c with pwr := c.pwr.count k, free := fr } : Chip).clocked = c.clocked := rfl

/-- A change of a bus that leaves its idle tag leaves what an unused queue of it is. -/
theorem Chip.idleQueue_updBus {b : Nat} {f : Bus → Bus} (h : (f (c.bus b)).idleTag = (c.bus b).idleTag) (j : Nat) :
    (c.updBus b f).idleQueue j = c.idleQueue j := by
  by_cases hj : j = b
  · subst hj
    simp [Chip.idleQueue, h]
  · simp [Chip.idleQueue, Chip.bus_updBus, hj]

theorem Chip.mapQueues_updBus {b : Nat} {f : Bus → Bus} (g : Nat → Queue → Queue) (h : (f (c.bus b)).idleTag = (c.bus b).idleTag) :
    (c.updBus b f).mapQueues g = (c.mapQueues g).updBus b f := by
  simp only [Chip.mapQueues, Chip.idleQueue_updBus h]
  rfl

theorem Chip.applyLineup_nil {b : Nat} (h : c.peps = []) : c.applyLineup b = c := by simp [Chip.applyLineup, h]
theorem Chip.missIso_nil {b : Nat} (h : c.eps = []) : c.missIso b = c := by simp [Chip.missIso, h]
theorem Chip.lineup_nil {b : Nat} {k : BitVec 16} (h : c.peps = []) : c.lineup b k = [] := by simp [Chip.lineup, h]

/-- The micro-frame of a high-speed bus with no endpoint on the chip (R191). -/
theorem Chip.busStart_idle {b : Nat} (hpeps : c.peps = []) (heps : c.eps = []) (hb : b < 24) (hst : (c.port b).st = pEnabled)
    (hsp : (c.port b).speed = 3) :
    c.busStart b = ((((c.at_ (4 * b)).updBus b (fun x => { x with mf := c.mf, pos := 0, noSof := false, todo := [] })).mapQueues
        (fun k q => if k / 256 = b then { q with redCounted := false } else q)).emit (.sof b c.mf)).kick b := by
  have hoff : busOffset b = 4 * b := if_pos hb
  have hframe : (c.at_ (4 * b)).frameBus b = false := by
    have hsp' : ((c.at_ (4 * b)).port b).speed = 3 := hsp
    simp only [Chip.frameBus, hsp', hb]
    decide
  have hsof (f : Bus → Bus) (g : Nat → Queue → Queue) : (((c.at_ (4 * b)).updBus b f).mapQueues g).sendsSof b = true := by
    have hframe' : (((c.at_ (4 * b)).updBus b f).mapQueues g).frameBus b = false := hframe
    have hst' : ((((c.at_ (4 * b)).updBus b f).mapQueues g).port b).st = pEnabled := hst
    simp [Chip.sendsSof, hb, hst', hframe']
  have hline (f : Bus → Bus) : ((c.at_ (4 * b)).updBus b f).applyLineup b = (c.at_ (4 * b)).updBus b f :=
    Chip.applyLineup_nil (by simpa only [Chip.updBus, Chip.at_] using hpeps)
  have hlist (f f' : Bus → Bus) (g : Nat → Queue → Queue) (o : Out) (k : BitVec 16) :
      (((((c.at_ (4 * b)).updBus b f).mapQueues g).updBus b f').emit o).lineup b k = [] :=
    Chip.lineup_nil (by simpa only [Chip.updBus, Chip.at_, Chip.mapQueues, Chip.emit] using hpeps)
  have hmiss (f f' f'' : Bus → Bus) (g : Nat → Queue → Queue) (o : Out) :
      ((((((c.at_ (4 * b)).updBus b f).mapQueues g).updBus b f').emit o).updBus b f'').missIso b
        = (((((c.at_ (4 * b)).updBus b f).mapQueues g).updBus b f').emit o).updBus b f'' :=
    Chip.missIso_nil (by simpa only [Chip.updBus, Chip.at_, Chip.mapQueues, Chip.emit] using heps)
  simp only [Chip.busStart, hoff, hframe, Bool.false_and, Bool.false_eq_true, if_false, hline, hsof, if_true, show ¬ 24 ≤ b by omega, hlist, hmiss]
  refine congrArg (Chip.kick · b) ?_
  rw [Chip.mapQueues_updBus (f := fun x => { x with mf := (c.at_ (4 * b)).mf, pos := 0 }) _ rfl,
    Chip.mapQueues_updBus (f := fun x => { x with mf := c.mf, pos := 0, noSof := false, todo := [] }) _ rfl]
  simp only [Chip.emit, Chip.updBus, Tbl.upd, Tbl.set_set, Tbl.get_set_same]
  rfl

/-- Settles O28. -/
theorem timePasses : Obligations.TimePasses := by
  intro s b c start
  refine ⟨fun hclk => next_act ?tick, fun hclk => next_act ?off, fun hpeps heps hb hst hsp => ?start⟩
  case tick =>
    have hclk' : (!c.clocked) = false := congrArg (!·) hclk
    exact if_neg (ne_true_of_eq_false hclk')
  case off =>
    have hclk' : (!c.clocked) = true := congrArg (!·) hclk
    exact if_pos hclk'
  case start => exact next_act (Chip.busStart_idle hpeps heps hb hst hsp)

/-! ### The Scorebook -/

/-- A sampling of queues changes the queues it takes and nothing else. -/
theorem Chip.sampled_frame (used : Nat → Bool) (f : Nat → Queue → Queue) (ks : List Nat) (c : Chip) :
    ∃ qs, ks.foldl (fun c k => if used k then c.updQueue k (f k) else c) c = { c with queues := qs } := by
  induction ks generalizing c with
  | nil => exact ⟨c.queues, rfl⟩
  | cons k ks ih =>
    rw [List.foldl_cons]
    by_cases hk : used k = true
    · obtain ⟨qs, h⟩ := ih (c.updQueue k (f k))
      exact ⟨qs, by rw [if_pos hk, h]; rfl⟩
    · obtain ⟨qs, h⟩ := ih c
      exact ⟨qs, by rw [if_neg hk, h]⟩

theorem Chip.sampled_queue (used : Nat → Bool) (f : Nat → Queue → Queue) {ks : List Nat} (hks : ks.Nodup) (c : Chip) (j : Nat) :
    (ks.foldl (fun c k => if used k then c.updQueue k (f k) else c) c).queue j
      = if j ∈ ks ∧ used j = true then f j (c.queue j) else c.queue j := by
  induction ks generalizing c with
  | nil => simp
  | cons k ks ih =>
    obtain ⟨hk, hks⟩ := List.nodup_cons.1 hks
    have hhead : (if used k then c.updQueue k (f k) else c).queue j = if j = k ∧ used k = true then f k (c.queue k) else c.queue j := by
      by_cases hu : used k = true
      · simp [hu, Chip.queue_updQueue]
      · simp [hu]
    rw [List.foldl_cons, ih hks, hhead]
    by_cases hj : j = k
    · subst hj
      simp [hk]
    · simp [hj]

theorem mem_of_mem_dedup {a : Nat} {l : List Nat} (h : a ∈ dedup l) : a ∈ l := by
  induction l with
  | nil => exact h
  | cons b t ih =>
    rw [dedup] at h
    split at h
    · exact List.mem_cons_of_mem _ (ih h)
    · rcases List.mem_cons.1 h with rfl | h
      · exact List.mem_cons_self
      · exact List.mem_cons_of_mem _ (ih h)

theorem nodup_dedup (l : List Nat) : (dedup l).Nodup := by
  induction l with
  | nil => exact List.nodup_nil
  | cons b t ih =>
    rw [dedup]
    split
    · exact ih
    · rename_i hb
      exact List.nodup_cons.2 ⟨fun h => hb (List.contains_iff_mem.2 (mem_of_mem_dedup h)), ih⟩

theorem newBus_there {old val : Word} {b : Nat} (h : codeBus (fld val 13 8) = some b) : newBus old val = fld val 13 8 := by
  simp [newBus, h]

theorem newBus_reserved {old val : Word} (h : codeBus (fld val 13 8) = none) : newBus old val = fld old 13 8 := by
  simp [newBus, h]

/-- Settles O30: a sample is a fold over the queues in use; each write captures what it selects. -/
theorem scorebookCaptures : Obligations.ScorebookCaptures := by
  intro s w val c
  refine ⟨fun hb => next_act ?idle, fun hb => ?sample, fun hm => ⟨next_act ?clear, fun b hbus => ⟨next_act ?sb, next_act ?ref⟩,
    fun hbus => ⟨next_act ?sbKeeps, next_act ?refKeeps⟩, ?pool⟩⟩
  case idle => exact if_pos (congrArg (!·) hb)
  case sample =>
    have hfold := Chip.sampled_frame (fun k => s.chip.placeUsed (k / 256) (k % 256)) (fun k q => q.sample (s.chip.depth (k / 256) (k % 256)).1
      (s.chip.depth (k / 256) (k % 256)).2 s.chip.us (s.chip.colourCode (k / 256) (k % 256))) s.chip.sampleKeys s.chip
    have hqueue := Chip.sampled_queue (fun k => s.chip.placeUsed (k / 256) (k % 256)) (fun k q => q.sample
      (s.chip.depth (k / 256) (k % 256)).1 (s.chip.depth (k / 256) (k % 256)).2 s.chip.us (s.chip.colourCode (k / 256) (k % 256)))
      (nodup_dedup _ : s.chip.sampleKeys.Nodup) s.chip
    obtain ⟨qs, hframe⟩ := hfold
    refine ⟨{ s.chip with queues := qs }, next_act ?_, rfl, fun k => ?_⟩
    · refine (if_neg (ne_true_of_eq_false (congrArg (!·) hb))).trans ?_
      dsimp only
      rw [hframe]
    · rw [← hframe]
      exact hqueue k
  case clear => exact Chip.setup_byMgr hm _
  case sb =>
    refine (Chip.setup_byMgr hm _).trans ?_
    simp only [Chip.sbSelect, newBus_there hbus, hbus]
    rfl
  case ref =>
    refine (Chip.setup_byMgr hm _).trans ?_
    simp only [Chip.refSelect, newBus_there hbus, hbus]
    rfl
  case sbKeeps =>
    refine (Chip.setup_byMgr hm _).trans ?_
    simp only [Chip.sbSelect, newBus_reserved hbus]
    rfl
  case refKeeps =>
    refine (Chip.setup_byMgr hm _).trans ?_
    simp only [Chip.refSelect, newBus_reserved hbus, hbus]
    rfl
  case pool =>
    intro n sel info
    refine ⟨fun h => next_act ((Chip.setup_byMgr hm _).trans ?_), fun h => next_act ((Chip.setup_byMgr hm _).trans ?_),
      fun h => next_act ((Chip.setup_byMgr hm _).trans ?_)⟩
    · simp only [Chip.poolSelect, h, sel, OfNat.zero_ne_ofNat, if_false]
      rfl
    · simp only [Chip.poolSelect, h, sel, OfNat.one_ne_ofNat, if_false]
      rfl
    · simp only [Chip.poolSelect, h, if_true]
      rfl

end Sys2Proof.Machine
end

/-! # The end of a transaction or burst (R145, R156 to R172, R180) -/

section

namespace Sys2Proof.Machine

variable {s : State} {c : Chip} {b key : Nat} {o : OnBus}

/-! ### What a bulk IN endpoint asks for -/

theorem dataPlan_some {path : Path} {e : Ep} {inn whole : Bool} {remain : Nat} {p : Plan} (h : dataPlan path e inn remain whole = some p) :
    ∃ l k, p = { inn := inn, len := l, pkts := k } := by
  simp only [dataPlan, Option.ite_none_left_eq_some, Option.some.injEq] at h
  exact ⟨_, _, h.2.symm⟩

/-- The plan of a bulk IN endpoint is an IN packet without setup, status or PING (R156). -/
theorem Ring.plan_bulkIn (r : Ring) (path : Path) {e : Ep} (hty : e.ty = .bulk) :
    ∃ l k, ((r.plan path e true).getD { inn := true, len := 0 }).onPath .hs e = { inn := true, len := l, pkts := k } := by
  have hplan : r.plan path e true = dataPlan path e true ((r.avail false).1 - r.td.moved) (r.avail false).2 := by
    simp [Ring.plan, hty]
  rw [hplan]
  cases h : dataPlan path e true ((r.avail false).1 - r.td.moved) (r.avail false).2 with
  | none => exact ⟨0, 1, by simp [Plan.onPath]⟩
  | some p =>
    obtain ⟨l, k, rfl⟩ := dataPlan_some h
    exact ⟨l, k, by simp [Plan.onPath]⟩

/-- Bytes and packets that an IN packet carried, by what ended it. -/
def xactBytes : XactEnd → Nat × Nat
  | .data len _ => (len, 1)
  | .resent len => (len, 1)
  | _ => (0, 0)

theorem Plan.carried_bulkIn (l k : Nat) (r : XactEnd) (h : isEof r = false) :
    ({ inn := true, len := l, pkts := k } : Plan).carried r .hs = xactBytes r := by
  cases r <;> rfl

/-! ### The chip when the packet has been charged -/

/-- The bus is free, the cells are returned and the service is charged (R180). -/
def Chip.afterXact (c : Chip) (b : Nat) (o : OnBus) (pos bytes pkts : Nat) : Chip :=
  let d := (c.updBus b (fun x => { x with on := none, pos := pos })).freeCells o.key
  (d.charge b o.place ((d.bus b).shaped true bytes pkts)).ranOnly o.key o.mf

theorem Chip.freeCells_ep (c : Chip) (key : Nat) : (c.freeCells key).ep key = { c.ep key with
    cells := (c.ep key).cells - ((c.ep key).cells - (c.ep key).unread - (c.ep key).kept.sum) } :=
  Chip.ep_updEp_same (c := c.updBus (c.slotBus (keySlot key)) _) ..

theorem Chip.ranOnly_epRing (c : Chip) (key : Nat) (mf : BitVec 16) : (c.ranOnly key mf).epRing key
    = { c.epRing key with td := { (c.epRing key).td with mf := some mf } } :=
  Chip.ring_updRing_same c (c.ringHome (keySlot key)) (c.ep key).headRing _

/-- Freed cells are the bus's and the endpoint's alone. -/
theorem Chip.freeCells_kept (c : Chip) (key : Nat) : c.KeptBut key (c.freeCells key) :=
  (Chip.KeptBut.updBus c key _ _ fun x => by split <;> exact ⟨rfl, rfl⟩).trans (.updEp _ key _)

theorem Chip.freeCells_epRing (c : Chip) (key : Nat) : (c.freeCells key).epRing key = c.epRing key := by
  rw [Chip.epRing, c.freeCells_ep, (c.freeCells_kept key).ring, (c.freeCells_kept key).ringHome]
  rfl

section After
variable (c b o) (pos bytes pkts : Nat)

theorem Chip.afterXact_ep : (c.afterXact b o pos bytes pkts).ep o.key = { c.ep o.key with
    cells := (c.ep o.key).cells - ((c.ep o.key).cells - (c.ep o.key).unread - (c.ep o.key).kept.sum) } := by
  simp only [Chip.afterXact, Chip.ranOnly, Chip.updEpRing, Chip.updRing, Chip.charge, Chip.ep_updInst, Chip.ep_updQueue, Chip.freeCells_ep,
    Chip.ep_updBus]

theorem Chip.charge_epRing (place len : Nat) : (c.charge b place len).epRing o.key = c.epRing o.key := by
  simp only [Chip.epRing, Chip.charge, Chip.ring, Chip.inst_updQueue, Chip.ep_updQueue, Chip.ringHome, Chip.slot_updQueue]

theorem Chip.afterXact_epRing : (c.afterXact b o pos bytes pkts).epRing o.key
    = { c.epRing o.key with td := { (c.epRing o.key).td with mf := some o.mf } } := by
  have hbus : (c.updBus b (fun x => { x with on := none, pos := pos })).epRing o.key = c.epRing o.key := by
    simp only [Chip.epRing, Chip.ring, Chip.inst_updBus, Chip.ep_updBus, Chip.ringHome, Chip.slot_updBus]
  rw [Chip.afterXact, Chip.ranOnly_epRing, Chip.charge_epRing, Chip.freeCells_epRing, hbus]

end After

theorem Chip.stale_freeCells {c' : Chip} (hep : (c'.ep o.key).stop = (c.ep o.key).stop ∧ (c'.ep o.key).epoch = (c.ep o.key).epoch)
    (hslots : c'.slots = c.slots) (hinsts : c'.insts = c.insts) : c'.stale o = c.stale o := by
  have hhome : c'.ringHome (keySlot o.key) = c.ringHome (keySlot o.key) := by simp only [Chip.ringHome, Chip.slot, hslots]
  have hinst (n : Nat) : c'.inst n = c.inst n := by simp only [Chip.inst, hinsts]
  simp only [Chip.stale, hep.1, hep.2, hhome, hinst]

theorem Chip.path_congr {c' : Chip} (hslots : c'.slots = c.slots) (hports : c'.ports = c.ports) (hssps : c'.ssps = c.ssps) :
    c'.path key = c.path key := by
  have hslot (k : Nat) : c'.slot k = c.slot k := by simp only [Chip.slot, hslots]
  have hport (k : Nat) : c'.port k = c.port k := by simp only [Chip.port, hports]
  have hssp (k : Nat) : c'.ssp k = c.ssp k := by simp only [Chip.ssp, hssps]
  have hspeed (k : Nat) : c'.busSpeed k = c.busSpeed k := by rw [Chip.busSpeed, Chip.busSpeed, hport, hssp]
  simp only [Chip.path, Chip.slotPath, Chip.slotBus, hslot, hspeed]

theorem Chip.stale_charged (c : Chip) (b : Nat) (o : OnBus) (f : Bus → Bus) (len : Nat) :
    (((c.updBus b f).freeCells o.key).charge b o.place len).stale o = c.stale o := by
  refine Chip.stale_freeCells ?_ ?_ ?_
  · simp only [Chip.charge, Chip.ep_updQueue, Chip.freeCells_ep, Chip.ep_updBus, and_self]
  · simp only [Chip.charge, Chip.updQueue_slots, Chip.freeCells, Chip.updEp_slots, Chip.updBus_slots]
  · simp only [Chip.charge, Chip.updQueue_insts, Chip.freeCells, Chip.updEp_insts, Chip.updBus_insts]

/-- The end of a packet of a bulk IN endpoint on a high-speed bus (R156, R180): it is charged, and the endpoint answers it. -/
theorem Chip.usb2End_bulkIn {r : XactEnd} {pos us : Nat} (hon : ((c.at_ us).bus b).on = some o) (hlpm : o.lpm = false) (hsa : o.sa = false)
    (hper : o.periodic = false) (hping : o.ping = false) (hserv : ((c.at_ us).ep o.key).service = false)
    (hty : ((c.at_ us).ep o.key).ty = .bulk) (hin : keyIn o.key = true) (hpath : (c.at_ us).path o.key = .hs)
    (hstale : (c.at_ us).stale o = false) (htd : (c.at_ us).hasTd o.key = true) (heof : isEof r = false) :
    ∃ l k, c.usb2End b r pos us = ((((c.at_ us).afterXact b o pos (xactBytes r).1 (xactBytes r).2).answer o.key
      { inn := true, len := l, pkts := k } r ((c.at_ us).us + us)).tend o.key).kick b := by
  unfold Chip.usb2End
  generalize c.at_ us = c at *
  have hpath' : (c.updBus b (fun x => { x with on := none, pos := pos })).path o.key = .hs := (Chip.path_congr rfl rfl rfl).trans hpath
  obtain ⟨l, k, hplan⟩ := ((c.updBus b (fun x => { x with on := none, pos := pos })).epRing o.key).plan_bulkIn .hs hty
  have hcarried := Plan.carried_bulkIn l k r heof
  have hstale' (len : Nat) : (((c.updBus b (fun x => { x with on := none, pos := pos })).freeCells o.key).charge b o.place len).stale o = false :=
    (Chip.stale_charged ..).trans hstale
  have htd' : (c.afterXact b o pos (xactBytes r).1 (xactBytes r).2).hasTd o.key = true := by
    simp only [Chip.hasTd, Chip.afterXact_epRing]
    exact htd
  refine ⟨l, k, ?_⟩
  simp only [hon, hlpm, Bool.false_eq_true, if_false, hsa, Chip.ep_updBus, hpath', hin, hplan, Bool.true_or, if_true, hper, hcarried, hserv,
    hstale', Bool.false_or, Bool.false_and, heof, Chip.nextPacket, hping, reduceCtorEq]
  simp only [Chip.afterXact] at htd' ⊢
  simp only [htd', Bool.not_true, Bool.false_eq_true, if_false]
  rfl

/-! ### What each answer does -/

section Answer
variable {l k now : Nat}

theorem Chip.answer_nak (hpath : c.path key = .hs) (hty : (c.ep key).ty = .bulk) :
    c.answer key { inn := true, len := l, pkts := k } .nak now = c.updEp key (fun e => { e with
      strikes := 0, rally := e.rally.notReady (c.rallyClass (rallyKind .hs .bulk true)) now }) := by
  simp only [Chip.answer, Chip.notReady, hpath, Bool.not_true, Bool.and_false, Bool.false_and, Bool.false_eq_true, if_false]
  exact Chip.updEp_congr _ _ _ _ (by rw [hty])

theorem Chip.answer_error_strikes (h : (c.ep key).strikes < 2) :
    c.answer key { inn := true, len := l, pkts := k } .error now = c.updEp key (fun e => { e with strikes := e.strikes + 1 }) := by
  have hstrike : c.updEp key (fun e => { e with strikes := min 3 (e.strikes + 1) }) = c.updEp key (fun e => { e with strikes := e.strikes + 1 }) :=
    Chip.updEp_congr _ _ _ _ (congrArg (fun n => { c.ep key with strikes := n }) (by omega))
  have hno : ¬ 3 ≤ (c.ep key).strikes + 1 := by omega
  simp only [Chip.answer, Bool.false_eq_true, if_false, Chip.strike, hstrike, Chip.ep_updEp_same, hno]

theorem Chip.answer_error_third (h : (c.ep key).strikes = 2) :
    c.answer key { inn := true, len := l, pkts := k } .error now
      = (c.updEp key (fun e => { e with strikes := 3 })).endWith key ccXactErr := by
  have hstrike : c.updEp key (fun e => { e with strikes := min 3 (e.strikes + 1) }) = c.updEp key (fun e => { e with strikes := 3 }) :=
    Chip.updEp_congr _ _ _ _ (congrArg (fun n => { c.ep key with strikes := n }) (by omega))
  simp only [Chip.answer, Bool.false_eq_true, if_false, Chip.strike, hstrike, Chip.ep_updEp_same, Nat.le_refl, if_true]

theorem Chip.answer_stall : c.answer key { inn := true, len := l, pkts := k } .stall now
    = (c.updEp key (fun e => { e with strikes := 0 })).endWith key ccStall := rfl

theorem Chip.answer_data {len : Nat} (hty : (c.ep key).ty = .bulk) (hmax : len ≤ (c.ep key).maxPacket)
    (hleft : len ≤ (c.epRing key).left false) :
    c.answer key { inn := true, len := l, pkts := k } (.data len true) now
      = (c.takeIn key len now).afterMove key (decide (len < (c.ep key).maxPacket)) := by
  have hctrl : c.isCtrl key = false := by simp [Chip.isCtrl, hty]
  have hmax' : ¬ (c.ep key).maxPacket < len := by omega
  have hleft' : ¬ (c.epRing key).left false < len := by omega
  simp only [Chip.answer, Bool.false_eq_true, if_false, Bool.not_true, Chip.inPacket, hctrl, hmax', hleft']

end Answer

/-! ### SuperSpeed -/

theorem Ring.plan_bulk_setup (r : Ring) (path : Path) {e : Ep} (inn : Bool) (hty : e.ty = .bulk) :
    (r.plan path e inn).any (fun q => q.setup) = false := by
  have hplan : r.plan path e inn = dataPlan path e inn ((r.avail false).1 - r.td.moved) (r.avail false).2 := by simp [Ring.plan, hty]
  rw [hplan]
  cases h : dataPlan path e inn ((r.avail false).1 - r.td.moved) (r.avail false).2 with
  | none => rfl
  | some p =>
    obtain ⟨l, k, rfl⟩ := dataPlan_some h
    rfl

/-- NRDY without data flow-controls the endpoint (R160). -/
theorem Chip.burst_nrdy {r : BurstEnd} {now : Nat} (hty : (c.ep key).ty = .bulk) (hst : (c.ep key).st = .running) (htd : c.hasTd key = true)
    (hnrdy : r.nrdy = true) (hstrike : r.strike = false) (hstall : r.stall = false) (hbabble : r.babble = false)
    (hend : r.streamEnd = false) (hpkts : r.pkts = 0) :
    c.burst key r now = c.updEp key (fun e => { e with numP := r.numP, nrdy := true, strikes := 0 }) := by
  have hctrl : (c.updEp key (fun e => { e with numP := r.numP })).isCtrl key = false := by simp [Chip.isCtrl, hty]
  have hring : (c.updEp key (fun e => { e with numP := r.numP })).epRing key = c.epRing key := by
    simp only [Chip.epRing, Chip.ep_updEp_same]
    rfl
  obtain ⟨hbegun, hended⟩ : (c.epRing key).td.begun = true ∧ (c.epRing key).td.ended.isNone = true := by
    simpa only [Chip.hasTd, Bool.and_eq_true] using htd
  have hst' : ((c.ep key).st == EpSt.running) = true := beq_iff_eq.2 hst
  simp only [Chip.burst, hctrl, hring, hpkts, Nat.lt_irrefl, hbegun, hended, Chip.ep_updEp_same, hst', hbabble, hstall, hstrike, hnrdy, hend,
    Bool.false_and, Bool.false_eq_true, if_false, Bool.and_self, Bool.not_true, if_true, Chip.updEp_updEp]

/-- The bus is free, the cells are returned and the service is charged (R180). -/
def Chip.afterBurst (c : Chip) (b : Nat) (o : OnBus) (bytes : Nat) : Chip :=
  let d := (c.updBus b (fun x => { x with on := none })).freeCells o.key
  (d.charge b o.place ((d.bus b).shaped false bytes 0)).ranOnly o.key o.mf

theorem Chip.ssEnd_nrdy {p us : Nat} {r : BurstEnd} (hon : ((c.at_ us).bus (24 + p)).on = some o) (hsa : o.sa = false)
    (hper : o.periodic = false) (hserv : ((c.at_ us).ep o.key).service = false) (hty : ((c.at_ us).ep o.key).ty = .bulk)
    (hst : ((c.at_ us).ep o.key).st = .running) (hstale : (c.at_ us).stale o = false) (htd : (c.at_ us).hasTd o.key = true)
    (hnrdy : r.nrdy = true) (hstrike : r.strike = false) (hstall : r.stall = false) (hbabble : r.babble = false)
    (hend : r.streamEnd = false) (hpkts : r.pkts = 0) :
    c.ssEnd p r us = ((((c.at_ us).afterBurst (24 + p) o r.bytes).updEp o.key (fun e => { e with
        numP := r.numP, nrdy := true, strikes := 0, staged := false })).tend o.key).kick (24 + p) := by
  unfold Chip.ssEnd
  generalize c.at_ us = c at *
  have hstale' (len : Nat) : (((c.updBus (24 + p) (fun x => { x with on := none })).freeCells o.key).charge (24 + p) o.place len).stale o = false :=
    (Chip.stale_charged ..).trans hstale
  have hep : (c.afterBurst (24 + p) o r.bytes).ep o.key = { c.ep o.key with
      cells := (c.ep o.key).cells - ((c.ep o.key).cells - (c.ep o.key).unread - (c.ep o.key).kept.sum) } := by
    simp only [Chip.afterBurst, Chip.ranOnly, Chip.updEpRing, Chip.updRing, Chip.charge, Chip.ep_updInst, Chip.ep_updQueue, Chip.freeCells_ep,
      Chip.ep_updBus]
  have htd' : (c.afterBurst (24 + p) o r.bytes).hasTd o.key = true := by
    have hbus : (c.updBus (24 + p) (fun x => { x with on := none })).epRing o.key = c.epRing o.key := by
      simp only [Chip.epRing, Chip.ring, Chip.inst_updBus, Chip.ep_updBus, Chip.ringHome, Chip.slot_updBus]
    simp only [Chip.hasTd, Chip.afterBurst, Chip.ranOnly_epRing, Chip.charge_epRing, Chip.freeCells_epRing, hbus]
    exact htd
  have hburst (now : Nat) := Chip.burst_nrdy (now := now) (by rw [hep]; exact hty) (by rw [hep]; exact hst) htd' hnrdy hstrike hstall hbabble
    hend hpkts
  have hsetup (path : Path) := Ring.plan_bulk_setup (((c.updBus (24 + p) (fun x => { x with on := none })).freeCells o.key).epRing o.key) path
    (keyIn o.key) hty
  simp only [Chip.afterBurst] at htd' hburst ⊢
  simp only [hon, hsa, Bool.false_eq_true, if_false, hsetup, Bool.false_and, hper, hpkts, hserv, hstale', Bool.false_or, htd', hburst,
    Bool.not_true, Chip.updEp_updEp, Chip.nextPacket]

/-! ### ERDY and the deadline of isochronous data -/

theorem Chip.erdy_deaf {stream numP : Nat} (hst : (c.ep key).st ≠ .running) (hsa : (c.ep key).setAddr = none) : c.erdy key stream numP = c := by
  simp [Chip.erdy, Ep.hears, hst, hsa]

theorem Chip.erdy_bulk {stream numP : Nat} (hst : (c.ep key).st = .running) (hsa : (c.ep key).setAddr = none) (hmax : (c.ep key).maxStreams = 0) :
    c.erdy key stream numP = (c.updEp key (fun e =>
        if (c.epRing key).filed then { e with nrdy := false, erdy := false, numP := numP }
        else { e with erdy := true, numP := numP })).stir key := by
  simp [Chip.erdy, Ep.hears, hst, hsa, hmax]

theorem Chip.erdy_stream {stream numP : Nat} (hst : (c.ep key).st = .running) (hmax : 0 < (c.ep key).maxStreams) (h1 : 1 ≤ stream)
    (h2 : stream ≤ 2 ^ (c.ep key).maxStreams) (hfiled : c.streamFiled key stream = true) :
    c.erdy key stream numP = (c.updEp key (fun e => { e with
        nrdy := false, named := stream, stream := stream, lastStream := stream, numP := numP })).stir key := by
  have hmax' : ¬ (c.ep key).maxStreams = 0 := by omega
  simp [Chip.erdy, Ep.hears, hst, hmax', h1, h2, hfiled]

theorem keySlot_fin (slot : Fin 256) (i : Fin 32) : keySlot (epKey slot.val i.val) = slot.val := by
  unfold keySlot epKey
  omega

theorem Chip.afterXact_path (c : Chip) (b : Nat) (o : OnBus) (pos bytes pkts : Nat) : (c.afterXact b o pos bytes pkts).path key = c.path key := by
  refine Chip.path_congr ?_ ?_ ?_ <;>
    simp only [Chip.afterXact, Chip.ranOnly, Chip.updEpRing, Chip.updRing, Chip.charge, Chip.freeCells, Chip.updInst_slots, Chip.updQueue_slots,
      Chip.updEp_slots, Chip.updBus_slots, Chip.updInst_ports, Chip.updQueue_ports, Chip.updEp_ports, Chip.updBus_ports, Chip.updInst_ssps,
      Chip.updQueue_ssps, Chip.updEp_ssps, Chip.updBus_ssps]

theorem Chip.afterXact_rally (c : Chip) (b : Nat) (o : OnBus) (pos bytes pkts : Nat) : (c.afterXact b o pos bytes pkts).rally = c.rally := by
  simp only [Chip.afterXact, Chip.ranOnly, Chip.updEpRing, Chip.updRing, Chip.charge, Chip.freeCells, Chip.updInst_rally, Chip.updQueue_rally,
    Chip.updEp_rally, Chip.updBus_rally]

/-- Data of an isochronous OUT that is not there in time (R145). -/
theorem Chip.stageDeadline_missed (hty : (c.ep key).ty = .isoch) (hout : keyIn key = false) (hst : (c.ep key).st = .running)
    (hstaged : (c.ep key).staged = false) (hlen : 0 < ((c.epRing key).elems.headD {}).len)
    (hserves : (c.inst (c.ringHome (keySlot key))).serves = true)
    (hplace : (c.epRing key).td.place = some ((c.bus (c.slotBus (keySlot key))).mf + 1)) (hended : (c.epRing key).td.ended = none) :
    c.stageDeadline key = (c.endTd key { code := ccDataBuf, tag := ((c.epRing key).elems.headD {}).tag, entry := (c.epRing key).entryAt 0 }).stir key := by
  have hnone : (c.epRing key).td.ended.isNone = true := by rw [hended]; rfl
  have hhead : (c.epRing key).elems.getD 0 {} = (c.epRing key).elems.headD {} := by cases (c.epRing key).elems <;> rfl
  refine (if_pos ⟨hty, hout, hst, hstaged, hlen, hserves, hplace, hnone⟩).trans ?_
  rw [Ring.endNth, hhead]

/-- Settles O29: a packet is charged, and then its endpoint answers it. -/
theorem transactionsEnd : Obligations.TransactionsEnd := by
  refine ⟨fun s b o pos us len r => ?usb2, fun s p o r us slot i stream numP => ?ss⟩
  case usb2 =>
    intro c e now d ran
    refine ⟨fun hon => next_act ?nothing, fun hon hlpm hsa hper hping hserv hty hin hpath hstale htd => ⟨?nak, fun h => ?strike, fun h => ?third,
      ?stall, fun hmax hleft => ?data⟩⟩
    case nothing =>
      have hon' : ((s.chip.at_ us.toNat).bus b.val).on = none := hon
      simp only [Chip.usb2End, hon']
      rfl
    all_goals have hrun {r : XactEnd} := Chip.usb2End_bulkIn (r := r) (pos := pos) hon hlpm hsa hper hping hserv hty hin hpath hstale htd
    case nak =>
      obtain ⟨l, k, h⟩ := hrun (r := .nak) rfl
      have hans := Chip.answer_nak (c := c.afterXact b.val o pos 0 0) (key := o.key) (l := l) (k := k) (now := now)
        ((Chip.afterXact_path ..).trans hpath) (by rw [Chip.afterXact_ep]; exact hty)
      have hrally : (c.afterXact b.val o pos 0 0).rallyClass (rallyKind .hs .bulk true) = c.rallyClass (rallyKind .hs .bulk true) := by
        rw [Chip.rallyClass, Chip.afterXact_rally]
        rfl
      rw [hrally] at hans
      exact next_act (h.trans (congrArg (fun d : Chip => (d.tend o.key).kick b.val) hans))
    case strike =>
      obtain ⟨l, k, h'⟩ := hrun (r := .error) rfl
      exact next_act (h'.trans (congrArg (fun d : Chip => (d.tend o.key).kick b.val)
        (Chip.answer_error_strikes (by rw [Chip.afterXact_ep]; exact h))))
    case third =>
      obtain ⟨l, k, h'⟩ := hrun (r := .error) rfl
      exact next_act (h'.trans (congrArg (fun d : Chip => (d.tend o.key).kick b.val)
        (Chip.answer_error_third (by rw [Chip.afterXact_ep]; exact h))))
    case stall =>
      obtain ⟨l, k, h⟩ := hrun (r := .stall) rfl
      exact next_act h
    case data =>
      obtain ⟨l, k, h⟩ := hrun (r := .data len true) rfl
      have hans := Chip.answer_data (c := c.afterXact b.val o pos len 1) (key := o.key) (l := l) (k := k) (now := now) (len := len)
        (by rw [Chip.afterXact_ep]; exact hty) (by rw [Chip.afterXact_ep]; exact hmax) (by rw [Chip.afterXact_epRing]; exact hleft)
      rw [Chip.afterXact_ep] at hans
      exact next_act (h.trans (congrArg (fun d : Chip => (d.tend o.key).kick b.val) hans))
  case ss =>
    intro c t b key d ran
    refine ⟨fun hon => next_act ?nothing, fun hon hsa hper hserv hty hst hstale htd hnrdy hstrike hstall hbabble hend hpkts => next_act ?nrdy,
      fun hst hsa hmax => next_act (Chip.erdy_bulk hst hsa hmax), fun hst hmax h1 h2 hfiled => next_act (Chip.erdy_stream hst hmax h1 h2 hfiled),
      fun hst hsa => next_act (Chip.erdy_deaf hst hsa), next_act rfl, ?deadline⟩
    case nothing =>
      have hon' : ((s.chip.at_ us.toNat).bus (24 + p.val)).on = none := hon
      simp only [Chip.ssEnd, hon']
      rfl
    case nrdy => exact Chip.ssEnd_nrdy hon hsa hper hserv hty hst hstale htd hnrdy hstrike hstall hbabble hend hpkts
    case deadline =>
      intro x hty hout hst hstaged hlen hserves hplace hended
      rw [← keySlot_fin slot i] at hserves hplace
      exact next_act (Chip.stageDeadline_missed hty hout hst hstaged hlen hserves hplace hended)

end Sys2Proof.Machine
end

/-! Events of USB 2.0 ports (R207 to R223). -/
section

namespace Sys2Proof.Machine

variable {c : Chip}

/-! ### What a PORT_CHANGE leaves unchanged -/

/-- The chip differs at most in the rings of its instances, in what is put out, in the fabric and in the hub. -/
def Chip.TellsOf (c d : Chip) : Prop :=
  ∃ I o fr fb pa, d = { c with insts := I, out := o, free := fr, fab := fb, pass := pa } ∧ ∀ n, (d.inst n).compat = (c.inst n).compat

theorem Chip.TellsOf.refl (c : Chip) : c.TellsOf c := ⟨c.insts, c.out, c.free, c.fab, c.pass, rfl, fun _ => rfl⟩

theorem Chip.TellsOf.trans {c d e : Chip} (h : c.TellsOf d) (g : d.TellsOf e) : c.TellsOf e := by
  obtain ⟨I, o, fr, fb, pa, hd, hcd⟩ := h
  obtain ⟨J, o', fr', fb', pa', he, hde⟩ := g
  exact ⟨J, o', fr', fb', pa', by rw [he, hd], fun n => (hde n).trans (hcd n)⟩

theorem Chip.TellsOf.pass (c : Chip) (pa : Pass) : c.TellsOf { c with pass := pa } := ⟨_, _, _, _, pa, rfl, fun _ => rfl⟩

theorem Chip.hubWakeOn_tells (c : Chip) (b bit : Nat) : c.TellsOf (c.hubWakeOn b bit) := by
  unfold Chip.hubWakeOn
  extract_lets h
  split
  · exact ⟨_, _, _, _, _, rfl, fun _ => rfl⟩
  · exact .refl c

theorem Chip.hubNote_tells (c : Chip) (b bits : Nat) : c.TellsOf (c.hubNote b bits) := by
  unfold Chip.hubNote
  split
  · extract_lets d
    split
    · exact .pass c _
    · exact .trans (.pass c _) (Chip.hubWakeOn_tells _ _ _)
  · extract_lets warm d
    split
    · exact .trans (.pass c _) (Chip.hubWakeOn_tells _ _ _)
    · exact .pass c _

theorem Chip.post_tells (c : Chip) (n k : Nat) (h : Held) : c.TellsOf (c.post n k h) := by
  by_cases hn : n < 128
  · obtain ⟨x, o, fr, ⟨cr, p, a, b, hx⟩, hpost⟩ := c.post_frame k h hn
    refine ⟨_, o, fr, c.fab, c.pass, hpost, fun m => ?_⟩
    rw [hpost]
    by_cases hm : m = n
    · subst hm
      show (Tbl.get {} (Tbl.set {} c.insts m x) m).compat = _
      rw [Tbl.get_set_same, hx]
    · show (Tbl.get {} (Tbl.set {} c.insts n x) m).compat = _
      rw [Tbl.get_set_other _ _ _ hm]
      rfl
  · have hfar : ∀ b : Rec, c.SameButFab (c.postFar n b) := fun b => by
      unfold Chip.postFar
      split
      · exact Chip.sendFrame_same _ _ _ _ _
      · exact Chip.sendFrame_same _ _ _ _ _
      · exact .refl _
    obtain ⟨f, o, hd⟩ := hfar h.body
    rw [Chip.post, if_pos (Nat.le_of_not_lt hn), hd]
    exact ⟨_, _, _, _, _, rfl, fun _ => rfl⟩

/-- The bus's port or companion with the change bits set. -/
def Chip.marked (c : Chip) (b bits : Nat) : Chip :=
  if b < 24 then c.updPort b (fun p => { p with chg := p.chg ||| statChg bits })
  else c.updSsp (b - 24) (fun p => { p with chg := p.chg ||| statChg bits })

theorem Chip.portChange_tells (c : Chip) (b bits : Nat) (cause : BitVec 4) : (c.marked b bits).TellsOf (c.portChange b bits cause) := by
  unfold Chip.portChange
  change (c.marked b bits).TellsOf (if ((c.marked b bits).port (busPort b)).pass = true then (c.marked b bits).hubNote b bits
    else match (c.marked b bits).ownerOf (busPort b) with
      | none => c.marked b bits
      | some n => (c.marked b bits).event n evPortChange ((c.marked b bits).subject b) (toWord bits) (toWord ((c.marked b bits).portStatus b cause)))
  split
  · exact Chip.hubNote_tells _ _ _
  · split
    · exact .refl _
    · exact Chip.post_tells _ _ _ _

theorem Chip.port_marked (c : Chip) (b bits p : Nat) : ∃ w, (c.marked b bits).port p = { c.port p with chg := w } := by
  unfold Chip.marked
  split
  · by_cases h : p = b
    · subst h
      exact ⟨_, Chip.port_updPort_same _ _ _⟩
    · exact ⟨(c.port p).chg, by rw [Chip.port_updPort, if_neg h]⟩
  · exact ⟨(c.port p).chg, rfl⟩

theorem Chip.port_portChange (c : Chip) (b bits p : Nat) (cause : BitVec 4) :
    ∃ w, (c.portChange b bits cause).port p = { c.port p with chg := w } := by
  obtain ⟨I, o, fr, fb, pa, hd, -⟩ := c.portChange_tells b bits cause
  rw [hd]
  exact c.port_marked b bits p

theorem Chip.marked_kept (c : Chip) (b bits : Nat) : (c.marked b bits).slots = c.slots ∧ (c.marked b bits).jobs = c.jobs
    ∧ (c.marked b bits).boot = c.boot ∧ (c.marked b bits).insts = c.insts := by
  unfold Chip.marked
  split <;> exact ⟨rfl, rfl, rfl, rfl⟩

theorem Chip.portChange_kept (c : Chip) (b bits : Nat) (cause : BitVec 4) : (c.portChange b bits cause).slots = c.slots
    ∧ (c.portChange b bits cause).jobs = c.jobs ∧ (c.portChange b bits cause).boot = c.boot
    ∧ ∀ n, ((c.portChange b bits cause).inst n).compat = (c.inst n).compat := by
  obtain ⟨I, o, fr, fb, pa, hd, hcompat⟩ := c.portChange_tells b bits cause
  obtain ⟨hslots, hjobs, hboot, hinsts⟩ := c.marked_kept b bits
  refine ⟨by rw [hd]; exact hslots, by rw [hd]; exact hjobs, by rw [hd]; exact hboot, fun n => (hcompat n).trans ?_⟩
  rw [Chip.inst, hinsts, Chip.inst]

/-- A PORT_CHANGE does not make a port one that is enumerated. -/
theorem Chip.enumOn_portChange (c : Chip) (b bits a : Nat) (cause : BitVec 4) : (c.portChange b bits cause).enumOn a = c.enumOn a := by
  obtain ⟨-, -, hboot, hcompat⟩ := c.portChange_kept b bits cause
  obtain ⟨w, hport⟩ := c.port_portChange b bits (busPort a) cause
  simp only [Chip.enumOn, Chip.ownerOf, hboot, hport, hcompat]

theorem Chip.enumRoot_off {b : Nat} (h : c.enumOn b = false) : c.enumRoot b = c := by
  rw [Chip.enumRoot, if_neg (ne_true_of_eq_false h)]

theorem Chip.busSlots_congr {d : Chip} (h : d.slots = c.slots) (b : Nat) : d.busSlots b = c.busSlots b := by
  simp only [Chip.busSlots, Chip.slotBus, Chip.slot, h]

/-! ### The end of a reset and a disconnect, where nothing lies behind the port -/

/-- The speed is the old one, no slot and no enumeration waits, and no command asked: only the bus goes on. -/
theorem Chip.resetOver_bare {b : Nat} {old : BitVec 4} (hsp : old = c.busSpeed b) (hslots : c.busSlots b = []) (hjobs : c.jobs = []) :
    c.resetOver b old none = c.kick b := by
  have hdone : c.resetDone b old = c := by
    simp only [Chip.resetDone, hslots, List.foldl_nil, if_pos hsp]
  have hstep : ¬ (c.job (jobKey b 0)).step = 1 := by
    rw [Chip.job, hjobs]
    exact fun h => Nat.noConfusion h
  have henum : c.enumReset b = c := by
    simp only [Chip.enumReset, if_neg hstep, hslots, List.find?_nil]
  simp only [Chip.resetOver, hdone, henum, Chip.finishRef]

theorem Chip.jobs_filter_nil (h : c.jobs = []) (f : Nat × EnumJob → Bool) : { c with jobs := c.jobs.filter f } = c := by
  cases c
  cases h
  rfl

theorem Chip.dropPortCmds_bare {p : Nat} (hp : p < 24) (hs : (c.port p).suspendCmd = none) (hr : (c.port p).resumeCmd = none)
    (hc : (c.port p).resetCmd = none) : c.dropPortCmds p = c.updPort p (fun q => { q with
      resetCmd := none, suspendCmd := none, resumeCmd := none, already := false, se0 := false }) := by
  simp only [Chip.dropPortCmds, if_pos hp, hs, hr, hc, Chip.endPortCmd]

/-- A port behind which there is no slot and for which no command waits reports the change and is quiet. -/
theorem Chip.unplug_bare {p reason : Nat} (hp : p < 24) (hslots : c.busSlots p = []) (hjobs : c.jobs = [])
    (hs : (c.port p).suspendCmd = none) (hr : (c.port p).resumeCmd = none) (hc : (c.port p).resetCmd = none) :
    c.unplug p reason true = (c.portChange p chConnect 0).updPort p (fun q => { q with
      parked := q.parked.filter (fun x => x.bus != p), resetCmd := none, suspendCmd := none, resumeCmd := none, already := false
      se0 := false }) := by
  obtain ⟨hslots', hjobs', -, -⟩ := c.portChange_kept p chConnect 0
  obtain ⟨w, hport⟩ := c.port_portChange p chConnect p 0
  have hbus : (c.portChange p chConnect 0).busSlots p = [] := (Chip.busSlots_congr hslots' p).trans hslots
  rw [hjobs] at hjobs'
  simp only [Chip.unplug, if_true, Chip.jobs_filter_nil hjobs', show busPort p = p from if_pos hp]
  generalize c.portChange p chConnect 0 = d at hbus hport
  have hlose : ∀ f : Port → Port, (d.updPort p f).loseBus p reason = d.updPort p f := fun f => by
    rw [Chip.loseBus, Chip.busSlots_congr (c := d) (by rfl), hbus]
    rfl
  rw [hlose, Chip.dropPortCmds_bare hp]
  · exact Chip.updPort_updPort _ _ _ _
  all_goals simp only [Chip.port_updPort_same, hport, hs, hr, hc]

/-! ### The events -/

theorem Chip.powerWaitEnd_usb2 {p : Nat} (hp : 8 ≤ p) (hst : (c.port p).st = pPowering) :
    c.powerWaitEnd p = c.updPort p (fun q => { q with st := pDisconnected }) := by
  simp only [Chip.powerWaitEnd, if_pos hst]
  exact if_neg (fun h => absurd h.1 (Nat.not_lt.mpr hp))

theorem Chip.powerWaitEnd_both {p : Nat} (hp : p < 8) (hst : (c.port p).st = pPowering) (hss : (c.ssp p).st = sPowering) :
    c.powerWaitEnd p = (c.updPort p (fun q => { q with st := pDisconnected })).updSsp p (fun q => { q with st := sRxDetect }) := by
  simp only [Chip.powerWaitEnd, if_pos hst]
  exact if_pos ⟨hp, hss⟩

theorem Chip.beginResume_u3 {p : Nat} {cause : BitVec 4} (hst : (c.port p).st = pSuspended) :
    c.beginResume p cause = (c.updPort p (fun q => { q with
      st := pResuming, fromL1 := false, nowCause := cause, already := false, afterResume := false })).emit (.resumeK p) := by
  refine congrArg (Chip.emit · _) (Chip.updPort_congr c p _ _ ?_)
  rw [hst]
  rfl

theorem Chip.passWake_own {p : Nat} (h : (c.port p).pass = false) (ss : Bool) : c.passWake p ss = c := by
  simp only [Chip.passWake, h, Bool.false_and, Bool.false_eq_true, if_false]

theorem Chip.deviceK_suspended {p : Nat} (hwake : c.asleep = false) (hst : (c.port p).st = pSuspended) (hpass : (c.port p).pass = false) :
    c.deviceK p = (c.updPort p (fun q => { q with
      st := pResuming, fromL1 := false, nowCause := causeDevice, already := false, afterResume := false })).emit (.resumeK p) := by
  simp only [Chip.deviceK, hwake, Bool.false_eq_true, if_false, if_pos (Or.inl hst), Chip.beginResume_u3 hst]
  refine Chip.passWake_own ?_ false
  simp only [Chip.port_emit, Chip.port_updPort_same, hpass]

theorem Chip.deviceK_resuming {p : Nat} (hwake : c.asleep = false) (hst : (c.port p).st = pResuming) (hcause : (c.port p).nowCause = causeHost) :
    c.deviceK p = c.updPort p (fun q => { q with nowCause := causeBoth }) := by
  have hno : ¬ ((c.port p).st = pSuspended ∨ (c.port p).st = pL1) := by
    rw [hst]
    decide
  simp only [Chip.deviceK, hwake, Bool.false_eq_true, if_false, if_neg hno]
  exact if_pos ⟨hst, hcause⟩

theorem Chip.resumeKEnd_u3 {p : Nat} (hst : (c.port p).st = pResuming) (hl1 : (c.port p).fromL1 = false) :
    c.resumeKEnd p = (c.updBus p (fun x => { x with noSof := true })).updPort p (fun q => { q with st := pRecovery, afterResume := true }) := by
  simp only [Chip.resumeKEnd, if_neg (not_not.mpr hst), hl1, Bool.false_eq_true, if_false]

theorem Chip.pocRises_quiet {n : Nat} (h : (c.port n).tripped = false) :
    c.pocRises n = c.updPort n (fun q => { q with pocLow := false, deglitch := false }) := by
  simp only [Chip.pocRises, h, Bool.not_false, if_true]

theorem Chip.disconnect_asleep {p : Nat} (h : c.asleep = true) : c.disconnect p = c.noteLine p 0 := if_pos h

theorem Chip.disconnect_none {p : Nat} (h : c.asleep = false) (hst : (c.port p).st < pDisabled) : c.disconnect p = c :=
  (if_neg (ne_true_of_eq_false h)).trans (if_pos hst)

theorem Chip.disconnect_runs {p : Nat} (h : c.asleep = false) (hst : pDisabled ≤ (c.port p).st)
    (hss : p < 8 → (c.ssp p).st ≠ sDisabled) : c.disconnect p = ((c.updPort p (fun q => { q with
      st := pDisconnected, connected := false, speed := 0, fromL1 := false, afterResume := false, devResumed := false
      })).updBus p (fun x => { x with lpm := none })).unplug p 0 (c.port p).connected := by
  have hss' : ¬ (p < 8 ∧ (((c.updPort p (fun q => { q with
      st := pDisconnected, connected := false, speed := 0, fromL1 := false, afterResume := false, devResumed := false
      })).updBus p (fun x => { x with lpm := none })).ssp p).st = sDisabled) := fun ⟨hp, hd⟩ => hss hp hd
  simp only [Chip.disconnect, h, Bool.false_eq_true, if_false, if_neg (Nat.not_lt.mpr hst), if_neg hss']

theorem Chip.debounced_runs {p : Nat} (hst : (c.port p).st = pDebounce) :
    c.debounced p = ((c.updPort p (fun q => { q with
      st := pDisabled, connected := true, speed := q.wasSpeed, devResumed := false })).portChange p chConnect 0).enumRoot p := if_pos hst

theorem Chip.debounced_unmanaged {p : Nat} (hst : (c.port p).st = pDebounce) (h : c.enumOn p = false) :
    c.debounced p = (c.updPort p (fun q => { q with
      st := pDisabled, connected := true, speed := q.wasSpeed, devResumed := false })).portChange p chConnect 0 := by
  rw [Chip.debounced_runs hst]
  refine Chip.enumRoot_off ((Chip.enumOn_portChange _ _ _ _ _).trans (Eq.trans ?_ h))
  have hport : ∀ j, ∃ x, (c.updPort p (fun q => { q with st := pDisabled, connected := true, speed := q.wasSpeed, devResumed := false })).port j
      = x ∧ x.svc = (c.port j).svc ∧ x.pass = (c.port j).pass ∧ x.owner = (c.port j).owner ∧ x.farOwner = (c.port j).farOwner := fun j => by
    rw [Chip.port_updPort]
    split
    · next hj => exact hj ▸ ⟨_, rfl, rfl, rfl, rfl, rfl⟩
    · exact ⟨_, rfl, rfl, rfl, rfl, rfl⟩
  obtain ⟨x, hx, hsvc, hpass, how, hfar⟩ := hport (busPort p)
  simp only [Chip.enumOn, Chip.ownerOf, hx, hsvc, hpass, how, hfar, Chip.updPort_boot, Chip.inst_updPort]

theorem Chip.resetRecovered_runs {p : Nat} (hst : (c.port p).st = pRecovery) (hres : (c.port p).afterResume = false) :
    c.resetRecovered p = ((c.updPort p (fun q => { q with st := pEnabled, resetCmd := none, devResumed := false })).portChange p
      (chReset + chEnable) 0).resetOver p (c.port p).wasSpeed (c.port p).resetCmd := if_pos ⟨hst, hres⟩

theorem Chip.resetRecovered_bare {p : Nat} (hp : p < 24) (hst : (c.port p).st = pRecovery) (hres : (c.port p).afterResume = false)
    (hsp : (c.port p).wasSpeed = (c.port p).speed) (hcmd : (c.port p).resetCmd = none) (hslots : c.busSlots p = [])
    (hjobs : c.jobs = []) : c.resetRecovered p = ((c.updPort p (fun q => { q with
      st := pEnabled, resetCmd := none, devResumed := false })).portChange p (chReset + chEnable) 0).kick p := by
  rw [Chip.resetRecovered_runs hst hres, hcmd]
  obtain ⟨hs, hj, -, -⟩ := (c.updPort p (fun q => { q with st := pEnabled, resetCmd := none, devResumed := false })).portChange_kept p
    (chReset + chEnable) 0
  obtain ⟨w, hport⟩ := (c.updPort p (fun q => { q with st := pEnabled, resetCmd := none, devResumed := false })).port_portChange p
    (chReset + chEnable) p 0
  refine Chip.resetOver_bare ?_ ((Chip.busSlots_congr hs p).trans hslots) (hj.trans hjobs)
  rw [Chip.busSpeed, if_pos hp, hport, Chip.port_updPort_same]
  exact hsp

theorem Chip.resumeRecovered_runs {p : Nat} (hst : (c.port p).st = pRecovery) (hres : (c.port p).afterResume = true) :
    c.resumeRecovered p = c.resumed p := if_pos ⟨hst, hres⟩

theorem Chip.disconnect_bare {p : Nat} (hp : p < 24) (h : c.asleep = false) (hst : pDisabled ≤ (c.port p).st)
    (hss : p < 8 → (c.ssp p).st ≠ sDisabled) (hconn : (c.port p).connected = true) (hs : (c.port p).suspendCmd = none)
    (hr : (c.port p).resumeCmd = none) (hc : (c.port p).resetCmd = none) (hslots : c.busSlots p = []) (hjobs : c.jobs = []) :
    c.disconnect p = (((c.updPort p (fun q => { q with
      st := pDisconnected, connected := false, speed := 0, fromL1 := false, afterResume := false, devResumed := false
      })).updBus p (fun x => { x with lpm := none })).portChange p chConnect 0).updPort p (fun q => { q with
        parked := q.parked.filter (fun x => x.bus != p), resetCmd := none, suspendCmd := none, resumeCmd := none, already := false
        se0 := false }) := by
  rw [Chip.disconnect_runs h hst hss, hconn]
  refine Chip.unplug_bare hp ((Chip.busSlots_congr rfl p).trans hslots) hjobs ?_ ?_ ?_
  all_goals simp only [Chip.port_updBus, Chip.port_updPort_same, hs, hr, hc]

/-- Settles O31: each event, in the state that its row names. -/
theorem usb2PortsFollowEvents : Obligations.Usb2PortsFollowEvents := by
  refine ⟨fun s i b => ?alone, fun s i => ?told⟩
  case alone =>
    intro p c q
    refine ⟨fun hp hst => next_act (Chip.powerWaitEnd_usb2 hp hst), fun hp hst hss => next_act (Chip.powerWaitEnd_both hp hst hss),
      fun hw hst hbc => next_act ((if_neg (ne_true_of_eq_false hw)).trans (if_pos ⟨hst, hbc⟩)),
      fun hw hst => next_act ((if_neg (ne_true_of_eq_false hw)).trans (if_pos hst)),
      fun hst hse => next_act (if_pos ⟨hst, hse⟩),
      fun hw => ⟨next_act (if_pos hw), next_act (if_pos hw), next_act (Chip.disconnect_asleep hw), next_act (if_pos hw)⟩,
      fun hw hst hpass => next_act (Chip.deviceK_suspended hw hst hpass),
      fun hw hst hcause => next_act (Chip.deviceK_resuming hw hst hcause),
      fun hst hl1 => next_act (Chip.resumeKEnd_u3 hst hl1), next_act rfl, fun ht => next_act (Chip.pocRises_quiet ht)⟩
  case told =>
    intro p c q open' up down
    exact ⟨fun hst => ⟨next_act (Chip.debounced_runs hst), fun henum => next_act (Chip.debounced_unmanaged hst henum)⟩,
      fun hst hres => ⟨next_act (Chip.resetRecovered_runs hst hres), fun hsp hcmd hslots hjobs =>
        next_act (Chip.resetRecovered_bare i.isLt hst hres hsp hcmd hslots hjobs)⟩,
      fun hst => next_act (if_pos hst),
      fun hst hres => next_act (Chip.resumeRecovered_runs hst hres),
      fun hw hst hss => ⟨next_act (Chip.disconnect_runs hw hst hss), fun hconn hs hr hc hslots hjobs =>
        next_act (Chip.disconnect_bare i.isLt hw hst hss hconn hs hr hc hslots hjobs)⟩,
      fun hw hst => next_act (Chip.disconnect_none hw hst)⟩

end Sys2Proof.Machine
end

/-! Events of SuperSpeed companions and of port power (R204 to R223, R263). -/
section

namespace Sys2Proof.Machine

variable {c : Chip} {p : Nat}

/-! ### SuperSpeed companions -/

theorem Chip.rxDetect_found (hw : c.asleep = false) (hst : (c.ssp p).st = sRxDetect) (hbc : (c.port p).bc ≠ dcp) :
    c.rxDetect p true = c.updSsp p (fun q => { q with st := sPolling }) :=
  (if_neg (ne_true_of_eq_false hw)).trans (if_pos ⟨hst, rfl, hbc⟩)

/-- The companion once its link has trained to the speed `sp`. -/
def Ssp.trained (q : Ssp) (sp : BitVec 4) : Ssp :=
  { q with st := sU0, connected := true, speed := sp, lanes := if sp = 5 ∨ sp = 7 then 2 else 1, timeouts := 0, wasSpeed := sp }

theorem Chip.reachU0_polling (speed : BitVec 4) (hst : (c.ssp p).st = sPolling) :
    c.reachU0 p speed = ((c.updSsp p (fun q => q.trained (if c.twoLanes p then speed else if speed = 7 then 6 else if speed = 5 then 4
      else speed))).portChange (24 + p) (chConnect + chEnable) 0).enumRoot (24 + p) := if_pos hst

theorem Chip.reachU0_unmanaged (speed : BitVec 4) (hst : (c.ssp p).st = sPolling) (h : c.enumOn (24 + p) = false) :
    c.reachU0 p speed = (c.updSsp p (fun q => q.trained (if c.twoLanes p then speed else if speed = 7 then 6 else if speed = 5 then 4
      else speed))).portChange (24 + p) (chConnect + chEnable) 0 := by
  rw [Chip.reachU0_polling speed hst]
  refine Chip.enumRoot_off ((Chip.enumOn_portChange _ _ _ _ _).trans (Eq.trans ?_ h))
  simp only [Chip.enumOn, Chip.ownerOf, Chip.updSsp_boot, Chip.port_updSsp, Chip.inst_updSsp]
  rfl

theorem Chip.reachU0_resetting (speed : BitVec 4) (hst : (c.ssp p).st = sResetting) (hse : (c.ssp p).se0 = true) :
    let sp := if c.twoLanes p then speed else if speed = 7 then 6 else if speed = 5 then 4 else speed
    c.reachU0 p speed = ((c.updSsp p (fun q => { q with
      st := sU0, speed := sp, lanes := if sp = 5 ∨ sp = 7 then 2 else 1, se0 := false, resetCmd := none
      })).portChange (24 + p) chReset 0).resetOver (24 + p) (c.ssp p).wasSpeed (c.ssp p).resetCmd := by
  have hno : ¬ (c.ssp p).st = sPolling := by
    rw [hst]
    decide
  exact (if_neg hno).trans (if_pos ⟨hst, hse⟩)

theorem Chip.pollingTimeout_again (hst : (c.ssp p).st = sPolling) (h : (c.ssp p).timeouts < 2) :
    c.pollingTimeout p = c.updSsp p (fun q => { q with
      trainFail := q.trainFail + 1, timeouts := q.timeouts + 1, st := sRxDetect }) := by
  simp only [Chip.pollingTimeout, if_pos hst, Chip.ssp_updSsp_same]
  exact if_neg (by omega)

theorem Chip.pollingTimeout_last (hst : (c.ssp p).st = sPolling) (h : (c.ssp p).timeouts = 2) :
    c.pollingTimeout p = (c.updSsp p (fun q => { q with
      trainFail := q.trainFail + 1, timeouts := q.timeouts + 1, st := sDisabled })).portChange (24 + p) chLinkErr 0 := by
  simp only [Chip.pollingTimeout, if_pos hst, Chip.ssp_updSsp_same, Chip.updSsp_updSsp, h]
  exact if_pos (Nat.le_refl 3)

theorem Chip.idleTimeout_u1 (hst : (c.ssp p).st = sU0) (hpass : (c.port p).pass = false) (hu1 : (c.ssp p).u1 ≠ 0)
    (hkeep : c.keepsU0 p = false) : c.idleTimeout p false = (c.updSsp p (fun q => { q with st := sU1 })).emit (.ltssm p sU1) := by
  have htime : c.u1Time p = (c.ssp p).u1.toNat := if_neg (ne_true_of_eq_false hpass)
  have hpos : (c.ssp p).u1.toNat ≠ 0 := fun h => hu1 (BitVec.eq_of_toNat_eq h)
  have hmax : (c.ssp p).u1.toNat ≠ 0xFF := by
    have := (c.ssp p).u1.isLt
    omega
  refine if_pos ⟨hst, ?_, hkeep⟩
  simp only [Bool.false_eq_true, if_false, htime, bne_iff_ne, ne_eq, hpos, hmax, not_false_eq_true,
    Bool.and_eq_true, and_self]

theorem Chip.idleTimeout_kept (hkeep : c.keepsU0 p = true) : c.idleTimeout p false = c :=
  if_neg (fun h => absurd (hkeep.symm.trans h.2.2) (by decide))

theorem Chip.deviceU_kept (u2 : Bool) (hst : (c.ssp p).st = sU0) (hkeep : c.keepsU0 p = true) :
    c.deviceU p u2 = c.emit (.lau p false) := by
  simp only [Chip.deviceU, hst, hkeep, ne_eq, not_true_eq_false, if_false, Bool.not_true, Bool.and_false, Bool.false_eq_true]

theorem Chip.deviceU_accepts (hst : (c.ssp p).st = sU0) (hpass : (c.port p).pass = false) (hacc : (c.ssp p).acceptDev = true)
    (hkeep : c.keepsU0 p = false) :
    c.deviceU p true = ((c.updSsp p (fun q => { q with st := sU2 })).emit (.ltssm p sU2)).emit (.lau p true) := by
  have haccepts : c.acceptsU p true = true := (if_neg (ne_true_of_eq_false hpass)).trans hacc
  simp only [Chip.deviceU, hst, hkeep, haccepts, ne_eq, not_true_eq_false, if_false, Bool.not_false, Bool.and_true, if_true]
  rfl

theorem Chip.linkError_u0 (hst : (c.ssp p).st = sU0) : c.linkError p false = ((c.updSsp p (fun q => { q with
    recovery := q.recovery + 1, st := sInactive, inactive := q.inactive + 1 })).portChange (24 + p) chLinkErr 0).kick (24 + p) := by
  have hno : ¬ ((c.ssp p).st = sRecovery ∧ (c.ssp p).exiting = true) := by
    rw [hst]
    exact fun h => absurd h.1 (by decide)
  simp only [Chip.linkError, if_neg hno, if_pos (Or.inl hst), Bool.false_eq_true, if_false, Chip.updSsp_updSsp]

theorem Chip.termLost_runs (hw : c.asleep = false) (hst : (c.ssp p).st ≠ sOff) :
    c.termLost p = if (c.ssp p).connected then (c.updSsp p (fun q => { q with
        st := sRxDetect, connected := false, speed := 0, lanes := 0, timeouts := 0, tries := 0, exiting := false })).unplug (24 + p) 0 true
      else c.updSsp p (fun q => { q with
        st := sRxDetect, connected := false, speed := 0, lanes := 0, timeouts := 0, tries := 0, exiting := false }) :=
  (if_neg (ne_true_of_eq_false hw)).trans (if_neg hst)

theorem Chip.wakeLfps_u3 (hw : c.asleep = false) (hst : (c.ssp p).st = sU3) (hpass : (c.port p).pass = false) :
    c.wakeLfps p = (c.updSsp p (fun q => { q with
      st := sRecovery, exiting := true, tries := 0, nowCause := causeDevice })).emit (.ltssm p sRecovery) :=
  ((if_neg (ne_true_of_eq_false hw)).trans (if_pos hst)).trans (Chip.passWake_own (c := c.beginU3Exit p causeDevice) hpass true)

theorem Chip.u3Retry_last (hst : (c.ssp p).st = sRecovery) (hex : (c.ssp p).exiting = true) (h : 2 ≤ (c.ssp p).tries) :
    c.u3Retry p = (((c.updSsp p (fun x => { x with
      st := sInactive, exiting := false, tries := 0, inactive := x.inactive + 1, cause := (c.ssp p).nowCause, resumeCmd := none
      })).portChange (24 + p) chLinkErr 0).finishRef (c.ssp p).resumeCmd ccSuccess 2).kick (24 + p) := by
  rw [Chip.u3Retry, if_pos ⟨hst, hex⟩, if_pos h]
  simp only [Chip.exitFails]
  rw [Chip.updSsp_congr c p _ (fun x => { x with
    st := sInactive, exiting := false, tries := 0, inactive := x.inactive + 1, cause := (c.ssp p).nowCause, resumeCmd := none })]
  rfl

theorem Chip.u3Retry_again (hst : (c.ssp p).st = sRecovery) (hex : (c.ssp p).exiting = true) (h : (c.ssp p).tries < 2) :
    c.u3Retry p = c.updSsp p (fun q => { q with tries := q.tries + 1 }) :=
  (if_pos ⟨hst, hex⟩).trans (if_neg (Nat.not_le.mpr h))

theorem Chip.u3Out_runs (hst : (c.ssp p).st = sRecovery) (hex : (c.ssp p).exiting = true) :
    c.u3Out p = (((c.updSsp p (fun x => { x with
      st := sU0, exiting := false, tries := 0, cause := (c.ssp p).nowCause, resumeCmd := none })).portChange (24 + p) chResume
        (c.ssp p).nowCause).finishRef (c.ssp p).resumeCmd ccSuccess 0).kick (24 + p) := by
  rw [Chip.u3Out, if_pos ⟨hst, hex⟩]
  dsimp only
  rw [Chip.updSsp_congr c p _ (fun x => { x with
    st := sU0, exiting := false, tries := 0, cause := (c.ssp p).nowCause, resumeCmd := none })]
  rfl

/-! ### Port power -/

theorem Chip.pwr_foldl {f : Chip → Nat → Chip} (h : ∀ (c : Chip) (p : Nat), (f c p).pwr = c.pwr) (l : List Nat) (c : Chip) :
    (l.foldl f c).pwr = c.pwr := by
  induction l generalizing c with
  | nil => rfl
  | cons p t ih => exact (ih _).trans (h c p)

theorem Chip.setOc_pwr (c : Chip) (p : Nat) (on : Bool) : (c.setOc p on).pwr = c.pwr := by
  unfold Chip.setOc
  split
  · rfl
  · dsimp only
    split
    · rfl
    · rfl

theorem Chip.asleep_tripPower (c : Chip) (n : Nat) : (c.tripPower n).asleep = c.asleep := by
  have hst : (c.tripPower n).pwr.st = c.pwr.st := by
    show ((c.tripOff n).foldl Chip.offOne ((c.gang n).foldl Chip.tripOne c)).pwr.st = c.pwr.st
    rw [Chip.pwr_foldl (f := Chip.offOne) (fun _ _ => rfl), Chip.pwr_foldl (f := Chip.tripOne) (fun c p => c.setOc_pwr p true)]
  rw [Chip.asleep, hst, Chip.asleep]

theorem Chip.tripped_acts (hlow : (c.port p).pocLow = true) (hdeg : (c.port p).deglitch = true) (hgang : c.gang p ≠ [])
    (hw : c.asleep = false) : c.tripped p = (c.tripPower p).tripReport p (c.tripOff p) := by
  have hempty : (c.gang p).isEmpty = false := by simpa using hgang
  simp only [Chip.tripped, hlow, hdeg, hempty, Bool.not_true, Bool.or_self, Bool.false_eq_true, if_false, Chip.asleep_tripPower, hw]

theorem Chip.tripped_unqualified (hdeg : (c.port p).deglitch = false) : c.tripped p = c := by
  simp only [Chip.tripped, hdeg, Bool.not_false, Bool.or_true, Bool.true_or, if_true]

theorem Chip.tripDue_setOc (c : Chip) (p j : Nat) (on : Bool) : ((c.setOc p on).port j).tripDue = (c.port j).tripDue := by
  rw [Chip.port_setOc]
  split
  · next h =>
    subst h
    split
    · rfl
    · rfl
  · rfl

theorem Chip.tripDue_tripClear (c : Chip) (n : Nat) : ((c.tripClear n).port n).tripDue = (c.port n).tripDue := by
  have hfold : ∀ (l : List Nat) (d : Chip), ((l.foldl (fun c p => c.setOc p false) d).port n).tripDue = (d.port n).tripDue := by
    intro l
    induction l with
    | nil => exact fun d => rfl
    | cons p t ih => exact fun d => (ih _).trans (d.tripDue_setOc p n false)
  simp only [Chip.tripClear, Chip.port_updPort_same]
  exact hfold _ c

theorem Chip.pocRises_clears (ht : (c.port p).tripped = true) (hdue : (c.port p).tripDue = none) :
    c.pocRises p = ((c.updPort p (fun q => { q with pocLow := false, deglitch := false })).tripClear p).clearReport p := by
  have hclear : (((c.updPort p (fun q => { q with pocLow := false, deglitch := false })).tripClear p).port p).tripDue = none := by
    rw [Chip.tripDue_tripClear, Chip.port_updPort_same]
    exact hdue
  simp only [Chip.pocRises, ht, hclear, Bool.not_true, Bool.false_eq_true, if_false, Option.isSome_none]

theorem Chip.cycleEnd_oc (hcyc : (c.port p).cycle.isSome = true) (hoc : (c.port p).oc = true) :
    c.cycleEnd p = c.updPort p (fun q => { q with cycle := none }) := by
  have hnone : (c.port p).cycle.isNone = false := by simpa using hcyc
  exact (if_neg (ne_true_of_eq_false hnone)).trans (if_pos hoc)

theorem Chip.cycleEnd_powers (hcyc : (c.port p).cycle.isSome = true) (hoc : (c.port p).oc = false) :
    c.cycleEnd p = (c.ppeHigh p).updPort p (fun q => { q with bc := c.wantMode p, chargeOnly := c.wantMode p == dcp, cycle := none }) := by
  have hnone : (c.port p).cycle.isNone = false := by simpa using hcyc
  exact (if_neg (ne_true_of_eq_false hnone)).trans (if_neg (ne_true_of_eq_false hoc))

/-- OC_MAP's byte for port `j`, from a write of its word. -/
def Chip.mapped (c : Chip) (val : Word) (j : Nat) : Port :=
  let v := fld val (8 * (j % 4) + 4) (8 * (j % 4))
  let on := decide (v < 24) && (c.port v).tripped
  if (c.port j).powered = false ∧ (v < 24 ∨ v = 31) then { c.port j with
      src := if v = j then none else some (BitVec.ofNat 5 v), oc := on
      chg := if (c.port j).oc = on then (c.port j).chg else (c.port j).chg ||| 32 }
    else c.port j

/-- The write of OC_MAP's word `k` at its byte `i`. -/
def Chip.ocMapByte (k : Nat) (val : Word) (c : Chip) (i : Nat) : Chip :=
  let p := 4 * k + i
  let v := fld val (8 * i + 4) (8 * i)
  if (c.port p).powered || (decide (24 ≤ v) && v != 31) then c
  else
    let oc := decide (v < 24) && (c.port v).tripped
    (c.updPort p (fun q => { q with src := if v = p then none else some (BitVec.ofNat 5 v) })).setOc p oc

theorem Chip.ocMap_foldl (c : Chip) (k : Nat) (val : Word) : c.ocMap k val = (List.range 4).foldl (Chip.ocMapByte k val) c := rfl

theorem Chip.port_ocMapByte (c : Chip) (k : Nat) (val : Word) {i : Nat} (hi : i < 4) (j : Nat) :
    (c.ocMapByte k val i).port j = if j = 4 * k + i then c.mapped val j else c.port j := by
  by_cases hj : j = 4 * k + i
  · have hmod : j % 4 = i := by omega
    subst hj
    rw [if_pos rfl]
    simp only [Chip.ocMapByte, Chip.mapped, hmod]
    generalize fld val (8 * i + 4) (8 * i) = v
    by_cases h : (c.port (4 * k + i)).powered = false ∧ (v < 24 ∨ v = 31)
    · have hgo : ((c.port (4 * k + i)).powered || (decide (24 ≤ v) && v != 31)) = false := by
        obtain ⟨hpow, hv⟩ := h
        simp only [hpow, Bool.false_or, Bool.and_eq_false_iff, decide_eq_false_iff_not, bne_eq_false_iff_eq]
        omega
      rw [if_pos h, hgo, if_neg Bool.false_ne_true, Chip.port_setOc, if_pos rfl, Chip.port_updPort_same]
      by_cases hoc : (c.port (4 * k + i)).oc = (decide (v < 24) && (c.port v).tripped)
      · rw [if_pos (by exact hoc), if_pos hoc, ← hoc]
      · rw [if_neg (by exact hoc), if_neg hoc]
    · have hstay : ((c.port (4 * k + i)).powered || (decide (24 ≤ v) && v != 31)) = true := by
        simp only [Bool.or_eq_true, Bool.and_eq_true, decide_eq_true_eq, bne_iff_ne]
        by_contra hn
        refine h ⟨Bool.eq_false_iff.mpr (fun hp => hn (Or.inl hp)), ?_⟩
        omega
      rw [if_neg h, hstay, if_pos rfl]
  · rw [if_neg hj]
    unfold Chip.ocMapByte
    dsimp only
    split
    · rfl
    · rw [Chip.port_setOc, if_neg hj, Chip.port_updPort, if_neg hj]

theorem Chip.tripped_mapped (c : Chip) (val : Word) (j : Nat) : (c.mapped val j).tripped = (c.port j).tripped := by
  unfold Chip.mapped
  dsimp only
  split
  · rfl
  · rfl

/-- A byte of OC_MAP is taken by its own port alone, and takes no part in what another byte does. -/
theorem Chip.mapped_ocMapByte (c : Chip) (k : Nat) (val : Word) {i j : Nat} (hi : i < 4) (hj : j ≠ 4 * k + i) :
    (c.ocMapByte k val i).mapped val j = c.mapped val j := by
  have htrip : ∀ v, ((c.ocMapByte k val i).port v).tripped = (c.port v).tripped := fun v => by
    rw [c.port_ocMapByte k val hi]
    split
    · exact c.tripped_mapped val v
    · rfl
  have hport : (c.ocMapByte k val i).port j = c.port j := by rw [c.port_ocMapByte k val hi, if_neg hj]
  simp only [Chip.mapped, hport, htrip]

theorem Chip.port_ocMap_foldl (k : Nat) (val : Word) (l : List Nat) (hl : l.Nodup) (h4 : ∀ i ∈ l, i < 4) (c : Chip) (j : Nat) :
    (l.foldl (Chip.ocMapByte k val) c).port j = if ∃ i ∈ l, j = 4 * k + i then c.mapped val j else c.port j := by
  induction l generalizing c with
  | nil => rw [if_neg (by simp)]; rfl
  | cons i t ih =>
    obtain ⟨hi, ht⟩ := List.nodup_cons.1 hl
    have hi4 : i < 4 := h4 i List.mem_cons_self
    rw [List.foldl_cons, ih ht (fun a ha => h4 a (List.mem_cons_of_mem i ha))]
    by_cases hj : j = 4 * k + i
    · have hno : ¬ ∃ a ∈ t, j = 4 * k + a := fun ⟨a, ha, hja⟩ => hi ((show a = i by omega) ▸ ha)
      rw [if_neg hno, if_pos ⟨i, List.mem_cons_self, hj⟩, c.port_ocMapByte k val hi4, if_pos hj]
    · rw [c.mapped_ocMapByte k val hi4 hj, c.port_ocMapByte k val hi4, if_neg hj]
      refine if_congr ?_ rfl rfl
      simp only [List.mem_cons, exists_eq_or_imp, hj, false_or]

theorem Chip.port_ocMap (c : Chip) (k : Nat) (val : Word) (j : Nat) :
    (c.ocMap k val).port j = if j / 4 = k then c.mapped val j else c.port j := by
  rw [c.ocMap_foldl, Chip.port_ocMap_foldl k val _ List.nodup_range (fun i hi => List.mem_range.1 hi)]
  refine if_congr ⟨fun ⟨i, hi, hj⟩ => ?_, fun h => ⟨j % 4, List.mem_range.2 (Nat.mod_lt j (by omega)), ?_⟩⟩ rfl rfl
  · have := List.mem_range.1 hi
    omega
  · omega

theorem exec_ocMapWrite {s : State} {w : Writer} (hm : s.chip.isMgr w = true) (k : Fin 6) (val : Word) :
    exec (.ocMapWrite w k val) s = .next (s.onward (s.chip.spinBreak.ocMap k.val val)) := next_act (Chip.setup_byMgr hm _)

theorem exec_svcPortWrite {s : State} {w : Writer} (hm : s.chip.isMgr w = true) (i : Fin 24) (val : Word) :
    exec (.svcPortWrite w i val) s = .next (s.onward (s.chip.spinBreak.svcPort i.val val)) := next_act (Chip.setup_byMgr hm _)

/-- Settles O33: each event, in the state that its row names. -/
theorem superSpeedAndPowerEvents : Obligations.SuperSpeedAndPowerEvents := by
  refine ⟨fun s i speed => ?companion, fun s i k w val => ?power⟩
  case companion =>
    intro p b c q sp trained gone
    exact ⟨fun hw hst hbc => next_act (Chip.rxDetect_found hw hst hbc),
      fun hst => ⟨next_act (Chip.reachU0_polling speed hst), fun henum => next_act (Chip.reachU0_unmanaged speed hst henum)⟩,
      fun hst hse => next_act (Chip.reachU0_resetting speed hst hse),
      fun hst ht => next_act (Chip.pollingTimeout_again hst ht), fun hst ht => next_act (Chip.pollingTimeout_last hst ht),
      fun hst hpass hu1 hkeep => next_act (Chip.idleTimeout_u1 hst hpass hu1 hkeep),
      fun hst hkeep => ⟨next_act (Chip.idleTimeout_kept hkeep), next_act (Chip.deviceU_kept true hst hkeep)⟩,
      fun hst hpass hacc hkeep => next_act (Chip.deviceU_accepts hst hpass hacc hkeep),
      fun hst => next_act (Chip.linkError_u0 hst), fun hw hst => next_act (Chip.termLost_runs hw hst),
      fun hw hst hpass => next_act (Chip.wakeLfps_u3 hw hst hpass),
      fun hst hex => ⟨fun ht => next_act (Chip.u3Retry_last hst hex ht), fun ht => next_act (Chip.u3Retry_again hst hex ht),
        next_act (Chip.u3Out_runs hst hex)⟩⟩
  case power =>
    intro p c q
    refine ⟨fun hlow hdeg hgang hw => next_act (Chip.tripped_acts hlow hdeg hgang hw),
      fun hdeg => next_act (Chip.tripped_unqualified hdeg), fun ht hdue => next_act (Chip.pocRises_clears ht hdue),
      fun hcyc hoc => next_act (Chip.cycleEnd_oc hcyc hoc), fun hcyc hoc => next_act (Chip.cycleEnd_powers hcyc hoc),
      fun hm => ⟨fun hv => ?illegal, fun hv => ?legal, c.spinBreak.ocMap k.val val, exec_ocMapWrite hm k val, fun j _ => ?map⟩⟩
    case illegal => rw [exec_svcPortWrite hm, Chip.svcPort, if_pos hv]
    case legal => rw [exec_svcPortWrite hm, Chip.svcPort, if_neg (Nat.not_le.mpr hv)]
    case map =>
      intro v on
      rw [Chip.port_ocMap]
      by_cases hk : j / 4 = k.val
      · rw [if_pos hk]
        exact if_congr (by simp only [hk, true_and]; exact Iff.rfl) rfl rfl
      · rw [if_neg hk, if_neg (fun h => hk h.1)]
        rfl

end Sys2Proof.Machine
end

/-! The hub of the Pass pair: its upstream host's requests (R228, R229) and its upstream side (R224 to R231). -/
section

namespace Sys2Proof.Machine

variable {c : Chip} {ss : Bool} {p : Nat}

/-! ### Requests -/

theorem Chip.upSeen_seen (h : ss = false ∨ c.pass.ssLink = true) : c.upSeen ss = c := by
  refine if_pos ?_
  rcases h with h | h
  · rw [h]; rfl
  · rw [h, Bool.or_true]

theorem Chip.upSeen_usb2 (c : Chip) : c.upSeen false = c := Chip.upSeen_seen (Or.inl rfl)

/-- The upstream link shows itself in the hub's own registers only. -/
theorem Chip.port_upSeen (c : Chip) (ss : Bool) (p : Nat) : (c.upSeen ss).port p = c.port p := by
  unfold Chip.upSeen
  split
  · rfl
  · rfl

theorem Chip.ssp_upSeen (c : Chip) (ss : Bool) (p : Nat) : (c.upSeen ss).ssp p = c.ssp p := by
  unfold Chip.upSeen
  split
  · rfl
  · rfl

theorem Chip.hubDo_on (h : c.hubOn ss = true) (act : Chip → Chip) : c.hubDo ss act = act (c.upSeen ss) := if_pos h

theorem Chip.hubDo_off (h : c.hubOn ss = false) (act : Chip → Chip) : c.hubDo ss act = c := if_neg (ne_true_of_eq_false h)

theorem Chip.hubDo_usb2 (h : c.hubOn false = true) (act : Chip → Chip) : c.hubDo false act = act c := by
  rw [Chip.hubDo_on h, Chip.upSeen_usb2]

theorem Chip.hubDo_of {act : Chip → Chip} {d : Chip} (h : c.hubOn ss = true) (hact : act (c.upSeen ss) = d) : c.hubDo ss act = d :=
  (Chip.hubDo_on h act).trans hact

theorem Chip.hubStd_config (h : c.hubOn ss = true) {v : Byte} (hv : v.toNat ≤ 1) : c.hubStd ss (.setConfiguration v)
    = (((c.upSeen ss).updHub ss (fun h => { h with configured := v == 1, halted := false, u1On := false, u2On := false })).emit
      (.hubData ss [])).chargeAll := Chip.hubDo_of h (if_pos hv)

theorem Chip.hubStd_qualifier (h : c.hubOn false = true) :
    c.hubStd false (.getDescriptor 6) = c.emit (.hubData false (hubQualifier c.pass.hs)) := Chip.hubDo_usb2 h _

theorem Chip.hubGetPort_usb2 (h : c.hubOn false = true) (p : Nat) :
    c.hubGetPort false p = c.emit (.hubData false (c.hubStatus2 p)) := Chip.hubDo_usb2 h _

theorem Chip.hubStatus2_other (hpass : (c.port p).pass = false) :
    c.hubStatus2 p = leBytes 2 0 ++ leBytes 2 (let h := c.hubPortOf false p
      flagAt h.cConn 0 + flagAt h.cEnable 1 + flagAt h.cSuspend 2 + flagAt h.cOc 3 + flagAt h.cReset 4) := by
  simp only [Chip.hubStatus2, hpass, Bool.not_false, if_true]

theorem Chip.hubClearPort_connection (h : c.hubOn false = true) (p : Nat) : c.hubClearPort false p .cConnection
    = (c.emit (.hubData false [])).updHubPort false p (fun h => { h with cConn := false }) := Chip.hubDo_usb2 h _

theorem Chip.hubSetPort_suspend (h : c.hubOn false = true) (hpass : (c.port p).pass = true) (hst : (c.port p).st = pEnabled) :
    c.hubSetPort false p .portSuspend 0 = (c.emit (.hubData false [])).updPort p (fun q => { q with st := pSuspending }) := by
  refine (Chip.hubDo_usb2 h _).trans ((if_neg (by exact Bool.false_ne_true)).trans (if_pos ?_))
  show ((c.port p).pass && (c.port p).st == pEnabled) = true
  rw [hpass, hst]
  rfl

theorem hubHas_ss (hp : p < 8) : hubHas true p = true := decide_eq_true hp

theorem Chip.hubGetPort_ss (h : c.hubOn true = true) (hp : p < 8) :
    c.hubGetPort true p = (c.upSeen true).emit (.hubData true ((c.upSeen true).hubStatus3 p)) := by
  refine Chip.hubDo_of h ?_
  simp only [hubHas_ss hp, Bool.not_true, Bool.false_eq_true, if_false, if_true]
  rfl

theorem Chip.hubGetPort_beyond (h : c.hubOn true = true) (hp : 8 ≤ p) :
    c.hubGetPort true p = (c.upSeen true).emit (.hubStall true) := by
  have hhas : hubHas true p = false := decide_eq_false (Nat.not_lt.mpr hp)
  exact Chip.hubDo_of h (if_pos (by rw [hhas]; rfl))

theorem Chip.hubSetPort_u1 (h : c.hubOn true = true) (hp : p < 8) (v : Byte) : c.hubSetPort true p .portU1Timeout v
    = ((c.upSeen true).emit (.hubData true [])).updHubPort true p (fun h => { h with u1 := v }) :=
  Chip.hubDo_of h (if_neg (by rw [hubHas_ss hp]; exact Bool.false_ne_true))

theorem Chip.hubClearPort_bh (h : c.hubOn true = true) (hp : p < 8) : c.hubClearPort true p .cBhReset
    = ((c.upSeen true).emit (.hubData true [])).updHubPort true p (fun h => { h with cBh := false }) :=
  Chip.hubDo_of h (if_neg (by rw [hubHas_ss hp]; exact Bool.false_ne_true))

/-- Settles O35: each request by its row of R228 and R229. -/
theorem hubRequestsAnswer : Obligations.HubRequestsAnswer := by
  intro s ss i i8 v a p c u tells stall
  refine ⟨fun h => Chip.upSeen_seen h, fun h => ?both, fun h => ?usb2, ?usb3, fun h => ?detached⟩
  case both =>
    exact ⟨next_act (Chip.hubDo_on h _), next_act (Chip.hubDo_on h _), next_act (Chip.hubDo_on h _), next_act (Chip.hubDo_on h _),
      next_act (Chip.hubDo_on h _), next_act (Chip.hubDo_on h _), next_act (Chip.hubDo_on h _), next_act (Chip.hubDo_on h _),
      next_act (Chip.hubDo_on h _), fun hv => next_act (Chip.hubStd_config h hv), next_act (Chip.hubDo_on h _)⟩
  case usb2 =>
    exact ⟨next_act (Chip.hubGetPort_usb2 h p), fun hpass => Chip.hubStatus2_other hpass, next_act (Chip.hubClearPort_connection h p),
      next_act (Chip.hubDo_usb2 h _), next_act (Chip.hubDo_usb2 h _), next_act (Chip.hubStd_qualifier h),
      fun hpass hst => next_act (Chip.hubSetPort_suspend h hpass hst)⟩
  case usb3 =>
    intro t h
    exact ⟨fun hp => next_act (Chip.hubGetPort_beyond h hp), fun hp => ⟨next_act (Chip.hubGetPort_ss h hp),
      next_act (Chip.hubSetPort_u1 h hp v), next_act (Chip.hubClearPort_bh h hp)⟩,
      fun hv => next_act (Chip.hubDo_of h (if_pos hv)), fun hv => next_act (Chip.hubDo_of h (if_neg (Nat.not_le.mpr hv))),
      next_act (Chip.hubDo_on h _)⟩
  case detached =>
    exact ⟨next_act (Chip.hubDo_off h _), next_act (Chip.hubDo_off h _)⟩

/-! ### The upstream side -/

theorem Chip.passSet_stays {f : Pass → Pass} (h2 : (c.pass.attached && !(f c.pass).attached) = false)
    (h3 : (c.pass.ssAttached && !(f c.pass).ssAttached) = false) : c.passSet f = ({ c with pass := f c.pass } : Chip).chargeAll := by
  simp only [Chip.passSet, h2, h3, Bool.false_eq_true, if_false]

theorem Pass.ssAttached_attached {x : Pass} (h : x.attached = false) : x.ssAttached = false := by
  rw [Pass.ssAttached, ← Pass.attached, h, Bool.false_and]

/-- A hub that is not attached has nothing to detach from. -/
theorem Chip.passSet_unattached {f : Pass → Pass} (h : c.pass.attached = false) :
    c.passSet f = ({ c with pass := f c.pass } : Chip).chargeAll :=
  Chip.passSet_stays (by rw [h]; rfl) (by rw [Pass.ssAttached_attached h]; rfl)

theorem Chip.ufpVbus_high : c.ufpVbus true = ({ c with pass := { c.pass with vbus := true } } : Chip).chargeAll := by
  refine Chip.passSet_stays ?_ ?_
  · simp only [Pass.attached, Bool.and_true]
    cases c.pass.hubEn
    · rfl
    · exact Bool.and_false _
  · simp only [Pass.ssAttached, Bool.and_true]
    cases c.pass.hubEn
    · rfl
    · simp only [Bool.true_and, Bool.and_assoc, Bool.and_not_self, Bool.and_false]

theorem Chip.ufpVbus_gone (h : c.pass.attached = true) :
    c.ufpVbus false = ({ c with pass := { c.pass with vbus := false } } : Chip).hubGone.chargeAll := by
  have hnow : ({ c.pass with vbus := false } : Pass).attached = false := Bool.and_false _
  simp only [Chip.ufpVbus, Chip.passSet, h, hnow, Bool.not_false, Bool.and_self, if_true]

theorem Chip.upReset_off {warm : Bool} (h : c.hubOn warm = false) : c.upReset warm = c := if_pos (by rw [h]; rfl)

theorem Chip.upReset_on {warm : Bool} (h : c.hubOn warm = true) : c.upReset warm
    = (if warm then { c.held.foldl (fun c p => c.hubPowerOff p) c with
          pass := { (c.held.foldl (fun c p => c.hubPowerOff p) c).pass with usb3 := {}, ssLink := false, ssSpeed := 0 } }
      else { c.held.foldl (fun c p => c.hubPowerOff p) c with
          pass := { (c.held.foldl (fun c p => c.hubPowerOff p) c).pass with
            usb2 := {}, hs := bitAt (Config.freeWord (c.held.foldl (fun c p => c.hubPowerOff p) c).free) 0 }
          free := (c.held.foldl (fun c p => c.hubPowerOff p) c).free + 1 } : Chip).chargeAll := if_neg (by rw [h]; exact Bool.false_ne_true)

theorem List.foldl_of_fixed {α β : Type} {f : β → α → β} {b : β} (l : List α) (h : ∀ a ∈ l, f b a = b) : l.foldl f b = b := by
  induction l with
  | nil => rfl
  | cons a t ih => rw [List.foldl_cons, h a List.mem_cons_self, ih (fun x hx => h x (List.mem_cons_of_mem a hx))]

theorem Chip.upHotReset_unheld (h : c.hubOn true = true) (hheld : ∀ k < 8, (c.port k).pass = false) :
    c.upHotReset = { c.upSeen true with pass := { (c.upSeen true).pass with usb3 := {} } } := by
  refine (if_neg (by rw [h]; exact Bool.false_ne_true)).trans (List.foldl_of_fixed _ (fun k hk => ?_))
  have hpass : (((c.upSeen true).updHub true (fun _ => {})).port k).pass = false :=
    (congrArg Port.pass (c.port_upSeen true k)).trans (hheld k (List.mem_range.1 hk))
  exact if_neg (by rw [hpass]; exact Bool.false_ne_true)

theorem Chip.upSuspend_off (h : c.hubOn ss = false) (port : Option Nat) : c.upSuspend ss port = c := if_pos (by rw [h]; rfl)

theorem Chip.upSuspend_hub (h : c.hubOn ss = true) : c.upSuspend ss none = c.updHub ss (fun h => { h with suspended := true }) :=
  if_neg (by rw [h]; exact Bool.false_ne_true)

theorem Chip.upResume_hub (h : c.hubOn ss = true) : c.upResume ss none = c.updHub ss (fun h => { h with suspended := false }) :=
  if_neg (by rw [h]; exact Bool.false_ne_true)

theorem Chip.upSuspend_port (h : c.hubOn false = true) (hpass : (c.port p).pass = true) (hst : (c.port p).st = pEnabled) :
    c.upSuspend false (some p) = c.updPort p (fun q => { q with st := pSuspending }) := by
  simp only [Chip.upSuspend, h, hpass, hst, Bool.not_true, Bool.false_eq_true, if_false, BEq.rfl, Bool.and_self, if_true]

theorem Chip.upXact_forwards (h : c.hubOn false = true) {i : Fin 24} (hpass : (c.port i.val).pass = true) (hst : (c.port i.val).st = pEnabled) :
    c.upXact (.highSpeed i) = c.emit (.hubForward i.val false) ∧ c.upXact (.translated i) = c.emit (.hubForward i.val true) := by
  have hgo : (c.hubOn false && (c.port i.val).pass && (c.port i.val).st == pEnabled) = true := by
    rw [h, hpass, hst]
    rfl
  exact ⟨if_pos hgo, if_pos hgo⟩

theorem Chip.upXact_unheld {i : Fin 24} (hpass : (c.port i.val).pass = false) : c.upXact (.highSpeed i) = c :=
  if_neg (by rw [hpass, Bool.and_false, Bool.false_and]; exact Bool.false_ne_true)

theorem Chip.upXact_ss (h : c.hubOn true = true) {i : Fin 8} (hpass : (c.port i.val).pass = true) (hen : (c.ssp i.val).enabled = true) :
    c.upXact (.superSpeed i) = (c.upSeen true).emit (.hubForward (24 + i.val) false) :=
  Chip.hubDo_of h (if_pos (by rw [Chip.port_upSeen, Chip.ssp_upSeen, hpass, hen]; rfl))

theorem Chip.upXact_poll (h : c.hubOn false = true) (hhalt : c.pass.usb2.halted = false) :
    c.upXact (.statusPoll false) = c.emit (.hubStatus (c.hubBits false)) := by
  show c.hubDo false (fun c => if (c.hub false).halted then c.hubNo false else c.emit (.hubStatus (c.hubBits false))) = _
  rw [Chip.hubDo_usb2 h]
  exact if_neg (ne_true_of_eq_false hhalt)

/-- Settles O36: each event by its row of R224 to R231. -/
theorem upstreamEventsAct : Obligations.UpstreamEventsAct := by
  intro s ss high i i8 w val p c t off
  refine ⟨⟨fun h => ?stays, fun h => next_act (Chip.ufpVbus_gone h)⟩,
    fun hm h => next_act ((Chip.setup_byMgr hm _).trans (Chip.passSet_unattached (c := c.spinBreak) h)),
    fun h => next_act (Chip.upReset_on h), fun h => next_act (Chip.upReset_on h),
    fun h hheld => next_act (Chip.upHotReset_unheld h hheld),
    fun h => ⟨next_act (Chip.upSuspend_hub h), next_act (Chip.upResume_hub h)⟩,
    fun h hpass hst => next_act (Chip.upSuspend_port h hpass hst),
    fun h => ⟨next_act (Chip.upSuspend_off h none), next_act (Chip.upReset_off h)⟩,
    fun h hpass hst => ⟨next_act (Chip.upXact_forwards h hpass hst).1, next_act (Chip.upXact_forwards h hpass hst).2⟩,
    fun h hpass hen => next_act (Chip.upXact_ss h hpass hen), fun h hhalt => next_act (Chip.upXact_poll h hhalt),
    fun _ hpass => next_act (Chip.upXact_unheld hpass)⟩
  case stays =>
    rcases h with h | h
    · rw [h]
      exact next_act Chip.ufpVbus_high
    · exact next_act (Chip.passSet_unattached h)

end Sys2Proof.Machine
end

/-! The mailbox of an instance (R280 to R282). -/
section

namespace Sys2Proof.Machine

variable {c : Chip} {n op : Nat}

/-! ### A request that has begun -/

/-- The mailbox of a request that has begun and that the Fielder `h` works on. -/
def Mbox.begun (m : Mbox) (h : Option Nat) : Mbox := { m with busy := true, done := false, holder := h }

theorem Chip.mboxBegun_frame (c : Chip) (n op : Nat) : ∃ fr h,
    c.mboxBegun n op = { c.updInst n (fun x => { x with mbox := x.mbox.begun h }) with free := fr } := by
  obtain ⟨fr, hd⟩ := c.dispatch_frame (64 + op)
  refine ⟨fr, (c.dispatch (64 + op)).1, ?_⟩
  rw [Chip.mboxBegun, hd]
  rfl

/-- What an instance shows of a request that has begun is in its mailbox. -/
theorem Chip.inst_mboxBegun (c : Chip) (n op m : Nat) : ∃ h, (c.mboxBegun n op).inst m
    = if m = n then { c.inst n with mbox := (c.inst n).mbox.begun h } else c.inst m := by
  obtain ⟨fr, h, hd⟩ := c.mboxBegun_frame n op
  exact ⟨h, by simp only [hd, Chip.inst]; exact Chip.inst_updInst c m n _⟩

theorem Chip.mboxBegun_slots (c : Chip) (n op : Nat) : (c.mboxBegun n op).slots = c.slots := by
  obtain ⟨fr, h, hd⟩ := c.mboxBegun_frame n op
  rw [hd]
  rfl

theorem Chip.mboxBegun_ports (c : Chip) (n op : Nat) : (c.mboxBegun n op).ports = c.ports := by
  obtain ⟨fr, h, hd⟩ := c.mboxBegun_frame n op
  rw [hd]
  rfl

theorem Chip.mboxBegun_shares (c : Chip) (n op : Nat) : (c.mboxBegun n op).shares = c.shares := by
  obtain ⟨fr, h, hd⟩ := c.mboxBegun_frame n op
  rw [hd]
  rfl

theorem Chip.mboxBegun_fab (c : Chip) (n op : Nat) : (c.mboxBegun n op).fab = c.fab := by
  obtain ⟨fr, h, hd⟩ := c.mboxBegun_frame n op
  rw [hd]
  rfl

theorem Chip.slot_mboxBegun (c : Chip) (n op k : Nat) : (c.mboxBegun n op).slot k = c.slot k := by
  simp only [Chip.slot, Chip.mboxBegun_slots]

theorem Chip.port_mboxBegun (c : Chip) (n op k : Nat) : (c.mboxBegun n op).port k = c.port k := by
  simp only [Chip.port, Chip.mboxBegun_ports]

theorem Chip.share_mboxBegun (c : Chip) (n op k : Nat) : (c.mboxBegun n op).share k = c.share k := by
  simp only [Chip.share, Chip.mboxBegun_shares]

theorem Chip.nodeNo_mboxBegun (c : Chip) (n op : Nat) : (c.mboxBegun n op).nodeNo = c.nodeNo := by
  simp only [Chip.nodeNo, Chip.mboxBegun_fab]

theorem Chip.mboxArg_mboxBegun (c : Chip) (n op k : Nat) : (c.mboxBegun n op).mboxArg n k = c.mboxArg n k := by
  obtain ⟨h, hx⟩ := c.inst_mboxBegun n op n
  rw [Chip.mboxArg, hx, if_pos rfl]
  rfl

theorem Chip.slotKey_mboxBegun (c : Chip) (n op k : Nat) : (c.mboxBegun n op).slotKey k = c.slotKey k := by
  simp only [Chip.slotKey, Chip.nodeNo_mboxBegun]

theorem Chip.memberAt_mboxBegun (c : Chip) (n op g k : Nat) : (c.mboxBegun n op).memberAt g k = c.memberAt g k := by
  have hinst : ∀ m, ((c.mboxBegun n op).inst m).st = (c.inst m).st ∧ ((c.mboxBegun n op).inst m).compat = (c.inst m).compat := fun m => by
    obtain ⟨h, hx⟩ := c.inst_mboxBegun n op m
    rw [hx]
    split
    · next hm => exact hm ▸ ⟨rfl, rfl⟩
    · exact ⟨rfl, rfl⟩
  simp only [Chip.memberAt, Chip.share_mboxBegun, (hinst _).1, (hinst _).2]

theorem Chip.owns_mboxBegun (c : Chip) (n op m sk : Nat) : (c.mboxBegun n op).owns m sk = c.owns m sk := by
  simp only [Chip.owns, Chip.members, Chip.slot_mboxBegun, Chip.memberAt_mboxBegun]

theorem Chip.ownedBus_mboxBegun (c : Chip) (n op m : Nat) (s : BitVec 16) : (c.mboxBegun n op).ownedBus m s = c.ownedBus m s := by
  simp only [Chip.ownedBus, Chip.localBus, Chip.ownsBus, Chip.ownerOf, Chip.port_mboxBegun, Chip.nodeNo_mboxBegun]
  rfl

theorem Chip.ownsView_mboxBegun (c : Chip) (n op s : Nat) : (c.mboxBegun n op).ownsView n s = c.ownsView n s := by
  obtain ⟨h, hx⟩ := c.inst_mboxBegun n op n
  simp only [Chip.ownsView, Chip.nodeNo_mboxBegun, hx, if_true]

theorem Chip.slotBus_mboxBegun (c : Chip) (n op sk : Nat) : (c.mboxBegun n op).slotBus sk = c.slotBus sk := by
  simp only [Chip.slotBus, Chip.slot_mboxBegun]

theorem Chip.parent_mboxBegun (c : Chip) (n op sk : Nat) :
    ((c.mboxBegun n op).parentSlot sk).map (c.mboxBegun n op).slotName = (c.parentSlot sk).map c.slotName := by
  have hname : (c.mboxBegun n op).slotName = c.slotName := funext fun k => by
    simp only [Chip.slotName, Chip.nodeNo_mboxBegun]
  rw [hname]
  simp only [Chip.parentSlot, Chip.busSlots, Chip.slotBus_mboxBegun, Chip.slot_mboxBegun, Chip.mboxBegun_slots]

/-! ### Beginning a request -/

theorem Chip.mboxStart_busy (act : Chip → Chip) (hon : (c.inst n).pageOn = true) (hbusy : (c.inst n).mbox.busy = true) :
    c.mboxStart n op act = c.updInst n (fun x => { x with mbox := { x.mbox with overrun := true } }) := by
  simp only [Chip.mboxStart, hon, hbusy, Bool.not_true, Bool.false_eq_true, if_false, if_true]
  rfl

theorem Chip.mboxStart_unserved (act : Chip → Chip) (hon : (c.inst n).pageOn = true) (hbusy : (c.inst n).mbox.busy = false)
    (hfw : c.boot.fwRunning = false) : c.mboxStart n op act
      = (c.updInst n (fun x => { x with mbox := { x.mbox with busy := true, done := false } })).mboxDone n ccParam none := by
  have hfw' : (c.updMbox n (fun m => { m with busy := true, done := false })).boot.fwRunning = false := hfw
  simp only [Chip.mboxStart, hon, hbusy, hfw', Bool.not_true, Bool.not_false, Bool.true_or, Bool.false_eq_true, if_false, if_true]
  rfl

/-- The instance's request is one that firmware takes. -/
structure Chip.MboxFree (c : Chip) (n : Nat) : Prop where
  on : (c.inst n).pageOn = true
  idle : (c.inst n).mbox.busy = false
  fw : c.boot.fwRunning = true
  roles : c.rel.suspended = 0
  native : (c.inst n).compat = false

theorem Chip.mboxStart_runs (h : c.MboxFree n) (act : Chip → Chip) : c.mboxStart n op act = act (c.mboxBegun n op) := by
  have hfw : (c.updMbox n (fun m => { m with busy := true, done := false })).boot.fwRunning = true := h.fw
  have hrole : (c.updMbox n (fun m => { m with busy := true, done := false })).roleDown (64 + op) = false := Chip.roleDown_none h.roles _
  simp only [Chip.mboxStart, h.on, h.idle, h.native, hfw, hrole, Bool.not_true, Bool.or_self, Bool.false_eq_true, if_false]
  refine congrArg act ?_
  simp only [Chip.updMbox, Chip.dispatch_updInst, Chip.updInst_updInst, Chip.mboxBegun]

theorem exec_mbox {s : State} {f : Chip → Chip} {d : Chip} (hon : ((s.chip.paged n).inst n).pageOn = true) (h : f (s.chip.paged n) = d) :
    (Host.Outcome.next (s.act (fun c => c.page n f)) : Host.Outcome State Fault Refusal) = .next (s.onward d) :=
  next_act ((if_pos hon).trans h)

theorem Chip.mboxDevDesc_busy (hon : (c.inst n).pageOn = true) (hbusy : (c.inst n).mbox.busy = true) :
    c.mboxDevDesc n = c.updInst n (fun x => { x with mbox := { x.mbox with overrun := true } }) := by
  rw [Chip.mboxDevDesc, Chip.mboxSlot, Chip.mboxStart_busy _ hon hbusy]

theorem Chip.mboxTopology_unserved (hon : (c.inst n).pageOn = true) (hbusy : (c.inst n).mbox.busy = false) (hfw : c.boot.fwRunning = false) :
    c.mboxTopology n = (c.updInst n (fun x => { x with mbox := { x.mbox with busy := true, done := false } })).mboxDone n ccParam none := by
  rw [Chip.mboxTopology, Chip.mboxSlot, Chip.mboxStart_unserved _ hon hbusy hfw]

theorem Chip.mboxRescan_unserved (hon : (c.inst n).pageOn = true) (hbusy : (c.inst n).mbox.busy = false) (hfw : c.boot.fwRunning = false) :
    c.mboxRescan n = (c.updInst n (fun x => { x with mbox := { x.mbox with busy := true, done := false } })).mboxDone n ccParam none := by
  rw [Chip.mboxRescan, Chip.mboxPort, Chip.mboxStart_unserved _ hon hbusy hfw]

/-! ### The requests -/

section

variable (h : c.MboxFree n) {sk : Nat}

include h

theorem Chip.mboxEnumFail_runs : c.mboxEnumFail n = ((c.mboxBegun n 5).updInst n (fun x => { x with enumFails := x.enumFails.drop 7 })).mboxOk
    n 0x05 (leBytes 4 ((c.inst n).enumFails.take 7).length ++ ((c.inst n).enumFails.take 7).flatMap EnumFail.bytes) := by
  obtain ⟨hh, hx⟩ := c.inst_mboxBegun n 5 n
  rw [Chip.mboxEnumFail, Chip.mboxStart_runs h]
  simp only [hx, if_true]

theorem Chip.mboxSlot_unowned {op : Byte} (act : Chip → Nat → Chip) (hown : c.owns n (c.slotKey (fld (c.mboxArg n 0) 11 0)) = false) :
    c.mboxSlot n op act = (c.mboxBegun n op.toNat).mboxBad n := by
  rw [Chip.mboxSlot, Chip.mboxStart_runs h]
  simp only [Chip.mboxArg_mboxBegun, Chip.slotKey_mboxBegun, Chip.owns_mboxBegun, hown, Bool.not_false, if_true]

theorem Chip.mboxSlot_owned {op : Byte} (act : Chip → Nat → Chip) (hsk : c.slotKey (fld (c.mboxArg n 0) 11 0) = sk)
    (hown : c.owns n sk = true) (hfar : farKey sk = false) : c.mboxSlot n op act = act (c.mboxBegun n op.toNat) sk := by
  rw [Chip.mboxSlot, Chip.mboxStart_runs h]
  simp only [Chip.mboxArg_mboxBegun, Chip.slotKey_mboxBegun, Chip.owns_mboxBegun, hsk, hown, hfar, Bool.not_true, Bool.false_eq_true,
    if_false]

section

variable (hsk : c.slotKey (fld (c.mboxArg n 0) 11 0) = sk) (hown : c.owns n sk = true) (hfar : farKey sk = false)

include hsk hown hfar

theorem Chip.mboxDevDesc_cached (hdesc : (c.slot sk).devDesc ≠ []) :
    c.mboxDevDesc n = (c.mboxBegun n 1).mboxOk n 0x01 (c.slot sk).devDesc := by
  refine (Chip.mboxSlot_owned h _ hsk hown hfar).trans ?_
  simp only [Chip.slot_mboxBegun, if_neg hdesc]
  rfl

theorem Chip.mboxCfgDesc_inside (hoff : fld (c.mboxArg n 1) 11 0 < min (leAt (c.slot sk).cfgDesc 2 2) 4096) :
    c.mboxCfgDesc n = (c.mboxBegun n 2).mboxOk n 0x02 (leBytes 2 (leAt (c.slot sk).cfgDesc 2 2) ++ [0, 0]
      ++ ((c.slot sk).cfgDesc.drop (fld (c.mboxArg n 1) 11 0)).take 56) := by
  refine (Chip.mboxSlot_owned h _ hsk hown hfar).trans ?_
  simp only [Chip.slot_mboxBegun, Chip.mboxArg_mboxBegun, if_neg (Nat.not_le.mpr hoff)]
  rfl

theorem Chip.mboxCfgDesc_beyond (hoff : min (leAt (c.slot sk).cfgDesc 2 2) 4096 ≤ fld (c.mboxArg n 1) 11 0) :
    c.mboxCfgDesc n = (c.mboxBegun n 2).mboxBad n := by
  refine (Chip.mboxSlot_owned h _ hsk hown hfar).trans ?_
  simp only [Chip.slot_mboxBegun, Chip.mboxArg_mboxBegun, if_pos hoff]
  rfl

theorem Chip.mboxTopology_runs : c.mboxTopology n = (c.mboxBegun n 3).mboxOk n 0x03 (leBytes 2 (c.slot sk).root.toNat
    ++ leBytes 3 (c.slot sk).route.toNat ++ leBytes 1 (c.slot sk).speed.toNat
    ++ leBytes 2 (if (c.slot sk).route = 0 then 0xFFFF else ((c.parentSlot sk).map c.slotName).getD 0xFFFF)
    ++ leBytes 1 (flagAt (c.slot sk).mtt 0 + 2 * (c.slot sk).ttThink.toNat) ++ leBytes 1 (c.slot sk).ttPort.toNat
    ++ leBytes 2 (c.slot sk).ttSlot.toNat
    ++ leBytes 1 (flagAt (c.slot sk).shared.isSome 0 + flagAt ((c.port (busPort (c.slotBus sk))).parked.any (fun x =>
      x.bus == c.slotBus sk && routeBehind (c.slot sk).route.toNat x.route.toNat)) 1)) := by
  refine (Chip.mboxSlot_owned h _ hsk hown hfar).trans ?_
  simp only [Chip.slot_mboxBegun, Chip.slotBus_mboxBegun, Chip.port_mboxBegun, Chip.parent_mboxBegun]
  rfl

theorem Chip.mboxShareInfo_unshared (hsh : (c.slot sk).shared = none) : c.mboxShareInfo n = (c.mboxBegun n 6).mboxBad n := by
  refine (Chip.mboxSlot_owned h _ hsk hown hfar).trans ?_
  simp only [Chip.slot_mboxBegun, hsh]
  rfl

theorem Chip.mboxShareInfo_shared {g : Nat} (hsh : (c.slot sk).shared = some g) : c.mboxShareInfo n = (c.mboxBegun n 6).mboxOk n 0x06
    ([BitVec.ofNat 8 g, BitVec.ofNat 8 (((c.memberIdx g).find? (fun i => c.memberAt g i == some n)).getD 0),
      if c.focusInst g = some n then 1 else 0, 0] ++ leBytes 2 (c.share g).switches.toNat) := by
  refine (Chip.mboxSlot_owned h _ hsk hown hfar).trans ?_
  simp only [Chip.slot_mboxBegun, hsh, Chip.memberIdx, Chip.focusInst, Chip.memberAt_mboxBegun, Chip.share_mboxBegun]
  rfl

end

theorem Chip.mboxPort_none {op : Byte} (act : Chip → Nat → Chip) (hb : c.ownedBus n (BitVec.ofNat 16 (fld (c.mboxArg n 0) 15 0)) = none) :
    c.mboxPort n op act = if c.ownsView n (fld (c.mboxArg n 0) 15 0)
      then (c.mboxBegun n op.toNat).mboxFar n (fld (c.mboxArg n 0) 15 0 / 256) op else (c.mboxBegun n op.toNat).mboxBad n := by
  rw [Chip.mboxPort, Chip.mboxStart_runs h]
  simp only [Chip.mboxArg_mboxBegun, Chip.ownedBus_mboxBegun, hb, Chip.ownsView_mboxBegun]

theorem Chip.mboxPort_some {op : Byte} {k : Nat} (act : Chip → Nat → Chip)
    (hb : c.ownedBus n (BitVec.ofNat 16 (fld (c.mboxArg n 0) 15 0)) = some k) :
    c.mboxPort n op act = act (c.mboxBegun n op.toNat) k := by
  rw [Chip.mboxPort, Chip.mboxStart_runs h]
  simp only [Chip.mboxArg_mboxBegun, Chip.ownedBus_mboxBegun, hb]

theorem Chip.mboxPort_unowned {op : Byte} (act : Chip → Nat → Chip)
    (hb : c.ownedBus n (BitVec.ofNat 16 (fld (c.mboxArg n 0) 15 0)) = none) (hv : c.ownsView n (fld (c.mboxArg n 0) 15 0) = false) :
    c.mboxPort n op act = (c.mboxBegun n op.toNat).mboxBad n := by
  rw [Chip.mboxPort_none h act hb, hv, if_neg Bool.false_ne_true]

theorem Chip.mboxPort_far {op : Byte} (act : Chip → Nat → Chip)
    (hb : c.ownedBus n (BitVec.ofNat 16 (fld (c.mboxArg n 0) 15 0)) = none) (hv : c.ownsView n (fld (c.mboxArg n 0) 15 0) = true) :
    c.mboxPort n op act = (c.mboxBegun n op.toNat).mboxFar n (fld (c.mboxArg n 0) 15 0 / 256) op := by
  rw [Chip.mboxPort_none h act hb, hv, if_pos rfl]

theorem Chip.mboxChargeInfo_runs {k : Nat} (hb : c.ownedBus n (BitVec.ofNat 16 (fld (c.mboxArg n 0) 15 0)) = some k) :
    c.mboxChargeInfo n = (c.mboxBegun n 7).mboxOk n 0x07 (leBytes 1 (c.port (busPort k)).charge
      ++ leBytes 1 (c.port (busPort k)).bc.toNat ++ leBytes 1 (flagAt (c.port (busPort k)).chargeOnly 0
        + flagAt (c.port (busPort k)).autoOn 1 + flagAt (c.port (busPort k)).sleepCharge 2)) := by
  refine (Chip.mboxPort_some h _ hb).trans ?_
  simp only [Chip.port_mboxBegun]
  rfl

end

theorem Chip.mboxDone_quiet {d : Chip} (hn : n < 128) (code : Byte) (rsp : Option (Tbl Word)) (hie : (d.inst n).mbox.ie = false) :
    d.mboxDone n code rsp = d.updInst n (fun x => { x with mbox := { x.mbox with
      code := code, busy := false, done := true, rsp := rsp.getD x.mbox.rsp } }) := by
  have hie' : ((d.updMbox n (fun m => { m with code := code, busy := false, done := true, rsp := rsp.getD m.rsp })).inst n).mbox.ie
      = false := (congrArg (fun x : Inst => x.mbox.ie) (Chip.inst_updInst_same d n _)).trans hie
  simp only [Chip.mboxDone, if_neg (Nat.not_le.mpr hn), hie', Bool.false_and, Bool.false_eq_true, if_false]
  rfl

/-- Settles O37: each request of a mailbox that firmware serves, and those that it does not. -/
theorem mailboxCompletes : Obligations.MailboxCompletes := by
  intro s i op n c x ends good bad
  refine ⟨fun d code rsp hie => Chip.mboxDone_quiet i.isLt code rsp hie, fun hon => ⟨fun hbusy => ?late, fun hidle =>
    ⟨fun hfw => ?unserved, fun hfw hrel hnative => ?served⟩⟩⟩
  case late => exact exec_mbox hon (Chip.mboxDevDesc_busy hon hbusy)
  case unserved =>
    intro idle
    exact ⟨exec_mbox hon (Chip.mboxTopology_unserved hon hidle hfw), exec_mbox hon (Chip.mboxRescan_unserved hon hidle hfw)⟩
  case served =>
    have h : c.MboxFree n := ⟨hon, hidle, hfw, hrel, hnative⟩
    intro sk t off sub b
    refine ⟨exec_mbox hon (Chip.mboxStart_runs h _), exec_mbox hon (Chip.mboxEnumFail_runs h),
      fun hown => ⟨exec_mbox hon (Chip.mboxSlot_unowned h _ hown), exec_mbox hon (Chip.mboxSlot_unowned h _ hown)⟩,
      fun hown hfar => ?slot,
      fun hb hv => ⟨exec_mbox hon (Chip.mboxPort_unowned h _ hb hv), exec_mbox hon (Chip.mboxPort_unowned h _ hb hv)⟩,
      fun hb hv => ⟨exec_mbox hon (Chip.mboxPort_far h _ hb hv), exec_mbox hon (Chip.mboxPort_far h _ hb hv)⟩,
      fun k hb => ?port⟩
    case slot =>
      exact ⟨fun hdesc => exec_mbox hon (Chip.mboxDevDesc_cached h rfl hown hfar hdesc),
        fun hoff => exec_mbox hon (Chip.mboxCfgDesc_inside h rfl hown hfar hoff),
        fun hoff => exec_mbox hon (Chip.mboxCfgDesc_beyond h rfl hown hfar hoff),
        exec_mbox hon (Chip.mboxTopology_runs h rfl hown hfar),
        fun hsh => exec_mbox hon (Chip.mboxShareInfo_unshared h rfl hown hfar hsh),
        fun g hsh => exec_mbox hon (Chip.mboxShareInfo_shared h rfl hown hfar hsh)⟩
    case port =>
      exact ⟨exec_mbox hon (Chip.mboxChargeInfo_runs h hb), exec_mbox hon (Chip.mboxPort_some h _ hb)⟩

end Sys2Proof.Machine
end

/-! Managed enumeration (R262 to R271). -/
section

namespace Sys2Proof.Machine

variable {c : Chip} {k sk : Nat}

/-! ### Jobs -/

theorem Chip.job_setJob (c : Chip) (k : Nat) (j : EnumJob) : (c.setJob k j).job k = j := Tbl.get_set_same _ _ _ _

theorem Chip.setJob_setJob (c : Chip) (k : Nat) (i j : EnumJob) : (c.setJob k i).setJob k j = c.setJob k j := by
  simp only [Chip.setJob, Tbl.set_set]

theorem Chip.setJob_updSlot_setJob (c : Chip) (k sk : Nat) (f : Slot → Slot) (i j : EnumJob) :
    ((c.setJob k i).updSlot sk f).setJob k j = (c.updSlot sk f).setJob k j := by
  simp only [Chip.setJob, Chip.updSlot, Tbl.set_set]

/-- A step's transfer is charged to a queue alone. -/
theorem Chip.svcCharge_frame (c : Chip) (b mps len : Nat) : ∃ q, c.svcCharge b mps len = { c with queues := q } := by
  have hone : ∀ (d : Chip) (q p : Nat), (∃ u, d = { c with queues := u }) → ∃ u, d.charge b q p = { c with queues := u } := by
    rintro d q p ⟨u, rfl⟩
    exact ⟨_, rfl⟩
  unfold Chip.svcCharge
  split
  · exact ⟨c.queues, rfl⟩
  · next q _ =>
    have hfold : ∀ (l : List Nat) (d : Chip) (g : Nat → Nat), (∃ u, d = { c with queues := u }) →
        ∃ u, l.foldl (fun d k => d.charge b q ((d.bus b).shaped (decide (b < 24)) (g k) 1)) d = { c with queues := u } := by
      intro l
      induction l with
      | nil => exact fun d g h => h
      | cons a t ih => exact fun d g h => ih _ g (hone d q _ h)
    exact hone _ q _ (hfold _ _ (fun k => min (max 8 mps) (len - max 8 mps * k)) (hone c q _ ⟨c.queues, rfl⟩))

theorem Chip.job_svcCharge (c : Chip) (b mps len j : Nat) : (c.svcCharge b mps len).job j = c.job j := by
  obtain ⟨q, h⟩ := c.svcCharge_frame b mps len
  simp only [Chip.job, h]

theorem Chip.takePlace_jobs (c : Chip) (sk : Nat) : ((c.takePlace sk).getD c).jobs = c.jobs := by
  unfold Chip.takePlace
  split
  · rfl
  · dsimp only
    split
    · rfl
    · cases leastFree _ _ _ with
      | none => rfl
      | some k => rfl

theorem Chip.job_makeEp0 (c : Chip) (sk mps j : Nat) : (c.makeEp0 sk mps).job j = c.job j := by
  simp only [Chip.job, Chip.makeEp0, Chip.updSlot_jobs, Chip.updEp_jobs, Chip.takePlace_jobs]

/-! ### The steps -/

theorem Chip.enumStep_sized {bs : List Byte} {m : Nat} (hst : (c.job k).step = 2) (hm : mps0Of (c.job k).speed bs = some m) :
    c.enumStep k (.ok bs) = ((c.svcCharge (jobBus k) (c.job k).mps0.toNat bs.length).setJob k { c.job k with
      mps0 := BitVec.ofNat 11 m }).beginStep k 3 := by
  have h0 : ¬ (c.job k).step = 0 := by omega
  simp only [Chip.enumStep, if_pos hst, if_neg h0, hm]

theorem Chip.enumStep_idle {bs : List Byte} (hst : (c.job k).step = 0) : c.enumStep k (.ok bs) = c := by
  simp [Chip.enumStep, hst]

/-- A device that is not low or full speed behind a hub takes the lowest free slot and address. -/
theorem Chip.beginAddress_high {a : Nat} (hslot : (c.job k).slot = none) (hsp : (c.job k).speed = 3) (hsk : c.newSlot = some sk)
    (ha : c.freeAddr (jobBus k) = some a) : c.beginAddress k = ((c.updSlot sk (fun _ => {
      st := .enabled, owner := c.portOwner (jobBus k), far := (c.port (busPort (jobBus k))).farOwner, root := c.subject (jobBus k)
      route := BitVec.ofNat 20 (jobRoute k), speed := 3, managed := true, busy := true })).setJob k { c.job k with
        slot := some sk, addr := BitVec.ofNat 7 a }).svcReq k 2 a := by
  have hlow : ¬ ((3 : BitVec 4) = 1 ∨ (3 : BitVec 4) = 2) := by decide
  simp only [Chip.beginAddress, hslot, hsk, ha, hsp, if_neg hlow]

theorem Chip.beginStep_address {a : Nat} (hslot : (c.job k).slot = none) (hsp : (c.job k).speed = 3) (hroom : c.noAddress k = none)
    (hsk : c.newSlot = some sk) (ha : (c.setJob k { c.job k with step := 3 }).freeAddr (jobBus k) = some a) :
    c.beginStep k 3 = ((c.updSlot sk (fun _ => {
      st := .enabled, owner := c.portOwner (jobBus k), far := (c.port (busPort (jobBus k))).farOwner, root := c.subject (jobBus k)
      route := BitVec.ofNat 20 (jobRoute k), speed := 3, managed := true, busy := true })).setJob k { c.job k with
        step := 3, slot := some sk, addr := BitVec.ofNat 7 a }).svcReq k 2 a := by
  have hjob : (c.setJob k { c.job k with step := 3 }).job k = { c.job k with step := 3 } := c.job_setJob k _
  have hbegin : c.beginStep k 3 = (c.setJob k { c.job k with step := 3 }).beginAddress k := by
    simp only [Chip.beginStep, if_true, hroom, Chip.sendStep]
  rw [hbegin, Chip.beginAddress_high (by rw [hjob]; exact hslot) (by rw [hjob]; exact hsp) (by exact hsk) ha, hjob]
  exact congrArg (Chip.svcReq · k 2 a) (Chip.setJob_updSlot_setJob c k sk _ _ _)

theorem Chip.enumStep_addressed {bs : List Byte} (hst : (c.job k).step = 3) (hsk : (c.job k).slot = some sk) (hredo : (c.job k).redo = false) :
    c.enumStep k (.ok bs) = ((((c.svcCharge (jobBus k) (c.job k).mps0.toNat bs.length).updSlot sk (fun s => { s with
      st := .addressed, addr := (c.job k).addr, prev := (c.job k).addr })).makeEp0 sk (c.job k).mps0.toNat).setJob k { c.job k with
        step := 4 }).svcReq k 3 0 := by
  have h0 : ¬ (c.job k).step = 0 := by omega
  have h2 : ¬ (c.job k).step = 2 := by omega
  have hjob : ∀ f : Slot → Slot, ((c.svcCharge (jobBus k) (c.job k).mps0.toNat bs.length).updSlot sk f).job k = c.job k := fun f =>
    c.job_svcCharge _ _ _ k
  simp only [Chip.enumStep, if_neg h0, if_neg h2, if_pos hst, hsk, Option.getD_some, Chip.addressed, Chip.job_svcCharge, hredo,
    Bool.false_eq_true, if_false, Chip.beginStep, Chip.sendStep, Chip.job_makeEp0, hjob, Nat.reduceEqDiff, if_true]

theorem Chip.failStep_third {r : Nat} (h : 3 ≤ (c.job k).failed.fails) :
    c.failStep k r = (c.setJob k (c.job k).failed).parkJob k r 3 := if_pos h

theorem Chip.failStep_root {r : Nat} (h : (c.job k).failed.fails < 3) (hst : (c.job k).failed.step ≠ 4) (hroute : jobRoute k = 0) :
    c.failStep k r = (c.setJob k { (c.job k).failed with step := 1, again := (c.job k).failed.step }).beginReset (jobBus k) false := by
  refine (if_neg (Nat.not_le.mpr h)).trans ?_
  simp only [hroute, if_true, if_neg hst, Chip.setJob_setJob]

theorem Chip.enumStep_parks (hst : (c.job k).step = 2) (hf : (c.job k).fail2 = 2) :
    c.enumStep k .noAnswer = (c.setJob k { c.job k with fail2 := 3 }).parkJob k 1 3 := by
  have hfailed : (c.job k).failed = { c.job k with fail2 := 3 } := by rw [EnumJob.failed, if_pos hst, hf]
  have hfails : ({ c.job k with fail2 := 3 } : EnumJob).fails = 3 := if_pos hst
  rw [← hfailed]
  exact (if_pos hst).trans (Chip.failStep_third (by rw [hfailed, hfails]))

theorem Chip.enumStep_resets (hst : (c.job k).step = 2) (hf : (c.job k).fail2 < 2) (hroute : jobRoute k = 0) :
    c.enumStep k .noAnswer = (c.setJob k { c.job k with
      fail2 := (c.job k).fail2 + 1, step := 1, again := 2 }).beginReset (jobBus k) false := by
  have hfailed : (c.job k).failed = { c.job k with fail2 := (c.job k).fail2 + 1 } := by rw [EnumJob.failed, if_pos hst]
  have hfails : (c.job k).failed.fails < 3 := by
    rw [hfailed, EnumJob.fails, if_pos hst]
    exact Nat.add_lt_add_right hf 1
  have hstep : (c.job k).failed.step = 2 := by rw [hfailed]; exact hst
  refine (if_pos hst).trans ((Chip.failStep_root hfails (by rw [hstep]; decide) hroute).trans ?_)
  rw [hstep, hfailed]

/-! ### Ports of a service hub -/

theorem Chip.hubPort_noHub {p : Nat} {e : HubPortEvent} (h : (c.slot sk).hub = false) : c.hubPort sk p e = c := by
  simp only [Chip.hubPort, h, Bool.not_false, Bool.true_or, if_true]

section

variable {p : Nat} (hhub : (c.slot sk).hub = true) (hst : (c.slot sk).st ≠ .disabled) (hleave : (c.slot sk).leaving = false)
  (h1 : 1 ≤ p) (h15 : p ≤ 15) (hlen : routeLen (c.slot sk).route.toNat < 5)

include hhub hst hleave h1 h15 hlen

/-- The port is one of a service hub's that is there. -/
theorem Chip.hubPort_serves : (!(c.slot sk).hub || (c.slot sk).st == .disabled || (c.slot sk).leaving || p = 0 || decide (15 < p)
    || decide (5 ≤ routeLen (c.slot sk).route.toNat)) = false := by
  have h0 : ¬ p = 0 := by omega
  have h15' : ¬ 15 < p := by omega
  have hlen' : ¬ 5 ≤ routeLen (c.slot sk).route.toNat := by omega
  simp only [hhub, hleave, h0, h15', hlen', beq_eq_false_iff_ne.mpr hst, Bool.not_true, Bool.or_self, decide_false]

theorem Chip.hubPort_disconnect : c.hubPort sk p .disconnect = c.loseBehind (c.slotBus sk) (fun r =>
    r == routeUnder (c.slot sk).route.toNat p || routeBehind (routeUnder (c.slot sk).route.toNat p) r) 0 :=
  if_neg (ne_true_of_eq_false (Chip.hubPort_serves hhub hst hleave h1 h15 hlen))

theorem Chip.hubPort_overcurrent : c.hubPort sk p .overcurrent = ((c.loseBehind (c.slotBus sk) (fun r =>
    r == routeUnder (c.slot sk).route.toNat p || routeBehind (routeUnder (c.slot sk).route.toNat p) r) 3).svcReq sk 9 p).updSlot sk
      (fun s => { s with offPorts := (p, false) :: s.offPorts.filter (fun x => x.1 != p) }) :=
  if_neg (ne_true_of_eq_false (Chip.hubPort_serves hhub hst hleave h1 h15 hlen))

theorem Chip.hubPort_connect {speed : BitVec 4} (hon : (c.slot sk).offPorts.contains (p, true) = false)
    (hoff : (c.slot sk).offPorts.contains (p, false) = false) (henum : c.enumOn (c.slotBus sk) = true)
    (hjob : (c.job (jobKey (c.slotBus sk) (routeUnder (c.slot sk).route.toNat p))).step = 0)
    (hall : ((c.busSlots (c.slotBus sk)).all (fun k => (c.slot k).route.toNat != routeUnder (c.slot sk).route.toNat p)) = true) :
    c.hubPort sk p (.connect speed) = c.startEnum (c.slotBus sk) (routeUnder (c.slot sk).route.toNat p) speed := by
  refine (if_neg (ne_true_of_eq_false (Chip.hubPort_serves hhub hst hleave h1 h15 hlen))).trans ?_
  simp only [hon, hoff, henum, hjob, hall, Bool.false_eq_true, if_false, BEq.rfl, Bool.and_self, if_true]

end

/-- Settles O38: each step by its row of R265 and R267. -/
theorem enumerationSteps : Obligations.EnumerationSteps := by
  intro s k sk a m bs slot port speed c j d
  refine ⟨fun hst hm => next_act (Chip.enumStep_sized hst hm),
    fun e hslot hsp hroom hsk ha => Chip.beginStep_address hslot hsp hroom hsk ha,
    fun hst hsk hredo => next_act (Chip.enumStep_addressed hst hsk hredo), fun hst hf => next_act (Chip.enumStep_parks hst hf),
    fun hst hf hroute => next_act (Chip.enumStep_resets hst hf hroute), fun hst => next_act (Chip.enumStep_idle hst), ?hub⟩
  case hub =>
    intro h b p route behind
    exact ⟨fun hno => next_act (Chip.hubPort_noHub hno), fun hhub hst hleave h1 h15 hlen =>
      ⟨next_act (Chip.hubPort_disconnect hhub hst hleave h1 h15 hlen), next_act (Chip.hubPort_overcurrent hhub hst hleave h1 h15 hlen),
        fun hon hoff henum hjob hall => next_act (Chip.hubPort_connect hhub hst hleave h1 h15 hlen hon hoff henum hjob hall)⟩⟩

end Sys2Proof.Machine
end

/-! Input sharing (R261, R272 to R277, R283). -/
section

namespace Sys2Proof.Machine

variable {c : Chip} {g n sk : Nat} {val : Word}

/-! ### Groups -/

theorem Chip.memberAt_updShare (c : Chip) (g k i : Nat) (f : Share → Share) (h0 : ∀ s, (f s).mem0 = s.mem0) (h1 : ∀ s, (f s).mem1 = s.mem1) :
    (c.updShare g f).memberAt k i = c.memberAt k i := by
  have hshare : ((c.updShare g f).share k).mem0 = (c.share k).mem0 ∧ ((c.updShare g f).share k).mem1 = (c.share k).mem1 := by
    rw [Chip.share_updShare]
    split
    · next h => exact h ▸ ⟨h0 _, h1 _⟩
    · exact ⟨rfl, rfl⟩
  simp only [Chip.memberAt, hshare.1, hshare.2, Chip.inst_updShare]

theorem Chip.memberAt_congr {d : Chip} (hshare : d.share g = c.share g) (hinsts : d.insts = c.insts) (i : Nat) :
    d.memberAt g i = c.memberAt g i := by
  have hinst : ∀ m, (d.inst m).st = (c.inst m).st ∧ (d.inst m).compat = (c.inst m).compat := fun m => by
    rw [Chip.inst, hinsts, Chip.inst]
    exact ⟨rfl, rfl⟩
  simp only [Chip.memberAt, hshare, (hinst _).1, (hinst _).2]

theorem Chip.groupSlots_updShare (c : Chip) (g k : Nat) (f : Share → Share) : (c.updShare g f).groupSlots k = c.groupSlots k := by
  simp only [Chip.groupSlots, Chip.updShare_slots]

theorem Chip.groupEps_nil (h : c.groupSlots g = []) : c.groupEps g = [] := by
  rw [Chip.groupEps, h, List.flatMap_nil]

theorem Chip.dissolve_nil (h : c.groupSlots g = []) : c.dissolve g = c := by
  rw [Chip.dissolve, h, List.foldl_nil]

/-- The member in focus lets the group's endpoints go. -/
def Chip.focusReleased (c : Chip) (g : Nat) : Chip :=
  match c.focusInst g with
  | some old => (c.groupEps g).foldl (fun (c : Chip) k => c.release old k) c
  | none => c

theorem Chip.focusReleased_nil (h : c.groupSlots g = []) : c.focusReleased g = c := by
  rw [Chip.focusReleased, Chip.groupEps_nil h]
  split
  · rfl
  · rfl

/-- Without devices in the group only its registers show the switch. -/
theorem Chip.switchFocus_nil (h : c.groupSlots g = []) (m : Nat) (hot : Bool) :
    c.switchFocus g m hot = c.updShare g (fun s => { s with focus := m, switches := s.switches + 1, withhold := hot }) := by
  have hslots : (c.updShare g (fun s => { s with focus := m, switches := s.switches + 1, withhold := hot })).groupSlots g = [] := h
  show (let d := (c.focusReleased g).updShare g (fun s => { s with focus := m, switches := s.switches + 1, withhold := hot })
    match d.memberAt g m with
    | some n => (d.groupSlots g).foldl (fun (c : Chip) sk => c.replay g n sk) d
    | none => d) = _
  rw [Chip.focusReleased_nil h]
  dsimp only
  split
  · rw [hslots, List.foldl_nil]
  · rfl

/-! ### The manager's registers -/

theorem Chip.shareCtl_bare (hfw : c.boot.fwRunning = false) :
    c.shareCtl g val = c.updShare g (fun s => { s with ctl := BitVec.ofNat 24 (val.toNat &&& 0xFFFF1F) }) := by
  have hfw' : (c.updShare g (fun s => { s with ctl := BitVec.ofNat 24 (val.toNat &&& 0xFFFF1F) })).boot.fwRunning = false := hfw
  simp only [Chip.shareCtl, hfw', Bool.not_false, if_true]

theorem Chip.shareCtl_focus (hfw : c.boot.fwRunning = true) (hen : bitAt val 0 = bitAt (c.share g).ctl 0) : c.shareCtl g val
    = (c.updShare g (fun s => { s with ctl := BitVec.ofNat 24 (val.toNat &&& 0xFFFF1F) })).focusWrite g (fld val 3 1) := by
  have hfw' : (c.updShare g (fun s => { s with ctl := BitVec.ofNat 24 (val.toNat &&& 0xFFFF1F) })).boot.fwRunning = true := hfw
  simp only [Chip.shareCtl, hfw', ← hen, Bool.and_not_self, Bool.not_true, Bool.false_eq_true, if_false]

theorem Chip.focusWrite_same {m : Nat} (hpause : c.sharePause = false) (hf : (c.share g).focus = m) : c.focusWrite g m = c :=
  (if_neg (ne_true_of_eq_false hpause)).trans (if_pos (Or.inl hf))

theorem Chip.focusWrite_switches {m : Nat} (hpause : c.sharePause = false) (hf : (c.share g).focus ≠ m)
    (hm : (c.memberAt g m).isSome = true) : c.focusWrite g m = c.switchFocus g m false := by
  refine (if_neg (ne_true_of_eq_false hpause)).trans (if_neg (not_or.mpr ⟨hf, ?_⟩))
  rw [Option.isNone_iff_eq_none]
  exact fun h => absurd hm (by rw [h]; decide)

section

variable (hfw : c.boot.fwRunning = true) (hpause : c.sharePause = false) (hen : bitAt val 0 = bitAt (c.share g).ctl 0)

include hfw hpause hen

theorem Chip.shareCtl_same (hf : (c.share g).focus = fld val 3 1) :
    c.shareCtl g val = c.updShare g (fun s => { s with ctl := BitVec.ofNat 24 (val.toNat &&& 0xFFFF1F) }) := by
  rw [Chip.shareCtl_focus hfw hen]
  exact Chip.focusWrite_same hpause (by rw [Chip.share_updShare_same]; exact hf)

theorem Chip.shareCtl_switches (hf : (c.share g).focus ≠ fld val 3 1) (hm : (c.memberAt g (fld val 3 1)).isSome = true) :
    c.shareCtl g val = (c.updShare g (fun s => { s with ctl := BitVec.ofNat 24 (val.toNat &&& 0xFFFF1F) })).switchFocus g (fld val 3 1) false := by
  rw [Chip.shareCtl_focus hfw hen]
  refine Chip.focusWrite_switches hpause (by rw [Chip.share_updShare_same]; exact hf) ?_
  rw [Chip.memberAt_updShare c g g _ (fun s => { s with ctl := BitVec.ofNat 24 (val.toNat &&& 0xFFFF1F) }) (fun _ => rfl) (fun _ => rfl)]
  exact hm

theorem Chip.shareCtl_switches_nil (hf : (c.share g).focus ≠ fld val 3 1) (hm : (c.memberAt g (fld val 3 1)).isSome = true)
    (hnil : c.groupSlots g = []) : c.shareCtl g val
      = (c.updShare g (fun s => { s with ctl := BitVec.ofNat 24 (val.toNat &&& 0xFFFF1F) })).updShare g (fun s => { s with
        focus := fld val 3 1, switches := s.switches + 1, withhold := false }) := by
  rw [Chip.shareCtl_switches hfw hpause hen hf hm]
  exact Chip.switchFocus_nil ((c.groupSlots_updShare g g _).trans hnil) _ _

end

/-- The members of a group with one of its words written. -/
def Share.withMem (hi : Bool) (val : Word) (s : Share) : Share := if hi then { s with mem1 := val } else { s with mem0 := val }

theorem Chip.shareMem_bare (hi : Bool) (hfw : c.boot.fwRunning = false) : c.shareMem g hi val = c.updShare g (Share.withMem hi val) :=
  if_pos (by rw [hfw]; rfl)

/-- Without devices and without a member in focus nothing changes hands; the word that is put back for the time in between is
written again. -/
theorem Chip.shareMem_nil (hi : Bool) (hnil : c.groupSlots g = []) (hfocus : c.focusInst g = none) :
    c.shareMem g hi val = c.updShare g (Share.withMem hi val) := by
  unfold Chip.shareMem
  extract_lets old had d new gone d1 d2
  have hd : d = c.updShare g (Share.withMem hi val) := rfl
  have hslots : ∀ f : Share → Share, ((c.updShare g (Share.withMem hi val)).updShare g f).groupSlots g = [] := fun f =>
    (Chip.groupSlots_updShare _ _ _ _).trans ((c.groupSlots_updShare g g _).trans hnil)
  split
  · exact hd
  · split
    · rw [hd, Chip.dissolve_nil (hslots _), Chip.updShare_updShare, Chip.updShare_updShare]
      refine Chip.updShare_congr c g _ _ ?_
      cases hi
      · rfl
      · rfl
    · have hd1 : d1 = d := by
        simp only [d1, show d.groupSlots g = [] from (c.groupSlots_updShare g g _).trans hnil, List.foldl_nil]
      have hd2 : d2 = d := by
        simp only [d2, hd1, show d.groupSlots g = [] from (c.groupSlots_updShare g g _).trans hnil, List.foldl_nil]
      rw [show had = none from hfocus]
      exact hd2.trans hd

/-! ### Reports and requests -/

theorem Chip.hidReport_foreign {key : Nat} {r : List Byte} (h : c.sharedBy (keySlot key) = false) : c.hidReport key r = c :=
  if_pos (by rw [h]; rfl)

section

variable {key : Nat} {r : List Byte} (hsh : c.sharedBy (keySlot key) = true) (hin : keyIn key = true) (hsvc : (c.ep key).service = true)

include hsh hin hsvc

theorem Chip.hidReport_serves : ¬ (!(c.sharedBy (keySlot key) && keyIn key && (c.ep key).service)) = true := by
  rw [hsh, hin, hsvc]
  exact Bool.false_ne_true

theorem Chip.hidReport_waits (hpause : c.sharePause = true) :
    c.hidReport key r = { c with shareWait := c.shareWait ++ [.report key r] } :=
  (if_neg (Chip.hidReport_serves hsh hin hsvc)).trans (if_pos hpause)

theorem Chip.hidReport_runs (hpause : c.sharePause = false) :
    c.hidReport key r = (c.examine key r).kick (c.slotBus (keySlot key)) :=
  (if_neg (Chip.hidReport_serves hsh hin hsvc)).trans (if_neg (ne_true_of_eq_false hpause))

end

/-- A report of a device that is no keyboard goes to the member in focus. -/
theorem Chip.examine_focus {key k m : Nat} {r : List Byte} (hk : (c.slot (keySlot key)).shared = some k) (hkb : (c.ep key).keyboard = false)
    (hw : (c.share k).withhold = false) (hfocus : c.focusInst k = some m) :
    c.examine key r = (((c.updEp key (fun e => { e with unread := e.unread - 1 })).freeCells key).updShare k (fun s => { s with
      withhold := false })).deliver key m r := by
  have hslot : ((c.updEp key (fun e => { e with unread := e.unread - 1 })).freeCells key).slot (keySlot key) = c.slot (keySlot key) := by
    simp only [Chip.slot, Chip.freeCells, Chip.updEp_slots, Chip.updBus_slots]
  have hshare : ∀ j, ((c.updEp key (fun e => { e with unread := e.unread - 1 })).freeCells key).share j = c.share j := fun j => by
    simp only [Chip.freeCells, Chip.share_updEp, Chip.share_updBus]
  have hkb' : (((c.updEp key (fun e => { e with unread := e.unread - 1 })).freeCells key).ep key).keyboard = false := by
    rw [Chip.freeCells_ep]
    exact (congrArg Ep.keyboard (Chip.ep_updEp_same c key _)).trans hkb
  have hat : ∀ j, ((c.updEp key (fun e => { e with unread := e.unread - 1 })).freeCells key).memberAt k j = c.memberAt k j := fun j => by
    exact Chip.memberAt_congr (hshare k) (by simp only [Chip.freeCells, Chip.updEp_insts, Chip.updBus_insts]) j
  unfold Chip.examine
  generalize (c.updEp key (fun e => { e with unread := e.unread - 1 })).freeCells key = d at *
  have hhot : d.hotKey k key r = none := by
    simp only [Chip.hotKey, hkb', Bool.and_false, Bool.false_and, Bool.false_eq_true, if_false]
  have hfocus' : (d.updShare k (fun s => { s with withhold := false })).focusInst k = some m := by
    rw [Chip.focusInst, Chip.share_updShare_same,
      Chip.memberAt_updShare d k k _ (fun s => { s with withhold := false }) (fun _ => rfl) (fun _ => rfl), hat, hshare]
    exact hfocus
  have hw' : (d.share k).withhold = false := by rw [hshare]; exact hw
  simp only [hslot, hk, hhot, hkb', hw', Bool.false_eq_true, if_false, Bool.false_and, hfocus']

theorem Chip.shareReq_unshared {q : ShareReq} {dev : DevEnd} (h : (c.slot sk).shared = none) : c.shareReq n sk q dev = c := by
  simp only [Chip.shareReq, h]

theorem Chip.shareReq_setIdle {k : Nat} {v : Byte} {dev : DevEnd} (hk : (c.slot sk).shared = some k) (hown : c.owns n sk = true)
    (hfocus : c.focusInst k ≠ some n)
    (hwake : (c.updMember k n sk (fun m => { m with idle := some v })).groupWake k sk = c.groupWake k sk) :
    c.shareReq n sk (.setIdle v) dev
      = (c.updMember k n sk (fun m => { m with idle := some v })).answerReq k n sk (.setIdle v) false dev := by
  have hf : (c.focusInst k == some n) = false := beq_eq_false_iff_ne.mpr hfocus
  simp only [Chip.shareReq, hk, hown, hf, Member.store, hwake, reqForwarded, bne_self_eq_false, Bool.not_true, Bool.false_eq_true,
    if_false]

theorem Chip.slotBus_updMember (k : Nat) (f : Member → Member) : (c.updMember k n sk f).slotBus sk = c.slotBus sk := rfl

theorem Chip.shareReq_getReport {k : Nat} {dev : DevEnd} (hk : (c.slot sk).shared = some k) (hown : c.owns n sk = true)
    (hfocus : c.focusInst k = some n) (hwake : (c.updMember k n sk id).groupWake k sk = c.groupWake k sk) :
    c.shareReq n sk .getReport dev = (((c.updMember k n sk id).svcReq sk 14 0).svcCharge (c.slotBus sk) (c.slot sk).mps0.toNat
      (devLen dev)).answerReq k n sk .getReport true dev := by
  have hf : (c.focusInst k == some n) = true := beq_iff_eq.mpr hfocus
  have hwake' : (c.updMember k n sk (fun m => m)).groupWake k sk = c.groupWake k sk := hwake
  simp only [Chip.shareReq, hk, hown, hf, Member.store, hwake', reqForwarded, bne_self_eq_false, Bool.not_true, Bool.false_eq_true,
    if_false, if_true, Chip.slotBus_updMember]
  rfl

theorem exec_shareCtlWrite {s : State} {w : Writer} {g : Fin 8} {val : Word} {d : Chip} (hm : s.chip.isMgr w = true)
    (h : s.chip.spinBreak.shareCtl g.val val = d) : exec (.shareCtlWrite w g val) s = .next (s.onward d) :=
  next_act ((Chip.setup_byMgr hm _).trans h)

theorem exec_shareMemWrite {s : State} {w : Writer} {g : Fin 8} {hi : Bool} {val : Word} {d : Chip} (hm : s.chip.isMgr w = true)
    (h : s.chip.spinBreak.shareMem g.val hi val = d) : exec (.shareMemWrite w g hi val) s = .next (s.onward d) :=
  next_act ((Chip.setup_byMgr hm _).trans h)

/-- Settles O39: each write, report and request by its rule. -/
theorem sharingActs : Obligations.SharingActs := by
  intro s w g hi val slot i r n v dev c d key e f
  have hkey : keySlot key = slot.val := keySlot_fin slot i
  refine ⟨fun hm hfw => ⟨exec_shareCtlWrite hm (Chip.shareCtl_bare hfw), exec_shareMemWrite hm (Chip.shareMem_bare hi hfw)⟩,
    fun hm hfw hpause hen => ⟨fun hf => exec_shareCtlWrite hm (Chip.shareCtl_same hfw hpause hen hf), fun hf hat =>
      ⟨exec_shareCtlWrite hm (Chip.shareCtl_switches hfw hpause hen hf hat), fun hnil =>
        exec_shareCtlWrite hm (Chip.shareCtl_switches_nil hfw hpause hen hf hat hnil)⟩⟩,
    fun hm hnil hfocus => exec_shareMemWrite hm (Chip.shareMem_nil hi hnil hfocus),
    fun hsh => next_act (Chip.hidReport_foreign (by rw [hkey]; exact hsh)), fun hsh hin hsvc => ?report,
    fun hsh => next_act (Chip.shareReq_unshared hsh), fun k hk hown hfocus => ?own, fun k hk hown hfocus => ?sent⟩
  case report =>
    rw [← hkey] at hsh ⊢
    refine ⟨fun hpause => next_act (Chip.hidReport_waits hsh hin hsvc hpause), fun k m hpause hk hkb hw hfocus => next_act ?_⟩
    rw [Chip.hidReport_runs hsh hin hsvc hpause, Chip.examine_focus hk hkb hw hfocus]
  case own =>
    intro e hwake
    exact next_act (Chip.shareReq_setIdle hk hown hfocus hwake)
  case sent =>
    intro e hwake
    exact next_act (Chip.shareReq_getReport hk hown hfocus hwake)

end Sys2Proof.Machine
end

/-! The SMBus target (R41, R243, R244), the escapes (R245, R382, R426) and the fault log (R409, R413). -/
section

namespace Sys2Proof.Machine

variable {s : State} {c : Chip}

/-! ### Codes that the core answers -/

theorem State.smbCore_on (hc : s.chip.clocked = true) (hr : s.chip.boot.ready = true) (act : State → State) : s.smbCore act = act s :=
  if_pos (by rw [hc, hr]; rfl)

theorem State.smbCore_off (h : s.chip.clocked = false ∨ s.chip.boot.ready = false) (act : State → State) :
    s.smbCore act = { s with chip := s.chip.emit .smbNack } := by
  refine if_neg ?_
  rw [Bool.and_eq_true]
  rintro ⟨hc, hr⟩
  rcases h with h | h
  · exact Bool.noConfusion (hc.symm.trans h)
  · exact Bool.noConfusion (hr.symm.trans h)

theorem State.smbAddr_off (h : s.chip.clocked = false ∨ s.chip.boot.ready = false) (off : BitVec 16) :
    s.smbAddr off = { s with chip := s.chip.emit .smbNack } := State.smbCore_off h _

theorem State.smbWrite_off (h : s.chip.clocked = false ∨ s.chip.boot.ready = false) (off : BitVec 16) (val : Word) :
    s.smbWrite off val = { s with chip := s.chip.emit .smbNack } := State.smbCore_off h _

section

variable (hc : s.chip.clocked = true) (hr : s.chip.boot.ready = true) {off : BitVec 16} {val : Word}

include hc hr

theorem State.smbWrite_ignored (h : s.chip.straps.mgrSel ≠ 1 ∨ off.toNat % 4 ≠ 0) : s.smbWrite off val = s :=
  (State.smbCore_on hc hr _).trans (if_pos h)

theorem State.smbWrite_setup (hsel : s.chip.straps.mgrSel = 1) (hoff : off.toNat % 4 = 0) :
    s.smbWrite off val = s.setupWrite .smbus off.toNat val :=
  (State.smbCore_on hc hr _).trans (if_neg (not_or.mpr ⟨not_not.mpr hsel, not_not.mpr hoff⟩))

theorem State.smbAddr_aligned (hoff : off.toNat % 4 = 0) :
    s.smbAddr off = { s with chip := { s.chip with smb := { s.chip.smb with readOff := off } } } :=
  (State.smbCore_on hc hr _).trans (if_neg (not_not.mpr hoff))

theorem State.smbAddr_misaligned (hoff : off.toNat % 4 ≠ 0) : s.smbAddr off = { s with chip := s.chip.emit .smbNack } :=
  (State.smbCore_on hc hr _).trans (if_pos hoff)

theorem State.smbEvt_none (h : s.chip.smb.events = []) : s.smbEvt = { s with chip := s.chip.emit (.smb (List.replicate 16 0)) } := by
  refine (State.smbCore_on hc hr _).trans ?_
  simp only [h]

theorem State.smbEvt_oldest {mf : BitVec 16} {r : Rec} {rest : List (BitVec 16 × Rec)} (h : s.chip.smb.events = (mf, r) :: rest) :
    s.smbEvt = { s with chip := ({ s.chip with smb := { s.chip.smb with events := rest } } : Chip).emit (.smb (smbEvent mf r)) } := by
  refine (State.smbCore_on hc hr _).trans ?_
  simp only [h]
  rfl

end

/-- The chip as a write of a setup register other than SPIN_KEY finds it. -/
def Chip.unkeyed (c : Chip) (off : Nat) : Chip := if off = 0x5000 then c else c.spinBreak

theorem State.setupWrite_smbus (hsel : s.chip.straps.mgrSel = 1) (off : Nat) (v : Word) :
    s.setupWrite .smbus off v = (if 0xC000 ≤ off then { s with chip := (s.chip.unkeyed off).pageSet 0 (off - 0xC000) v false }
      else if 0x8000 ≤ off then ({ s with chip := s.chip.unkeyed off } : State).windowSet (off - 0x8000) v
      else ({ s with chip := s.chip.unkeyed off } : State).put ((s.chip.unkeyed off).setupSet s.stage .smbus off v)) := by
  have hm : (s.chip.unkeyed off).isMgr .smbus = true := by
    unfold Chip.unkeyed
    split <;> exact decide_eq_true hsel
  show (if 0xC000 ≤ off then { s with chip := (s.chip.unkeyed off).pageSet 0 (off - 0xC000) v false }
    else if (!(s.chip.unkeyed off).isMgr .smbus) = true then { s with chip := s.chip.unkeyed off }
    else if 0x8000 ≤ off then ({ s with chip := s.chip.unkeyed off } : State).windowSet (off - 0x8000) v
    else ({ s with chip := s.chip.unkeyed off } : State).put ((s.chip.unkeyed off).setupSet s.stage .smbus off v)) = _
  simp only [hm, Bool.not_true, Bool.false_eq_true, if_false]

theorem next_settled {t u : State} (h : t = u) :
    (Host.Outcome.next t.settled : Host.Outcome State Fault Refusal) = .next u.settled := by rw [h]

/-- Settles O40: what the core answers, and what it does not acknowledge. -/
theorem smbusAnswers : Obligations.SmbusAnswers := by
  intro s off val mf r rest op target flags c nack d z
  refine ⟨fun hc hr => ⟨fun hsel hoff => ⟨fun hlo => ?setup, fun hlo hhi => ?window, fun hhi => ?page⟩,
      fun h => next_settled (State.smbWrite_ignored hc hr h), fun hoff => next_settled (State.smbAddr_aligned hc hr hoff),
      fun hoff => next_settled (State.smbAddr_misaligned hc hr hoff), next_settled (State.smbCore_on hc hr _),
      fun h => next_settled (State.smbEvt_none hc hr h), fun h => next_settled (State.smbEvt_oldest hc hr h),
      next_settled (State.smbCore_on hc hr _)⟩,
    fun h => ⟨next_settled (State.smbCore_off h _), next_settled (State.smbCore_off h _), next_settled (State.smbAddr_off h off),
      next_settled (State.smbWrite_off h off val), next_settled (State.smbCore_off h _)⟩,
    next_act rfl, rfl, rfl, next_act rfl, next_act rfl, ?escape⟩
  case setup =>
    refine next_settled ((State.smbWrite_setup hc hr hsel hoff).trans ?_)
    rw [State.setupWrite_smbus hsel, if_neg (by omega), if_neg (by omega)]
    rfl
  case window =>
    refine next_settled ((State.smbWrite_setup hc hr hsel hoff).trans ?_)
    rw [State.setupWrite_smbus hsel, if_neg (by omega), if_pos hlo]
    rfl
  case page =>
    refine next_settled ((State.smbWrite_setup hc hr hsel hoff).trans ?_)
    rw [State.setupWrite_smbus hsel, if_pos hhi]
    rfl
  case escape => rfl

/-! ### The escapes -/

theorem next_actReset {f : Chip → Chip} {d : Chip} (h : f s.chip = d) :
    (Host.Outcome.next (s.actReset f) : Host.Outcome State Fault Refusal) = .next (s.put d.pump) := by
  rw [State.actReset, h]

section

variable {target flags op : Byte}

theorem Chip.escape_freeze {t : Nat} {thaw clean vsec : Bool} (ht : t = 0xFF ∨ t ≤ 127) : c.escape 0x0B t thaw clean vsec
    = (((c.log 0x15 0x0A (0x0B + 2 ^ 8 * t) (if vsec then 2 else 1) 0 0).mgrAbort).freezeTarget t thaw).escEnd true :=
  if_pos ⟨rfl, ht⟩

theorem Chip.escape_other {k t : Nat} {thaw clean vsec : Bool} (hk : k ≠ 0x0B) : c.escape k t thaw clean vsec
    = if k = 0x0C ∧ clean = true ∧ thaw = false then (c.log 0x15 0x0A (k + 2 ^ 8 * t) (if vsec then 2 else 1) 0 0).coreReset c.straps
      else c.escEnd false := if_neg (fun h => hk h.1)

theorem Chip.smbEscape_acts (h : c.clocked = true ∨ op ≠ 0x0B) :
    c.smbEscape Config.escKey op target flags = c.escape op.toNat target.toNat (bitAt flags 0) (fld flags 7 1 == 0) false := by
  simp only [Chip.smbEscape, ne_eq, not_true_eq_false, if_false]
  exact if_pos h

theorem Chip.smbEscape_waits (h : c.clocked = false) : c.smbEscape Config.escKey 0x0B target flags
    = if target = 0xFF ∨ target.toNat ≤ 127 then ({ c.log 0x15 0x0A (0x0B + 2 ^ 8 * target.toNat) 1 0 0 with
        smb := { (c.log 0x15 0x0A (0x0B + 2 ^ 8 * target.toNat) 1 0 0).smb with deferred := some (target, bitAt flags 0) } } : Chip).escEnd true
      else c.escEnd false := by
  simp only [Chip.smbEscape, ne_eq, not_true_eq_false, if_false, h, Bool.false_eq_true, or_self]
  rfl

theorem Chip.smbEscape_freeze (ht : target = 0xFF ∨ target.toNat ≤ 127) (hc : c.clocked = true) :
    c.smbEscape Config.escKey 0x0B target flags
      = (((c.log 0x15 0x0A (0x0B + 2 ^ 8 * target.toNat) 1 0 0).mgrAbort).freezeTarget target.toNat (bitAt flags 0)).escEnd true := by
  have ht' : target.toNat = 0xFF ∨ target.toNat ≤ 127 := ht.imp (fun h => by rw [h]; rfl) id
  exact (Chip.smbEscape_acts (Or.inl hc)).trans (Chip.escape_freeze ht')

theorem Chip.smbEscape_deferred (ht : target = 0xFF ∨ target.toNat ≤ 127) (hc : c.clocked = false) :
    c.smbEscape Config.escKey 0x0B target flags = ({ c.log 0x15 0x0A (0x0B + 2 ^ 8 * target.toNat) 1 0 0 with
      smb := { (c.log 0x15 0x0A (0x0B + 2 ^ 8 * target.toNat) 1 0 0).smb with deferred := some (target, bitAt flags 0) } } : Chip).escEnd true :=
  (Chip.smbEscape_waits hc).trans (if_pos ht)

theorem Chip.smbEscape_noTarget (h128 : 128 ≤ target.toNat) (hff : target ≠ 0xFF) :
    c.smbEscape Config.escKey 0x0B target flags = c.escEnd false := by
  have hlt := target.isLt
  have ht : ¬ (target = 0xFF ∨ target.toNat ≤ 127) := not_or.mpr ⟨hff, by omega⟩
  have ht' : ¬ (target.toNat = 0xFF ∨ target.toNat ≤ 127) :=
    not_or.mpr ⟨fun h => hff (BitVec.eq_of_toNat_eq h), by omega⟩
  cases hc : c.clocked
  · exact (Chip.smbEscape_waits hc).trans (if_neg ht)
  · exact (Chip.smbEscape_acts (Or.inl hc)).trans ((if_neg (fun h => ht' h.2)).trans (if_neg (fun h => absurd h.1 (by decide))))

theorem Chip.smbEscape_reset : c.smbEscape Config.escKey 0x0C target 0
    = (c.log 0x15 0x0A (0x0C + 2 ^ 8 * target.toNat) 1 0 0).coreReset c.straps := by
  rw [Chip.smbEscape_acts (Or.inr (by decide))]
  exact (Chip.escape_other (by decide)).trans (if_pos ⟨rfl, rfl, rfl⟩)

/-- A flag that is set is THAW or a reserved one. -/
theorem flags_dirty (h : flags ≠ 0) : ¬ ((fld flags 7 1 == 0) = true ∧ bitAt flags 0 = false) := by
  rintro ⟨hhigh, hlow⟩
  have hhigh' : flags.toNat / 2 % 2 ^ 7 = 0 := by simpa [fld, Nat.shiftRight_eq_div_pow] using hhigh
  have hlow' : ¬ flags.toNat % 2 = 1 := by simpa [bitAt, BitVec.getLsbD] using hlow
  have hlt := flags.isLt
  exact h (BitVec.eq_of_toNat_eq (show flags.toNat = 0 by omega))

theorem Chip.smbEscape_dirty (h : flags ≠ 0) : c.smbEscape Config.escKey 0x0C target flags = c.escEnd false := by
  rw [Chip.smbEscape_acts (Or.inr (by decide))]
  exact (Chip.escape_other (by decide)).trans (if_neg (fun hh => flags_dirty h hh.2))

theorem Chip.smbEscape_unknown (hb : op ≠ 0x0B) (hc : op ≠ 0x0C) : c.smbEscape Config.escKey op target flags = c.escEnd false := by
  have hne : ∀ k : Byte, op ≠ k → op.toNat ≠ k.toNat := fun k h hk => h (BitVec.eq_of_toNat_eq hk)
  rw [Chip.smbEscape_acts (Or.inr hb)]
  exact (if_neg (fun h => hne _ hb h.1)).trans (if_neg (fun h => hne _ hc h.1))

theorem Chip.escCmd_freeze {val : Word} (hsel : c.straps.mgrSel ≠ 1) (hkey : c.smb.escKeyed = true) (hop : fld val 7 0 = 0x0B)
    (ht : fld val 15 8 ≤ 127) : c.escCmd val = (((c.log 0x15 0x0A (0x0B + 2 ^ 8 * fld val 15 8) 2 0 0).mgrAbort).freezeTarget
      (fld val 15 8) (bitAt val 16)).escEnd true := by
  refine (if_neg hsel).trans ((if_neg (by rw [hkey]; exact Bool.false_ne_true)).trans ?_)
  rw [hop]
  exact Chip.escape_freeze (Or.inr ht)

end

/-! ### The fault log -/

theorem Chip.smbFlogRead_none (h : c.rel.unread = 0) : c.smbFlogRead = c.emit (.smb (List.replicate 32 0)) := by
  rw [Chip.smbFlogRead, if_pos h]

theorem Chip.smbFlogRead_oldest (h : c.rel.unread ≠ 0) : c.smbFlogRead = c.emit (.smb (c.flog c.rel.oldest).bytes) := by
  rw [Chip.smbFlogRead, if_neg h]

/-- Settles O41: each escape by its key, code and target; the log as it is read. -/
theorem escapesAndFaultLog : Obligations.EscapesAndFaultLog := by
  refine ⟨?escapes, ?log⟩
  case escapes =>
    intro s key val op target flags c esc ends
    exact ⟨fun hkey => next_actReset (if_pos hkey), fun ht => ⟨fun hc => next_actReset (Chip.smbEscape_freeze ht hc),
        fun hc => next_actReset (Chip.smbEscape_deferred ht hc)⟩,
      fun h128 hff => next_actReset (Chip.smbEscape_noTarget h128 hff), next_actReset Chip.smbEscape_reset,
      fun hf => next_actReset (Chip.smbEscape_dirty hf), fun hb hc => next_actReset (Chip.smbEscape_unknown hb hc),
      fun hsel => next_actReset (if_pos hsel),
      fun hsel hkey => next_actReset ((if_neg hsel).trans (if_pos (by rw [hkey]; rfl))),
      fun hsel hkey hop ht => next_actReset (Chip.escCmd_freeze hsel hkey hop ht)⟩
  case log =>
    intro s n w val c acked
    exact ⟨next_act rfl, fun h => next_act (Chip.smbFlogRead_none h), fun h => next_act (Chip.smbFlogRead_oldest h), next_act rfl,
      fun hm => next_act (Chip.setup_byMgr hm _), fun hm => next_act (if_neg (ne_true_of_eq_false hm)),
      fun hn => next_act (if_neg (Nat.not_lt.mpr hn)), fun hn => next_act (if_pos hn), next_act rfl⟩

end Sys2Proof.Machine
end

/-! CH_CMD of a channel that exists (R293, R303 to R305), and what host memory answers to it (R294 to R303). -/
section

namespace Sys2Proof.Machine

variable {c : Chip} {w : IW} {n k : Nat} {d : Desc}

/-! ### One channel of an instance -/

theorem IW.ch_updCh (w : IW) (k : Nat) (f : Chan → Chan) : (w.updCh k f).ch k = f (w.ch k) := Tbl.get_set_same _ _ _ _

theorem IW.updCh_updCh (w : IW) (k : Nat) (f g : Chan → Chan) : (w.updCh k f).updCh k g = w.updCh k (fun h => g (f h)) := by
  simp only [IW.updCh, Tbl.upd, Tbl.set_set, Tbl.get_set_same]

theorem IW.updCh_congr {f g : Chan → Chan} (h : f (w.ch k) = g (w.ch k)) : w.updCh k f = w.updCh k g := by
  have h' : f (Tbl.get {} w.x.chans k) = g (Tbl.get {} w.x.chans k) := h
  simp only [IW.updCh, Tbl.upd, h']

/-- Without posting and interrupt a status is kept in the channel alone. -/
theorem IW.status_silent (hsts : w.x.stsEn = false) (hie : (w.ch k).ie = false) (mf : BitVec 16) (code : Nat) (cause : BitVec 4) (late : Bool)
    (nd : Option Addr) : w.status n k mf code cause late nd = w.updCh k (fun h => { h with
      seq := (w.ch k).seq + 1
      lastRes := BitVec.ofNat 24 (if nd.isSome then 0 else (w.ch k).residue (if nd.isSome then {} else (w.ch k).cur.getD {}))
      lastCode := BitVec.ofNat 8 code }) := by
  have hsts' : ∀ f : Chan → Chan, (w.updCh k f).x.stsEn = false := fun f => hsts
  simp only [IW.status, hie, hsts', Bool.false_and, Bool.false_eq_true, if_false]

/-- A halt at a fetch that failed, or at what it brought. -/
theorem IW.chHaltNd_silent (hsts : w.x.stsEn = false) (hie : (w.ch k).ie = false) (mf : BitVec 16) {cause sub : BitVec 4} (a : Addr)
    (hc : cause ≠ 6) : w.chHaltNd n k mf cause sub a = w.updCh k (fun h => { h with
      errAddr := a, confirmRd := false, cause := cause, sub := sub, desc := a, seq := h.seq + 1, lastRes := 0, lastCode := 3
      st := .halted }) := by
  have hie' : ((w.updCh k (fun h => { h with errAddr := a, confirmRd := false, cause := cause, sub := sub, desc := a })).ch k).ie = false := by
    rw [IW.ch_updCh]
    exact hie
  simp only [IW.chHaltNd, if_neg hc]
  rw [IW.status_silent (w := w.updCh k _) hsts hie', IW.updCh_updCh, IW.updCh_updCh]
  refine IW.updCh_congr ?_
  rw [IW.ch_updCh]
  rfl

/-! ### The commands -/

theorem IW.chStart_idle (h : (w.ch k).st = .idle) : w.chStart n k = (w.updCh k (fun h => { h.rest with
    st := .running, hops := 0, cause := 0, sub := 0, confirmRd := false, fetching := true, fetchAt := h.desc })).emit
      (.hostRead n (w.ch k).desc 32) := by
  rw [IW.chStart, if_pos h, IW.chFetch, IW.updCh_updCh]
  exact congrArg (IW.emit · _) (IW.updCh_congr rfl)

theorem IW.chResume_fetch (mf : BitVec 16) (hst : (w.ch k).st = .halted) (hc : 6 ≤ (w.ch k).cause.toNat) :
    w.chResume n k mf = (w.updCh k (fun h => { h with
      st := .running, hops := 0, cause := 0, sub := 0, confirmRd := false, bad := false, errCause := 0, begun := h.done
      fetching := true, fetchAt := h.errAddr })).emit (.hostRead n (w.ch k).errAddr 32) := by
  have hnd : (w.ch k).ndHalt = true := decide_eq_true hc
  simp only [IW.chResume, hst, hnd, ne_eq, not_true_eq_false, if_false, if_true, IW.chFetch, IW.updCh_updCh]
  exact congrArg (IW.emit · _) (IW.updCh_congr rfl)

section

variable (hst : (w.ch k).st = .halted) (hc : (w.ch k).cause.toNat < 6) (hcur : (w.ch k).cur = some d) (hsts : w.x.stsEn = false)
  (hie : (w.ch k).ie = false)

include hst hc hcur hsts hie

theorem IW.chSkip_next (mf : BitVec 16) (hlast : d.last = false) : w.chSkip n k mf = (w.updCh k (fun h => { h with
    seq := h.seq + 1, lastRes := BitVec.ofNat 24 (h.residue d), lastCode := 4, hops := 0, cause := 0, sub := 0
    confirmRd := false, bad := false, errCause := 0, st := .running, fetching := true, fetchAt := d.next })).emit
      (.hostRead n d.next 32) := by
  have hnd : (w.ch k).ndHalt = false := decide_eq_false (Nat.not_le.mpr hc)
  simp only [IW.chSkip, hst, hnd, hcur, hlast, ne_eq, not_true_eq_false, Bool.false_eq_true, or_self, if_false]
  rw [IW.status_silent hsts hie, IW.updCh_updCh, IW.updCh_updCh, IW.chFetch, IW.updCh_updCh, hcur]
  exact congrArg (IW.emit · _) (IW.updCh_congr rfl)

theorem IW.chAbort_halted (mf : BitVec 16) : w.chAbort n k mf = w.updCh k (fun h => { h.rest with
    seq := h.seq + 1, lastRes := BitVec.ofNat 24 (h.residue d), lastCode := 2, desc := h.curAddr }) := by
  have hnd : (w.ch k).ndHalt = false := decide_eq_false (Nat.not_le.mpr hc)
  simp only [IW.chAbort, hst, hnd, Bool.false_eq_true, if_false]
  rw [IW.status_silent hsts hie, IW.updCh_updCh, hcur]
  refine IW.updCh_congr ?_
  simp only [Chan.ndHalt, decide_eq_true_eq, if_neg (Nat.not_le.mpr hc)]
  rfl

end

/-- An instance as what acts on it sees it. -/
def Chip.iw (c : Chip) (n : Nat) : IW := { x := c.inst n, out := c.out, free := c.free }

/-- What an instance's write does to one channel, seen from the chip. -/
def Chip.updChan (c : Chip) (n k : Nat) (f : Chan → Chan) : Chip := c.updInst n (fun x => { x with chans := Tbl.upd {} x.chans k f })

theorem Chip.onInst_updCh {f : IW → IW} {g : Chan → Chan} (h : f (c.iw n) = (c.iw n).updCh k g) : c.onInst n f = c.updChan n k g := by
  rw [Chip.onInst, ← Chip.iw, h]
  rfl

theorem Chip.onInst_updCh_emit {f : IW → IW} {g : Chan → Chan} {o : Out} (h : f (c.iw n)
    = ((c.iw n).updCh k g).emit o) : c.onInst n f = (c.updChan n k g).emit o := by
  rw [Chip.onInst, ← Chip.iw, h]
  rfl

theorem Chip.onInst_congr {f g : IW → IW} (h : f (c.iw n)
    = g (c.iw n)) : c.onInst n f = c.onInst n g := by
  rw [Chip.onInst, ← Chip.iw, h, Chip.onInst, ← Chip.iw]

theorem Chip.page_chWrite_absent (f : Chip → IW → IW) (hst : (c.inst n).st = .active) (hk : c.chanCount n ≤ k) :
    c.page n (fun x => x.chWrite n k (f x)) = c.paged n := by
  rw [Chip.page_active _ hst]
  exact if_neg (fun h => absurd h.2 (Nat.not_lt.mpr (by rw [Chip.chanCount_paged]; exact hk)))

/-- The command acts on the channel as the instance holds it. -/
theorem exec_chan_emit {s : State} {f : Chip → IW → IW} {g : Chan → Chan} {o : Out} (hst : (s.chip.inst n).st = .active)
    (hk : k < s.chip.chanCount n) (h : ∀ x w, w.ch k = (s.chip.inst n).chan k → w.x.stsEn = (s.chip.inst n).stsEn → f x w = (w.updCh k g).emit o) :
    (Host.Outcome.next (s.onward (s.chip.page n (fun x => x.chWrite n k (f x)))) : Host.Outcome State Fault Refusal)
      = .next (s.onward (((s.chip.paged n).updChan n k g).emit o)) := by
  rw [Chip.page_chWrite f hst hk, Chip.onInst_updCh_emit (h _ _ (congrArg (Inst.chan · k) (Chip.inst_paged n))
    (congrArg Inst.stsEn (Chip.inst_paged n)))]

theorem exec_chan {s : State} {f : Chip → IW → IW} {g : Chan → Chan} (hst : (s.chip.inst n).st = .active)
    (hk : k < s.chip.chanCount n) (h : ∀ x w, w.ch k = (s.chip.inst n).chan k → w.x.stsEn = (s.chip.inst n).stsEn → f x w = w.updCh k g) :
    (Host.Outcome.next (s.onward (s.chip.page n (fun x => x.chWrite n k (f x)))) : Host.Outcome State Fault Refusal)
      = .next (s.onward ((s.chip.paged n).updChan n k g)) := by
  rw [Chip.page_chWrite f hst hk, Chip.onInst_updCh (h _ _ (congrArg (Inst.chan · k) (Chip.inst_paged n))
    (congrArg Inst.stsEn (Chip.inst_paged n)))]

/-! ### Reads return -/

section

variable {mf : BitVec 16} {raw : List Byte}

theorem IW.chFetched_dead (r : ReadEnd) (h : 0 < (w.ch k).deadFetch) :
    w.chFetched n k mf r raw = w.updCh k (fun h => { h with deadFetch := h.deadFetch - 1 }) := if_pos h

section

variable (hdead : (w.ch k).deadFetch = 0) (hf : (w.ch k).fetching = true)

include hdead hf

/-- The fetch is awaited: what it brings decides. -/
theorem IW.chFetched_ok : w.chFetched n k mf .ok raw = if (descOf raw).invalid ≠ 0
    then (w.updCh k (fun h => { h with fetching := false, hops := h.hops + 1 })).chHaltNd n k mf 8 (descOf raw).invalid (w.ch k).fetchAt
    else (w.updCh k (fun h => { h with
      fetching := false, hops := h.hops + 1, cur := some (descOf raw), curAddr := h.fetchAt, desc := h.fetchAt, begun := 0
      done := 0, conf := 0, complete := false, bad := false, errCause := 0 })).chGo n k mf := by
  simp only [IW.chFetched, hdead, hf, Nat.lt_irrefl, Bool.not_true, Bool.false_eq_true, if_false, ne_eq, not_true_eq_false,
    IW.updCh_updCh]

theorem IW.chFetched_failed {r : ReadEnd} (hr : r ≠ .ok) : w.chFetched n k mf r raw
    = (w.updCh k (fun h => { h with fetching := false })).chHaltNd n k mf 7 (fetchSub r) (w.ch k).fetchAt := by
  simp only [IW.chFetched, hdead, hf, Nat.lt_irrefl, Bool.not_true, Bool.false_eq_true, if_false, if_pos hr]

theorem IW.chFetched_valid (hd : (descOf raw).invalid = 0) : w.chFetched n k mf .ok raw = (w.updCh k (fun h => { h with
    fetching := false, hops := h.hops + 1, cur := some (descOf raw), curAddr := h.fetchAt, desc := h.fetchAt, begun := 0, done := 0
    conf := 0, complete := false, bad := false, errCause := 0 })).chGo n k mf := by
  rw [IW.chFetched_ok hdead hf, if_neg (not_not.mpr hd)]

variable (hsts : w.x.stsEn = false) (hie : (w.ch k).ie = false)

include hsts hie

theorem IW.chFetched_invalid (hd : (descOf raw).invalid ≠ 0) : w.chFetched n k mf .ok raw = w.updCh k (fun h => { h with
    fetching := false, hops := h.hops + 1, errAddr := h.fetchAt, confirmRd := false, cause := 8, sub := (descOf raw).invalid
    desc := h.fetchAt, seq := h.seq + 1, lastRes := 0, lastCode := 3, st := .halted }) := by
  rw [IW.chFetched_ok hdead hf, if_pos hd,
    IW.chHaltNd_silent (w := w.updCh k _) hsts (by rw [IW.ch_updCh]; exact hie) mf _ (by decide), IW.updCh_updCh]
  exact IW.updCh_congr rfl

theorem IW.chFetched_ur : w.chFetched n k mf .ur raw = w.updCh k (fun h => { h with
    fetching := false, errAddr := h.fetchAt, confirmRd := false, cause := 7, sub := 1, desc := h.fetchAt, seq := h.seq + 1
    lastRes := 0, lastCode := 3, st := .halted }) := by
  rw [IW.chFetched_failed hdead hf (by decide),
    IW.chHaltNd_silent (w := w.updCh k _) hsts (by rw [IW.ch_updCh]; exact hie) mf _ (by decide), IW.updCh_updCh]
  exact IW.updCh_congr rfl

end

theorem IW.chFetchLate_halts (hf : (w.ch k).fetching = true) (hsts : w.x.stsEn = false) (hie : (w.ch k).ie = false) :
    w.chFetchLate n k mf = w.updCh k (fun h => { h with
      fetching := false, deadFetch := h.deadFetch + 1, errAddr := h.fetchAt, confirmRd := false, cause := 7, sub := 4
      desc := h.fetchAt, seq := h.seq + 1, lastRes := 0, lastCode := 3, st := .halted }) := by
  rw [IW.chFetchLate, if_pos hf,
    IW.chHaltNd_silent (w := w.updCh k _) hsts (by rw [IW.ch_updCh]; exact hie) mf _ (by decide), IW.updCh_updCh]
  exact IW.updCh_congr rfl

theorem IW.chFetchLate_none (hf : (w.ch k).fetching = false) : w.chFetchLate n k mf = w := if_neg (ne_true_of_eq_false hf)

theorem IW.chRead_writes (hcur : (w.ch k).cur = some d) (hdead : (w.ch k).deadRead = 0) (hlt : (w.ch k).done < (w.ch k).begun) :
    w.chRead n k mf .ok = (({ w.updCh k (fun h => { h with done := h.done + 1 }) with
      out := [.hostWrite n (d.dstAt (w.ch k).done) (d.size (d.nth (w.ch k).done))] ++ w.out } : IW)).chGo n k mf := by
  simp only [IW.chRead, hdead, Nat.lt_irrefl, if_false, hcur, if_neg (Nat.not_le.mpr hlt), if_true]
  rfl

theorem IW.chConfirmed_ok (hcur : (w.ch k).cur = some d) (hdead : (w.ch k).deadConf = 0) (hconf : (w.ch k).confirming = true) :
    w.chConfirmed n k mf .ok = (w.updCh k (fun h => { h with confirming := false, conf := h.done })).chGo n k mf := by
  simp only [IW.chConfirmed, hdead, Nat.lt_irrefl, if_false, hcur, hconf, Bool.not_true, Bool.false_eq_true, if_true, IW.updCh_updCh]

end

theorem Chip.carrySel_none {val : Word} (h : c.physChans.find? (fun p => p.1 == fld val 7 0) = none) :
    c.carrySel val = { c with cap := { c.cap with carrySel := toWord (fld val 7 0), carryData := 0x7F } } := by
  simp only [Chip.carrySel, h]
  rfl

theorem Chip.internalRead_ok (k : Nat) (confirm : Bool) :
    c.internalRead k (readCause .ok) 0 confirm = { c with internals := Tbl.set {} c.internals k {} } := if_pos rfl

section

variable (s : State) (i : Fin 128) (j : Fin 256) (r : ReadEnd)

theorem exec_carryDescFetchDone (raw : List Byte) : exec (.carryDescFetchDone (.loc i j) r raw) s
    = .next (s.onward (s.chip.onInst i.val (fun w => w.chFetched i.val j.val s.chip.mf r raw))) := rfl

theorem exec_carryFetchTimeout : exec (.carryFetchTimeout (.loc i j)) s
    = .next (s.onward (s.chip.onInst i.val (fun w => w.chFetchLate i.val j.val s.chip.mf))) := rfl

theorem exec_carryBurstReadDone : exec (.carryBurstReadDone (.loc i j) r) s
    = .next (s.onward (s.chip.onInst i.val (fun w => w.chRead i.val j.val s.chip.mf r))) := rfl

theorem exec_carryConfirmDone : exec (.carryConfirmDone (.loc i j) r) s
    = .next (s.onward (s.chip.onInst i.val (fun w => w.chConfirmed i.val j.val s.chip.mf r))) := rfl

end

/-- What host memory answers acts on the channel as the instance holds it. -/
theorem next_onInst {s : State} {a b : IW → IW} (h : a (s.chip.iw n) = b (s.chip.iw n)) :
    (Host.Outcome.next (s.onward (s.chip.onInst n a)) : Host.Outcome State Fault Refusal) = .next (s.onward (s.chip.onInst n b)) := by
  rw [Chip.onInst_congr h]

theorem next_updChan {s : State} {a : IW → IW} {g : Chan → Chan} (h : a (s.chip.iw n) = (s.chip.iw n).updCh k g) :
    (Host.Outcome.next (s.onward (s.chip.onInst n a)) : Host.Outcome State Fault Refusal) = .next (s.onward (s.chip.updChan n k g)) := by
  rw [Chip.onInst_updCh h]

/-- Settles O42: each command by the channel's state, and each answer of host memory by what the channel awaits. -/
theorem channelsAct : Obligations.ChannelsAct := by
  refine ⟨fun s i j val d => ?commands, fun s i j raw d w val q => ?answers⟩
  case commands =>
    intro n k c h upd hst
    have hrefused {f : Chip → IW → IW} (hk : k < s.chip.chanCount n) (hf : ∀ x w, w.ch k = h → f x w = w.chRefuse k) :
        Host.Outcome.next (s.onward (s.chip.page n (fun x => x.chWrite n k (f x))))
          = (.next (s.onward (upd (fun h => { h with cmdErr := true }))) : Host.Outcome State Fault Refusal) :=
      congrArg (fun d => Host.Outcome.next (s.onward d)) (Chip.page_chWrite_refused hst hk hf)
    rw [exec_chCmdRefused, exec_chStart, exec_chResume, exec_chSkip, exec_chAbort]
    refine ⟨fun hk => congrArg (fun d => Host.Outcome.next (s.onward d)) (Chip.page_chWrite_absent _ hst hk), fun hk =>
      ⟨fun hidle => ?start, fun hbusy => hrefused hk (fun _ _ hw => IW.chStart_refused (hw ▸ hbusy)),
        fun hnot => ⟨hrefused hk (fun _ _ hw => IW.chResume_refused _ (hw ▸ hnot)),
          hrefused hk (fun _ _ hw => IW.chSkip_refused _ (.inl (hw ▸ hnot)))⟩,
        fun hhalt hc => ?resume, fun hhalt hc hcur hsts hie => ⟨fun hlast => ?skip, ?abort⟩,
        fun hidle => hrefused hk (fun _ _ hw => IW.chAbort_idle _ (hw ▸ hidle)), fun hop => ?opStart, fun hop => ?reserved⟩⟩
    case start =>
      exact exec_chan_emit hst hk fun _ w hw _ => by rw [IW.chStart_idle ((congrArg Chan.st hw).trans hidle), hw]
    case resume =>
      exact exec_chan_emit hst hk fun _ w hw _ => by
        rw [IW.chResume_fetch _ ((congrArg Chan.st hw).trans hhalt) (by rw [hw]; exact hc), hw]
    case skip =>
      exact exec_chan_emit hst hk fun _ w hw hx => IW.chSkip_next ((congrArg Chan.st hw).trans hhalt) (by rw [hw]; exact hc)
        ((congrArg Chan.cur hw).trans hcur) (hx.trans hsts) ((congrArg Chan.ie hw).trans hie) _ hlast
    case abort =>
      exact exec_chan hst hk fun _ w hw hx => IW.chAbort_halted ((congrArg Chan.st hw).trans hhalt) (by rw [hw]; exact hc)
        ((congrArg Chan.cur hw).trans hcur) (hx.trans hsts) ((congrArg Chan.ie hw).trans hie) _
    case opStart => simp only [Chip.chCmd_start hop]
    case reserved =>
      simp only [Chip.chCmd_reserved (Or.inr hop)]
      exact hrefused hk fun _ _ _ => rfl
  case answers =>
    intro n k c h upd goes
    simp only [exec_carryDescFetchDone, exec_carryFetchTimeout, exec_carryBurstReadDone, exec_carryConfirmDone]
    exact ⟨fun hdead hf => ⟨fun hd => next_onInst (IW.chFetched_valid (w := c.iw n) hdead hf hd), fun hsts hie =>
        ⟨fun hd => next_updChan (IW.chFetched_invalid (w := c.iw n) hdead hf hsts hie hd),
          next_updChan (IW.chFetched_ur (w := c.iw n) hdead hf hsts hie),
          next_updChan (IW.chFetchLate_halts (w := c.iw n) hf hsts hie)⟩⟩,
      fun hdead => next_updChan (IW.chFetched_dead (w := c.iw n) _ hdead),
      fun hf => next_onInst (IW.chFetchLate_none (w := c.iw n) hf),
      fun hcur => ⟨fun hdead hlt => next_onInst (IW.chRead_writes (w := c.iw n) hcur hdead hlt),
        fun hdead hconf => next_onInst (IW.chConfirmed_ok (w := c.iw n) hcur hdead hconf)⟩,
      next_act (Chip.internalRead_ok q.val true),
      fun hm hfind => next_act ((Chip.setup_byMgr hm _).trans (Chip.carrySel_none (c := c.spinBreak) hfind))⟩

end Sys2Proof.Machine
end

/-! The Whistle's lines, registers and deliveries (R325 to R337), and what a Fielder does to itself (R315 to R333). -/
section

namespace Sys2Proof.Machine

variable {c : Chip} {f n k : Nat} {x : Src} {val : Word} {level : Bool}

/-! ### Lines -/

theorem Src.lineTo_high (hs : senseOf n x = 0) (hserv : x.serv = false) : x.lineTo n level = { x with line := level, pend := level } := by
  simp only [Src.lineTo, hs, hserv, Bool.false_eq_true, if_false]

theorem Src.lineTo_low (hs : senseOf n x = 1) (hserv : x.serv = false) : x.lineTo n level = { x with line := level, pend := !level } := by
  simp only [Src.lineTo, hs, hserv, Bool.false_eq_true, if_false]

theorem Src.lineTo_served (hs : senseOf n x ≤ 1) (hserv : x.serv = true) : x.lineTo n level = { x with line := level, pend := x.pend } := by
  have h : senseOf n x = 0 ∨ senseOf n x = 1 := by omega
  rcases h with h | h
  · simp only [Src.lineTo, h, hserv, if_true]
  · simp only [Src.lineTo, h, hserv, if_true]

/-- The line's change is one that the source's sense asks for. -/
def Src.EdgeAt (n : Nat) (x : Src) (level : Bool) : Prop :=
  (senseOf n x = 2 ∧ level = true ∧ x.line = false) ∨ (senseOf n x = 3 ∧ level = false ∧ x.line = true)
    ∨ (4 ≤ senseOf n x ∧ level ≠ x.line)

theorem Src.lineTo_edge (he : x.EdgeAt n level) : x.lineTo n level = { x with line := level, pend := true } := by
  rcases he with ⟨h, hl, hx⟩ | ⟨h, hl, hx⟩ | ⟨h, hne⟩
  · simp only [Src.lineTo, h, hl, hx, Bool.not_false, Bool.and_self, Bool.or_true]
  · simp only [Src.lineTo, h, hl, hx, Bool.not_false, Bool.and_self, Bool.or_true]
  · unfold Src.lineTo
    split
    · omega
    · omega
    · omega
    · omega
    · simp only [bne_iff_ne.mpr hne, Bool.or_true]

theorem Src.lineTo_flat (hs : 2 ≤ senseOf n x) (he : ¬ x.EdgeAt n level) : x.lineTo n level = { x with line := level, pend := x.pend } := by
  obtain ⟨h2, he'⟩ := not_or.mp he
  obtain ⟨h3, h4⟩ := not_or.mp he'
  unfold Src.lineTo
  split
  case h_1 h => omega
  case h_2 h => omega
  case h_3 h =>
    have : (level && !x.line) = false := by simpa [h] using h2
    simp only [this, Bool.or_false]
  case h_4 h =>
    have : (!level && x.line) = false := by simpa [h] using h3
    simp only [this, Bool.or_false]
  case h_5 h0 h1 h2' h3' =>
    have : (level != x.line) = false := by
      have h4' : 4 ≤ senseOf n x := by
        have e2 : senseOf n x ≠ 2 := h2'
        have e3 : senseOf n x ≠ 3 := h3'
        omega
      simpa [h4'] using h4
    simp only [this, Bool.or_false]

theorem Chip.lineChange_none (h : noLine n = true) : c.lineChange n level = c := if_pos h

theorem Chip.lineChange_to {p : Bool} (h : noLine n = false) (hx : (c.src n).lineTo n level = { c.src n with line := level, pend := p }) :
    c.lineChange n level = (c.updSrc n (fun y => { y with line := level, pend := p })).offers :=
  (if_neg (ne_true_of_eq_false h)).trans (congrArg Chip.offers (Chip.updSrc_congr c n _ _ hx))

/-! ### Registers -/

theorem Chip.byActive_on (h : (c.fielder f).st = .active) (act : Chip → Chip) : c.byActive f act = act c := if_pos h

theorem Chip.byActive_off (h : (c.fielder f).st ≠ .active) (act : Chip → Chip) : c.byActive f act = c := if_neg h

/-- Bit `i` of a written word changes source 32 k + i. -/
def Chip.srcBit (k : Nat) (val : Word) (g : Nat → Src → Src) (i : Nat) (c : Chip) : Chip :=
  if bitAt val i then c.updSrc (32 * k + i) (g (32 * k + i)) else c

theorem Chip.src_srcBit (c : Chip) (k : Nat) (val : Word) (g : Nat → Src → Src) (i j : Nat) :
    (c.srcBit k val g i).src j = if j = 32 * k + i ∧ bitAt val i = true then g j (c.src j) else c.src j := by
  unfold Chip.srcBit
  by_cases hb : bitAt val i = true
  · rw [if_pos hb, Chip.src_updSrc]
    by_cases hj : j = 32 * k + i
    · rw [if_pos hj, if_pos ⟨hj, hb⟩, hj]
    · rw [if_neg hj, if_neg (fun h => hj h.1)]
  · rw [if_neg hb, if_neg (fun h => hb h.2)]

theorem Chip.srcBit_srcs (c : Chip) (k : Nat) (val : Word) (g : Nat → Src → Src) (i : Nat) :
    ∃ t, c.srcBit k val g i = { c with srcs := t } := by
  unfold Chip.srcBit
  split
  · exact ⟨_, rfl⟩
  · exact ⟨c.srcs, rfl⟩

theorem Chip.srcBits_srcs (k : Nat) (val : Word) (g : Nat → Src → Src) (l : List Nat) (c : Chip) :
    ∃ t, l.foldl (fun d i => d.srcBit k val g i) c = { c with srcs := t } := by
  induction l generalizing c with
  | nil => exact ⟨c.srcs, rfl⟩
  | cons i l ih =>
    obtain ⟨t, ht⟩ := c.srcBit_srcs k val g i
    obtain ⟨u, hu⟩ := ih { c with srcs := t }
    exact ⟨u, by rw [List.foldl_cons, ht, hu]⟩

theorem Chip.src_srcBits (k : Nat) (val : Word) (g : Nat → Src → Src) (l : List Nat) (hl : l.Nodup) (c : Chip) (j : Nat) :
    (l.foldl (fun d i => d.srcBit k val g i) c).src j
      = if ∃ i ∈ l, j = 32 * k + i ∧ bitAt val i = true then g j (c.src j) else c.src j := by
  induction l generalizing c with
  | nil => rw [if_neg (by simp)]; rfl
  | cons i l ih =>
    obtain ⟨hi, hl'⟩ := List.nodup_cons.1 hl
    rw [List.foldl_cons, ih hl', c.src_srcBit]
    by_cases hj : j = 32 * k + i ∧ bitAt val i = true
    · have hno : ¬ ∃ a ∈ l, j = 32 * k + a ∧ bitAt val a = true := fun ⟨a, ha, hja, _⟩ => hi ((show a = i by omega) ▸ ha)
      rw [if_neg hno, if_pos hj, if_pos ⟨i, List.mem_cons_self, hj⟩]
    · rw [if_neg hj]
      refine if_congr ?_ rfl rfl
      simp only [List.mem_cons, exists_eq_or_imp, hj, false_or]

/-- The 32 bits of a written word change the 32 sources of its register, each by its own bit. -/
theorem Chip.src_word (c : Chip) (k : Nat) (val : Word) (g : Nat → Src → Src) (j : Nat) :
    (forUpTo 32 (fun i d => d.srcBit k val g i) c).src j
      = if j / 32 = k ∧ bitAt val (j % 32) = true then g j (c.src j) else c.src j := by
  refine (Chip.src_srcBits k val g _ List.nodup_range c j).trans (if_congr ⟨?_, ?_⟩ rfl rfl)
  · rintro ⟨i, hi, hj, hb⟩
    have hi' := List.mem_range.1 hi
    exact ⟨by omega, by rw [show j % 32 = i by omega]; exact hb⟩
  · rintro ⟨hk, hb⟩
    exact ⟨j % 32, List.mem_range.2 (Nat.mod_lt j (by omega)), by omega, hb⟩

theorem Chip.word_srcs (c : Chip) (k : Nat) (val : Word) (g : Nat → Src → Src) :
    forUpTo 32 (fun i d => d.srcBit k val g i) c = { c with srcs := (forUpTo 32 (fun i d => d.srcBit k val g i) c).srcs } := by
  obtain ⟨t, ht⟩ := Chip.srcBits_srcs k val g (List.range 32) c
  have ht' : forUpTo 32 (fun i d => d.srcBit k val g i) c = { c with srcs := t } := ht
  rw [ht']

theorem Chip.wpendSet_active (h : (c.fielder f).st = .active) : c.wpendSet f k val
    = (forUpTo 32 (fun i d => d.srcBit k val (fun _ s => { s with pend := true }) i) c).offers := Chip.byActive_on h _

theorem Chip.wpendClr_active (h : (c.fielder f).st = .active) : c.wpendClr f k val
    = (forUpTo 32 (fun i d => d.srcBit k val (fun n s => { s with pend := asserted n s && !s.serv }) i) c).offers := Chip.byActive_on h _

theorem Chip.wvec_bank {bank : Bool} (h : (c.fielder f).st = .active) (hb : bank = (c.fielder f).vbank) : c.wvec f bank n val
    = c.updSrc n (fun y => if bank = true then { y with vec1 := val &&& ~~~(1 : Word) } else { y with vec0 := val &&& ~~~(1 : Word) }) :=
  (Chip.byActive_on h _).trans (if_neg (not_not.mpr hb))

theorem Chip.wvec_other {bank : Bool} (h : (c.fielder f).st = .active) (hb : bank ≠ (c.fielder f).vbank) : c.wvec f bank n val = c :=
  (Chip.byActive_on h _).trans (if_pos hb)

/-! ### Deliveries -/

theorem Chip.commit_none {next : Word} (h : (c.fielder f).offer = none) : c.commit f next = c := by
  simp only [Chip.commit, h]

theorem Chip.commit_offer {next : Word} (h : (c.fielder f).offer = some n) : c.commit f next = ((((c.wfiWake f).updSrc n (fun y => { y with
    pend := false, serv := true, rr := f })).updGrp (c.src n).group.toNat (fun g => { g with remain := g.holdoff })).updFielder f
      (fun x => { x with
        offer := none, claim := some (n, (c.src n).prio.toNat), wfi := false, mepc := next &&& ~~~(1 : Word), mcause := 0x8000000B
        mtval := 0, mpie := x.mie, mie := false, pc := if x.vbank = true then (c.src n).vec1 else (c.src n).vec0 })).offers := by
  simp only [Chip.commit, h]

theorem Chip.wdone_none (h : (c.fielder f).claim = none) : c.wdone f val = c.updFielder f (fun x => { x with doneErr := true }) := by
  simp only [Chip.wdone, h]

theorem Chip.wdone_wrong {p : Nat} (h : (c.fielder f).claim = some (n, p)) (hne : fld val 8 0 ≠ n) :
    c.wdone f val = c.updFielder f (fun x => { x with doneErr := true }) := by
  simp only [Chip.wdone, h, if_neg (Ne.symm hne)]

theorem Chip.wdone_claimed {p : Nat} (h : (c.fielder f).claim = some (n, p)) (hn : fld val 8 0 = n) : c.wdone f val
    = ((c.updSrc n (fun y => { y with serv := false, pend := y.pend || (isLevel n y && (y.line == (senseOf n y == 0))) })).updFielder f
      (fun x => { x with claim := none })).offers := by
  simp only [Chip.wdone, h, hn, if_true, asserted_eq]

/-- Settles O44: each write and event by its row of R325 to R337. -/
theorem whistleActs : Obligations.WhistleActs := by
  refine ⟨fun s f n k g val level bank => ?registers, fun s f next val n p => ?deliveries⟩
  case registers =>
    intro c x sn edge lined
    refine ⟨fun h => next_act (Chip.lineChange_none h), fun h =>
        ⟨fun hs hserv => next_act (Chip.lineChange_to h (Src.lineTo_high hs hserv)),
        fun hs hserv => next_act (Chip.lineChange_to h (Src.lineTo_low hs hserv)),
        fun hs hserv => next_act (Chip.lineChange_to h (Src.lineTo_served hs hserv)),
        fun _ he => next_act (Chip.lineChange_to h (Src.lineTo_edge he)),
        fun hs he => next_act (Chip.lineChange_to h (Src.lineTo_flat hs he))⟩,
      fun h => ⟨next_act (Chip.byActive_off h _), next_act (Chip.byActive_off h _), next_act (Chip.byActive_off h _),
        next_act (Chip.byActive_off h _)⟩,
      fun h => ⟨next_act (Chip.byActive_on h _),
        ⟨_, next_act (Chip.wpendSet_active h), Chip.word_srcs c k.val val _, fun j => Chip.src_word c k.val val _ j⟩,
        ⟨_, next_act (Chip.wpendClr_active h), Chip.word_srcs c k.val val _, fun j => ?cleared⟩,
        fun hb => next_act (Chip.wvec_other h hb), fun hb => next_act (Chip.wvec_bank h hb)⟩,
      next_act rfl⟩
    case cleared =>
      simp only [Chip.src_word, asserted_eq, c]
  case deliveries =>
    intro c x y wrong
    exact ⟨fun h => next_act (Chip.commit_none h), fun h => next_act (Chip.commit_offer h), fun h => next_act (Chip.wdone_none h),
      fun h => ⟨fun hne => next_act (Chip.wdone_wrong h hne), fun hn => next_act (Chip.wdone_claimed h hn)⟩⟩

end Sys2Proof.Machine
end

/-! What a Fielder does to itself (R315 to R333): traps, WFI, its timers and the locks. -/
section

namespace Sys2Proof.Machine

variable {c : Chip} {f n k i : Nat} {cause : BitVec 5} {pc tval val : Word}

/-! ### Traps -/

theorem Chip.trap_out (h : (c.fielder f).st = .bench ∨ (c.fielder f).st = .halted ∨ (c.fielder f).st = .retired) :
    c.trap f cause pc tval = c := if_pos h

theorem FSt.active_runs {st : FSt} (h : st = .active) : ¬ (st = .bench ∨ st = .halted ∨ st = .retired) := by
  rw [h]
  decide

/-- A fetch that misses again at the handler's first instruction. -/
def Fielder.MissesAgain (x : Fielder) (cause : BitVec 5) (pc : Word) : Prop :=
  cause = 1 ∧ x.mcause = 1 ∧ x.mepc = x.mtvec &&& ~~~(3 : Word) ∧ pc = x.mtvec &&& ~~~(3 : Word)

section

variable (h : (c.fielder f).st = .active)

include h

theorem Chip.trap_again (ha : (c.fielder f).MissesAgain cause pc) : c.trap f cause pc tval = c.fault f .fetchLoop := by
  have hbrk : ¬ (cause = 3 ∧ c.jtag.testMode = true ∧ c.jtag.attached = true) := fun hb => by
    have h3 : (1 : BitVec 5) = 3 := ha.1.symm.trans hb.1
    exact absurd h3 (by decide)
  exact ((if_neg (FSt.active_runs h)).trans (if_neg hbrk)).trans (if_pos ⟨h, ha⟩)

theorem Chip.trap_break (hc : cause = 3) (ht : c.jtag.testMode = true) (ha : c.jtag.attached = true) : c.trap f cause pc tval
    = ({ c with jtag := { c.jtag with held := f :: c.jtag.held.filter (fun g => g != f) } } : Chip).updFielder f (fun x => { x with pc := pc }) :=
  (if_neg (FSt.active_runs h)).trans (if_pos ⟨hc, ht, ha⟩)

theorem Chip.trap_handler (ha : ¬ (c.fielder f).MissesAgain cause pc) (hb : cause ≠ 3 ∨ c.jtag.testMode = false) :
    c.trap f cause pc tval = (c.updFielder f (fun x => { x with
      mepc := pc &&& ~~~(1 : Word), mcause := cause.zeroExtend 32, mtval := tval, mpie := x.mie, mie := false
      pc := (c.fielder f).mtvec &&& ~~~(3 : Word) })).offers := by
  have hbrk : ¬ (cause = 3 ∧ c.jtag.testMode = true ∧ c.jtag.attached = true) := fun hh =>
    hb.elim (fun hne => hne hh.1) (fun hf => Bool.noConfusion (hf.symm.trans hh.2.1))
  exact (((if_neg (FSt.active_runs h)).trans (if_neg hbrk)).trans (if_neg (fun hh => ha hh.2))).trans
    (congrArg Chip.offers (Chip.updFielder_congr c f _ _ rfl))

end

/-! ### WFI, timers and the watchdog -/

theorem Chip.wfiWake_none (h : c.wakeSource f = none) : c.wfiWake f = c := by
  simp only [Chip.wfiWake, h]

theorem Chip.wfiWake_source (h : c.wakeSource f = some n) (hw : (c.fielder f).wfi = true) : c.wfiWake f = c.updFielder f (fun x => { x with
    wfi := false, wake := x.wake ||| 1, lastSrc := BitVec.ofNat 9 n }) := by
  simp only [Chip.wfiWake, h, hw, if_true]

theorem Chip.ftimerEnd_runs (h : (c.fielder f).ftRun = true) :
    c.ftimerEnd f = (c.updFielder f (fun x => { x with ftRun := bitAt x.ftimer 24, ftFrom := c.us })).pend (32 + f) := if_pos h

theorem Chip.fwdogEnd_off (h : (c.fielder f).fwdog = 0) : c.fwdogEnd f = c := if_pos (Or.inr (Or.inl h))

section

variable (h : (c.fielder f).st = .active) (hdog : (c.fielder f).fwdog ≠ 0) (hwfi : (c.fielder f).wfi = false)

include h hdog hwfi

theorem Chip.fwdog_runs : ¬ ((c.fielder f).st ≠ .active ∨ (c.fielder f).fwdog = 0 ∨ (c.fielder f).wfi = true) := by
  rintro (hst | h0 | hw)
  · exact hst h
  · exact hdog h0
  · exact Bool.noConfusion (hwfi.symm.trans hw)

theorem Chip.fwdogEnd_barks (hb : (c.fielder f).barked = false) :
    c.fwdogEnd f = (c.updFielder f (fun x => { x with barked := true })).pend (44 + f) :=
  (if_neg (Chip.fwdog_runs h hdog hwfi)).trans (if_neg (ne_true_of_eq_false hb))

theorem Chip.fwdogEnd_bites (hb : (c.fielder f).barked = true) : c.fwdogEnd f = c.fault f .watchdog :=
  (if_neg (Chip.fwdog_runs h hdog hwfi)).trans (if_pos hb)

end

/-! ### Locks -/

theorem Chip.flockRead_free (h : (c.fielder f).st = .active) (hl : Tbl.get none c.locks i = none) :
    c.flockRead f i = ({ c with locks := Tbl.set none c.locks i (some f) } : Chip).emit (.load f 0) := by
  simp only [Chip.flockRead, Chip.byActive_on h, hl]

theorem Chip.flockRead_taken (h : (c.fielder f).st = .active) (hl : Tbl.get none c.locks i = some k) :
    c.flockRead f i = c.emit (.load f (toWord (k + 2 ^ 31))) := by
  simp only [Chip.flockRead, Chip.byActive_on h, hl]

theorem next_act_same {s : State} {a b : Chip → Chip} (h : a s.chip = b s.chip) :
    (Host.Outcome.next (s.act a) : Host.Outcome State Fault Refusal) = .next (s.act b) := next_act h

/-- Settles O45: each access and event by its row of R315 to R333. -/
theorem fielderRegistersAct : Obligations.FielderRegistersAct := by
  intro s f i val pc tval mie meie cause n k c x base upd
  refine ⟨next_act rfl, next_act rfl, fun h => next_act (Chip.trap_out h), ?traps, fun h => next_act (Chip.byActive_on h _),
    fun h => next_act (Chip.byActive_off h _), fun h => next_act (Chip.wfiWake_none h),
    fun h hw => next_act (Chip.wfiWake_source h hw), next_act rfl, fun h => next_act (Chip.ftimerEnd_runs h),
    fun h => next_act (if_neg (ne_true_of_eq_false h)), fun h => next_act (Chip.byActive_on h _),
    fun h hdog hwfi => ⟨fun hb => next_act (Chip.fwdogEnd_barks h hdog hwfi hb),
      fun hb => next_act_same (Chip.fwdogEnd_bites h hdog hwfi hb)⟩,
    fun h => next_act (Chip.fwdogEnd_off h), fun h hl => next_act (Chip.flockRead_free h hl),
    fun h hl => next_act (Chip.flockRead_taken h hl), fun h => next_act (if_pos h), fun h => next_act (if_neg h)⟩
  case traps =>
    intro again
    exact ⟨fun h ha => next_act_same (Chip.trap_again h ha), fun h hc ht ha => next_act (Chip.trap_break h hc ht ha),
      fun h ha hb => next_act (Chip.trap_handler h ha hb)⟩

end Sys2Proof.Machine
end

/-! Faults of Fielders and the roles they leave (R317 to R319, R338, R339, R404, R406). -/
section

namespace Sys2Proof.Machine

variable {c d : Chip} {f b : Nat}

/-! ### What offers and the fault log leave unchanged -/

theorem Chip.offers_only (c : Chip) : c.OffersOnly c.offers := by
  have hone (c : Chip) (s : Nat × Src) : c.OffersOnly (c.offerOne s.1 s.2) := by
    rcases c.offerOne_cases s.1 s.2 with ⟨h, _⟩ | ⟨f, hf, _, _, _, h⟩ | ⟨h, _⟩
    · rw [h]; exact .refl c
    · rw [h]; exact Chip.OffersOnly.updOffer c hf _
    · rw [h]; exact .refl c
  have hfold (l : List (Nat × Src)) (c : Chip) : c.OffersOnly (l.foldl (fun (c : Chip) s => c.offerOne s.1 s.2) c) := by
    induction l generalizing c with
    | nil => exact .refl c
    | cons s t ih => exact (hone c s).trans (ih _)
  rw [Chip.offers_eq]
  exact (Chip.withdraw_spec (List.range 12) (fun f hf => List.mem_range.1 hf) c).1.trans (hfold _ _)

theorem Chip.faultLogged_fielders (c : Chip) (e : Flog) : (c.faultLogged e).fielders = c.fielders := by
  unfold Chip.faultLogged
  extract_lets d1
  split
  · unfold Chip.mgrEvent
    split
    · rfl
    · obtain ⟨x, o, fr, -, h⟩ := c.post_frame 0 { body := .event evError noSubject d1 e.seq } (show 0 < 128 by decide)
      rw [Chip.event, h]
  · rfl

/-- An entry in the fault log may fire source 450, which is offered: a Fielder's state stays. -/
theorem Chip.log_st (c : Chip) (block cls loc d0 d1 outcome f : Nat) :
    ((c.log block cls loc d0 d1 outcome).fielder f).st = (c.fielder f).st := by
  have hreports : ∀ (p : Bool) (d : Chip) (e : Flog), (((if p = true then d.faultLogged e else d) : Chip).fielder f).st
      = (d.fielder f).st := fun p d e => by
    split
    · rw [Chip.fielder, Chip.faultLogged_fielders, ← Chip.fielder]
    · rfl
  have hpend : ∀ d : Chip, ((d.pend 450).fielder f).st = (d.fielder f).st := fun d => by
    rw [Chip.pend, (Chip.offers_only _).fielder f]
    rfl
  have hmark : ∀ d : Chip, (((if c.rel.unread = 47 then d.pend 450 else d) : Chip).fielder f).st = (d.fielder f).st := fun d => by
    split
    · exact hpend d
    · rfl
  unfold Chip.log
  split
  · exact hreports _ _ _
  · exact (hreports _ _ _).trans (hmark _)

/-! ### The fault -/

/-- The Fielder leaves ACTIVE, with its claim returned already (R319, R404). -/
def Chip.leftActive (c : Chip) (f : Nat) (k : FaultKind) : Chip :=
  (({ c with locks := c.locks.filter (fun l => l.2 != some f) } : Chip).updFielder f (fun x => { x with
    st := if k = .correctedReg then FSt.test else FSt.halted, offer := none, wfi := false, fwdog := 0, barked := false
    ftRun := false })).offers.updFielder f (fun x => { x with badIram := x.badIram || faultInIram k })

/-- The fault of Fielder `f`, whose role and program counter were those of `x`, is logged, and its role moves. -/
def Chip.faultMoved (d : Chip) (f : Nat) (x : Fielder) (k : FaultKind) : Chip :=
  let loc := f + 2 ^ 8 * x.role.toNat
  let helped := d.freeBench.isSome && d.roleCopy f
  let l := d.log (0x21 + f) 3 loc x.mepc.toNat (faultCode k) (if helped = true then 8 else 152)
  let m := if helped = true then l else l.log 0x20 0x0B 0x20 0 0 0
  (((m.pend 452).abortMail f).moveRole f).queueCheck (.fielder f l.lastLog) l.lastLog

theorem faultCode_corrected (k : FaultKind) : faultCode k = 0 ↔ k = .correctedReg := by
  cases k with
  | correctedReg => exact ⟨fun _ => rfl, fun _ => rfl⟩
  | uncorrectable b => exact ⟨fun h => Nat.noConfusion h, fun h => FaultKind.noConfusion h⟩
  | watchdog => exact ⟨fun h => Nat.noConfusion h, fun h => FaultKind.noConfusion h⟩
  | fetchLoop => exact ⟨fun h => Nat.noConfusion h, fun h => FaultKind.noConfusion h⟩

theorem Chip.fault_active (k : FaultKind) (h : (c.fielder f).st = .active) :
    c.fault f k = ((c.returnClaim f).leftActive f k).faultMoved f (c.fielder f) k := by
  have hlocks : (c.returnClaim f).locks = c.locks := by
    unfold Chip.returnClaim
    split
    · rfl
    · rfl
  have hdest : (if faultCode k = 0 then FSt.test else FSt.halted) = if k = .correctedReg then FSt.test else FSt.halted :=
    if_congr (faultCode_corrected k) rfl rfl
  refine (if_pos h).trans ?_
  rw [hdest]
  simp only [Chip.leaveActive, ← hlocks]
  rfl

theorem Chip.returnClaim_none (h : (c.fielder f).claim = none) : c.returnClaim f = c := by
  simp only [Chip.returnClaim, h]

theorem Chip.returnClaim_some {n p : Nat} (h : (c.fielder f).claim = some (n, p)) : c.returnClaim f
    = (c.updSrc n (fun y => { y with serv := false, pend := true })).updFielder f (fun x => { x with claim := none }) := by
  simp only [Chip.returnClaim, h]

theorem Chip.fault_out (k : FaultKind) (ha : (c.fielder f).st ≠ .active) (hb : (c.fielder f).st ≠ .bench) : c.fault f k = c :=
  (if_neg ha).trans (if_neg (fun h => hb h.1))

/-! ### The role moves -/

theorem Chip.moveRole_idle (hph : c.fw.phase = .idle) (hfw : c.boot.fwRunning = true) : c.moveRole f = c.takeOver f := by
  simp only [Chip.moveRole, hph, hfw, if_true]

theorem Chip.takeOver_suspends (h : c.freeBench = none ∨ c.roleCopy f = false) : c.takeOver f = c.suspendRole f := by
  rcases h with h | h
  · simp only [Chip.takeOver, h]
  · cases hb : c.freeBench with
    | none => simp only [Chip.takeOver, hb]
    | some b => simp only [Chip.takeOver, hb, h, Bool.false_eq_true, if_false]

theorem Chip.takeOver_bench (hb : c.freeBench = some b) (h : c.roleCopy f = true) : c.takeOver f
    = (c.updFielder b (fun y => { y with takes := some f })).updFielder f (fun x => { x with owed := false }) := by
  simp only [Chip.takeOver, hb, h, if_true]

theorem Chip.copyDone_bench (htakes : (c.fielder b).takes = some f) (hst : (c.fielder b).st = .bench) :
    let x := c.fielder f
    let g := ((c.fieldersIn .active).find? (fun g => (c.fielder g).role == x.role && !(c.fielder g).badIram)).getD f
    let d := ({ c with ram := (c.ram.copy (iramBase b) c.ram (iramBase g) 65536).replace (dramBase b) 65536 [] } : Chip).dozeExit
    c.copyDone b = { (d.startFielder b x.role x.vbank x.newImage).updFielder b (fun y => { y with takes := some f }) with
      fw := { d.fw with bench := none, visit := d.fw.visit.map (fun g => if g = f then b else g) } } := by
  intro x g d
  simp only [Chip.copyDone, htakes, hst, if_true]
  rfl

theorem Chip.copyDone_none (htakes : (c.fielder b).takes = none) : c.copyDone b = c := by
  simp only [Chip.copyDone, htakes]

section

variable {val : Word} (hval : bitAt val 0 = true) (hst : (c.fielder b).st = .active)

include hval hst

theorem Chip.fready_again (hready : (c.fielder b).ready = true) :
    c.fready b val = c.updFielder b (fun y => { y with ready := true }) := by
  simp only [Chip.fready, hval, hst, hready, bne_self_eq_false, Bool.not_true, Bool.or_self, Bool.false_eq_true, if_false, if_true]

/-- Outside an installation or a swap, the Fielder that takes over another's role gets its work and targets (R318, R339). -/
theorem Chip.fready_takes (hready : (c.fielder b).ready = false) (hph : c.fw.phase = .idle) (hne : f ≠ b)
    (htakes : (c.fielder b).takes = some f) : c.fready b val
      = ((((c.updFielder b (fun y => { y with ready := true })).updFielder b (fun y => { y with
        takes := none, suspRole := none })).passHeld f b).moveService f b) := by
  have hph' : (c.updFielder b (fun y => { y with ready := true })).fw.phase = .idle := hph
  have htakes' : ((c.updFielder b (fun y => { y with ready := true })).fielder b).takes = some f := by
    rw [Chip.fielder_updFielder_same]
    exact htakes
  simp only [Chip.fready, hval, hst, hready, bne_self_eq_false, Bool.not_true, Bool.or_self, Bool.false_eq_true, if_false, hph',
    htakes', if_neg hne, reduceCtorEq, false_and]

end

theorem Chip.fready_none {val : Word} (hval : bitAt val 0 = false) : c.fready b val = c := if_pos (by rw [hval]; rfl)

/-! ### The role is suspended -/

theorem Chip.taker_none (h : ∀ g, g < 12 → g ≠ f → (c.fielder g).takes ≠ some f) :
    (List.range 12).find? (fun g => (c.fielder g).takes == some f && g != f) = none := by
  rw [List.find?_eq_none]
  intro g hg
  rw [Bool.and_eq_true, not_and, beq_iff_eq, bne_iff_ne, not_not]
  exact fun htakes => not_not.mp (fun hne => h g (List.mem_range.1 hg) hne htakes)

theorem Chip.roleSuspend_owed (hst : (c.fielder f).st = .halted) (howed : (c.fielder f).owed = true)
    (h : ∀ g, g < 12 → g ≠ f → (c.fielder g).takes ≠ some f) : c.roleSuspend f = c.suspendRole f := by
  simp only [Chip.roleSuspend, Chip.taker_none h]
  exact if_pos ⟨Or.inl hst, howed⟩

theorem Chip.roleSuspend_active (hst : (c.fielder f).st = .active) (h : ∀ g, g < 12 → g ≠ f → (c.fielder g).takes ≠ some f) :
    c.roleSuspend f = c := by
  simp only [Chip.roleSuspend, Chip.taker_none h]
  refine if_neg (fun hh => ?_)
  rw [hst] at hh
  exact absurd hh.1 (by decide)

theorem Chip.taker_first (hb : b < 12) (hne : f ≠ b) (htakes : (c.fielder b).takes = some f)
    (h : ∀ g, g < b → g ≠ f → (c.fielder g).takes ≠ some f) :
    (List.range 12).find? (fun g => (c.fielder g).takes == some f && g != f) = some b := by
  rw [List.find?_range_eq_some]
  refine ⟨by rw [htakes]; simp [hne.symm], List.mem_range.2 hb, fun g hg => ?_⟩
  rw [Bool.not_eq_true', Bool.and_eq_false_iff, beq_eq_false_iff_ne, bne_eq_false_iff_eq]
  by_cases hgf : g = f
  · exact Or.inr hgf
  · exact Or.inl (h g hg hgf)

/-- The bench that was to take the role is not ready in time. -/
theorem Chip.roleSuspend_late (hb : b < 12) (hne : f ≠ b) (hst : (c.fielder b).st = .bench) (htakes : (c.fielder b).takes = some f)
    (h : ∀ g, g < b → g ≠ f → (c.fielder g).takes ≠ some f) :
    let d := c.log (0x21 + b) 4 b 2 0 24
    c.roleSuspend f = (({ d.updFielder b (fun y => { y with takes := none, st := .bench }) with
      fw := { d.fw with bench := some b } } : Chip).suspendRole f).queueCheck (.fielder b d.lastLog) d.lastLog := by
  intro d
  have hstay : ¬ (d.fielder b).st = .active := by
    rw [show (d.fielder b).st = .bench from (c.log_st _ _ _ _ _ _ b).trans hst]
    decide
  simp only [Chip.roleSuspend, Chip.taker_first hb hne htakes h]
  rw [if_neg hstay]

/-- Settles O46: faults, takeovers and suspensions. -/
theorem fielderFaultsMoveTheRole : Obligations.FielderFaultsMoveTheRole := by
  intro s f b val k n p c x y dest left rest susp
  refine ⟨fun h hclaim => ?free, fun h hclaim => ?claimed, fun ha hb => next_act (Chip.fault_out k ha hb),
    fun hph hfw => ⟨fun h => (Chip.moveRole_idle hph hfw).trans (Chip.takeOver_suspends h),
      fun hb h => (Chip.moveRole_idle hph hfw).trans (Chip.takeOver_bench hb h)⟩,
    fun htakes hst => next_act (Chip.copyDone_bench htakes hst), fun htakes => next_act (Chip.copyDone_none htakes),
    fun hval hst hready => next_act (Chip.fready_again hval hst hready),
    fun hval hst hready hph hne htakes => next_act (Chip.fready_takes hval hst hready hph (fun h => hne (Fin.ext h)) htakes),
    fun hval => next_act (Chip.fready_none hval), fun hst howed h => next_act (Chip.roleSuspend_owed hst howed h),
    fun hne hst htakes h => ?late,
    fun hst h => next_act (Chip.roleSuspend_active hst h)⟩
  case late =>
    have hsusp : ∀ d : Chip, susp d = d.suspendRole f.val := fun _ => rfl
    intro d
    rw [hsusp]
    exact next_act (Chip.roleSuspend_late b.isLt (fun h => hne (Fin.ext h)) hst htakes h)
  case free =>
    exact next_act (d := (c.leftActive f.val k).faultMoved f.val x k) (by rw [Chip.fault_active k h, Chip.returnClaim_none hclaim])
  case claimed =>
    exact next_act (d := (((c.updSrc n (fun y => { y with serv := false, pend := true })).updFielder f.val (fun x => { x with
      claim := none })).leftActive f.val k).faultMoved f.val x k) (by rw [Chip.fault_active k h, Chip.returnClaim_some hclaim])

end Sys2Proof.Machine
end

/-! Entry and exit (R377 to R379). The statement's abandoned entry leaves out the Huddle decisions that fell due, which the model
makes where an entry ends (R376): a state with one due tells the two apart. -/
section
namespace Sys2Proof.Machine

/-- At AP1, with a wake that waits and a Huddle decision of the PF's completion ring 0 that fell due. -/
def decisionDue : State :=
  { pending := [], stage := []
    chip := { insts := [(0, { crings := [(0, { due := true })] })], pwr := { st := .ap1, wakeDue := true } } }

/-- Its chip with the entry abandoned at AP2 as the statement has it: no Huddle decision is made. -/
def decisionDue.undecided : Chip :=
  (((({ decisionDue.chip with pwr := { decisionDue.chip.pwr with
    lastAp := 2, unwound := true, wakeSrc := false, st := .run, target := 0, wakeDue := false } } : Chip).wakeAll
      8).wakeCharging.fabWake true).pend 464)

/-- What the chip has put out after a command, the newest first. -/
def outAfter : Host.Outcome State Fault Refusal → List Out
  | .next s => s.chip.out
  | _ => []

/-- The model makes the decision: its read goes out (R82, R376). -/
theorem decisionDue_decides : (outAfter (exec .fielderStateSaved decisionDue)).length = 1 := by decide +kernel

theorem decisionDue_undecided_silent :
    (outAfter (.next (decisionDue.onward decisionDue.undecided))).length = 0 := by decide +kernel

/-- Refutes O49: a wake that waits at AP2 abandons the entry, and the abandoned entry makes the Huddle decisions that fell due
(`decisionDue`: one read goes out), which the statement's clause leaves out. -/
theorem not_entryAndExitSteps : ¬ Obligations.EntryAndExitSteps := by
  intro h
  obtain ⟨-, hunwound, -⟩ := h decisionDue .slTimer 0 0 .smbus
  have hsaved : exec .fielderStateSaved decisionDue = .next (decisionDue.onward decisionDue.undecided) := (hunwound rfl).1 rfl
  have hout := decisionDue_decides
  rw [hsaved, decisionDue_undecided_silent] at hout
  exact absurd hout (by decide)

end Sys2Proof.Machine
end

/-! DOZE and the scrum (R372, R375, R376). -/
section
namespace Sys2Proof.Machine

variable {c : Chip} {w : Writer} {val : Word}

/-- PWR_MODE where no report is due: its fields, and no event (R372). -/
theorem Chip.pwrMode_quiet (h : c.pwr.dozeDue = false ∨ fld val 1 0 ≠ 0) :
    c.pwrMode w val = { c with pwr := { c.pwr with
      target := BitVec.ofNat 2 (fld val 1 0)
      limit := match w with
        | .fielder _ => c.pwr.limit
        | _ => BitVec.ofNat 2 (fld val 5 4)
      dozeTold := false } } := by
  have hfld : fld val 1 0 < 4 := fld_lt val 1 0
  have hdue : ((BitVec.ofNat 2 (fld val 1 0) == 0) && c.pwr.dozeDue) = false := by
    rcases h with h | h
    · rw [h, Bool.and_false]
    · have : BitVec.ofNat 2 (fld val 1 0) ≠ 0 := fun h0 => h (by simpa [BitVec.toNat_ofNat, Nat.mod_eq_of_lt hfld] using congrArg BitVec.toNat h0)
      rw [beq_false_of_ne this, Bool.false_and]
  unfold Chip.pwrMode
  simp only [hdue, Bool.not_false, Bool.and_true, Bool.false_eq_true, if_false] <;> rfl

/-- PWR_MODE with TARGET 0 after a DOZE that was reported: the manager hears of it once (R375). -/
theorem Chip.pwrMode_told (hdue : c.pwr.dozeDue = true) (h0 : fld val 1 0 = 0) :
    c.pwrMode w val = ({ c with pwr := { c.pwr with
      target := 0
      limit := match w with
        | .fielder _ => c.pwr.limit
        | _ => BitVec.ofNat 2 (fld val 5 4)
      dozeTold := false
      dozeDue := false } } : Chip).mgrEvent evPower noSubject 0 0 := by
  unfold Chip.pwrMode
  rw [h0]
  simp only [hdue, BitVec.ofNat_eq_ofNat, beq_self_eq_true, Bool.true_and, Bool.not_true, if_true] <;> rfl

theorem Chip.doze_enters (hst : c.pwr.st = .run) (ht : c.pwr.target = 1) (hl : c.pwr.limit ≠ 0) (hw : c.allWfi = true) :
    c.doze = let d : Chip := { c with pwr := { c.pwr with st := .doze, dozeTold := true, dozeDue := true } }
      if c.pwr.dozeTold then d else d.mgrEvent evPower noSubject 1 0 :=
  if_pos ⟨hst, ht, hl, hw⟩

theorem Chip.doze_stays (h : c.pwr.st ≠ .run ∨ c.pwr.target ≠ 1 ∨ c.pwr.limit = 0 ∨ c.allWfi = false) : c.doze = c :=
  if_neg fun ⟨hst, ht, hl, hw⟩ => by
    rcases h with h | h | h | h
    · exact h hst
    · exact h ht
    · exact hl h
    · exact absurd hw (ne_true_of_eq_false h)

theorem Chip.scrum_starts (hst : c.pwr.st = .run ∨ c.pwr.st = .doze) (ht : 2 ≤ c.pwr.target) (hw : c.allWfi = true) :
    c.scrum = ({ c with pwr := { c.pwr with
      st := .phase1, goal := c.pwr.target, lastAp := 0, unwound := false, wakeDue := false } } : Chip).sleepCharging :=
  if_pos ⟨hst, ht, hw⟩

theorem Chip.scrum_stays (h : c.pwr.target < 2 ∨ c.allWfi = false) : c.scrum = c :=
  if_neg fun ⟨_, ht, hw⟩ => by
    rcases h with h | h
    · exact absurd ht (BitVec.not_le.mpr h)
    · exact absurd hw (ne_true_of_eq_false h)

variable {b n phase step : Nat} {e : WakeEvent}

/-- A block that no port's wake stands for refuses (R376). -/
theorem Chip.refuseOrWake_stays (h : (b ≠ 0x1B ∧ b ≠ 0x1C) ∨ c.portsWake = none) :
    c.refuseOrWake b phase step = c.refuse b phase step := by
  have hnone : (if b = 0x1B ∨ b = 0x1C then c.portsWake else none) = none := by
    rcases h with ⟨h1, h2⟩ | h
    · exact if_neg (not_or.mpr ⟨h1, h2⟩)
    · rw [h, ite_self]
  unfold Chip.refuseOrWake
  rw [hnone]

/-- A busy port whose condition is an enabled wake wakes the chip instead (R376). -/
theorem Chip.refuseOrWake_wakes (h : (b = 0x1B ∨ b = 0x1C) ∧ c.portsWake = some e) :
    c.refuseOrWake b phase step = c.wake e := by
  unfold Chip.refuseOrWake
  rw [if_pos h.1, h.2]

theorem Chip.scrum1_passes (hst : c.pwr.st = .phase1) (hr : c.refusal1 = none) :
    c.scrum1 = { c with pwr := { c.pwr with st := .phase2 0 } } := by
  unfold Chip.scrum1
  rw [if_pos hst, hr]

theorem Chip.scrum1_refused (hst : c.pwr.st = .phase1) (hr : c.refusal1 = some b) : c.scrum1 = c.refuseOrWake b 1 0 := by
  unfold Chip.scrum1
  rw [if_pos hst, hr]

theorem Chip.scrum2_refused (hst : c.pwr.st = .phase2 n) (hr : c.refusal2 (n + 1) = some b) :
    c.scrum2 = c.refuseOrWake b 2 (n + 1) := by
  unfold Chip.scrum2
  rw [hst]
  simp only [hr]

theorem Chip.scrum2_passes (hst : c.pwr.st = .phase2 n) (hr : c.refusal2 (n + 1) = none) :
    c.scrum2 = if n = 12 then c.abortPoint 1 .ap1 else { c with pwr := { c.pwr with st := .phase2 (n + 1) } } := by
  unfold Chip.scrum2
  rw [hst]
  simp only [hr]

theorem Chip.scrum2_idle (hst : c.pwr.st = .run) : c.scrum2 = c := by
  unfold Chip.scrum2
  rw [hst]

/-- An abort point with no wake waiting is passed (R378). -/
theorem Chip.abortPoint_passes {st : PwrSt} (h : c.pwr.wakeDue = false) :
    c.abortPoint n st = { c with pwr := { c.pwr with st := st, lastAp := BitVec.ofNat 3 n } } :=
  if_neg (ne_true_of_eq_false h)

/-- What a refusal writes, ends and sets (R376). -/
theorem Chip.refuse_phase1 : c.refuse b 1 step = ((({ c with
    spin := c.spin.spend 1
    pwr := { c.pwr with
      refuse1 := c.pwr.refuse1 + 1, refuse2 := c.pwr.refuse2, refBlock := BitVec.ofNat 6 b, refPhase := BitVec.ofNat 2 1,
      refTarget := c.pwr.goal, refStep := BitVec.ofNat 4 step, st := .run, target := 0, wakeDue := false } } : Chip).wakeAll
        8).wakeCharging.huddleDue.abandonTap.pend 417) := rfl

theorem Chip.refuse_phase2 : c.refuse b 2 step = ((({ c with
    spin := c.spin.spend 2
    pwr := { c.pwr with
      refuse1 := c.pwr.refuse1, refuse2 := c.pwr.refuse2 + 1, refBlock := BitVec.ofNat 6 b, refPhase := BitVec.ofNat 2 2,
      refTarget := c.pwr.goal, refStep := BitVec.ofNat 4 step, st := .run, target := 0, wakeDue := false } } : Chip).wakeAll
        8).wakeCharging.huddleDue.abandonTap.pend 417) := rfl

/-- A setup write by a writer that may make it acts; another's only counts for the key sequence of SPIN (R242, R419). -/
theorem next_byMgr {s : State} {f : Chip → Chip} {d : Chip} (hm : s.chip.isMgr w = true) (h : f s.chip.spinBreak = d) :
    (.next (s.act fun c => c.setup w f) : Host.Outcome State Fault Refusal) = .next (s.onward d) :=
  next_act ((Chip.setup_byMgr hm f).trans h)

theorem next_foreign {s : State} {f : Chip → Chip} (hm : s.chip.isMgr w = false) :
    (.next (s.act fun c => c.setup w f) : Host.Outcome State Fault Refusal) = .next (s.onward s.chip.spinBreak) :=
  next_act (if_neg (ne_true_of_eq_false hm))

/-- Settles O47: each command's cases, one lemma of the model's function for each. -/
theorem dozeAndScrums : Obligations.DozeAndScrums := by
  unfold Obligations.DozeAndScrums
  refine ⟨fun s w val => ⟨fun hm => next_foreign hm, fun hm => ⟨fun h => ?quiet, fun hd h0 => ?told⟩,
    fun hst ht hl hw => ⟨fun hd => ?again, fun hd => ?first⟩, fun h => next_act (Chip.doze_stays h)⟩,
    fun s n b e => ⟨fun hst ht hw => next_act (Chip.scrum_starts hst ht hw), fun h => next_act (Chip.scrum_stays h),
      fun hst => ⟨fun hr => next_act (Chip.scrum1_passes hst hr), fun hr hs => ?refused1, fun hr hw => ?woken1⟩,
      fun hst => next_act (if_neg hst),
      fun hst => ⟨fun hr hn => ?stops, fun hr hn hdue => ?ap1, fun hr hw => ?woken2, fun hr hs => ?refused2⟩,
      fun hst => next_act (Chip.scrum2_idle hst)⟩⟩
  case quiet => exact next_byMgr hm (congrArg Chip.askSleep (Chip.pwrMode_quiet h))
  case told => exact next_byMgr hm (congrArg Chip.askSleep (Chip.pwrMode_told hd h0))
  case again => exact next_act ((Chip.doze_enters hst ht hl hw).trans (if_pos hd))
  case first => exact next_act ((Chip.doze_enters hst ht hl hw).trans (if_neg (ne_true_of_eq_false hd)))
  case refused1 =>
    exact next_act ((Chip.scrum1_refused hst hr).trans ((Chip.refuseOrWake_stays hs).trans Chip.refuse_phase1))
  case woken1 => exact next_act ((Chip.scrum1_refused hst hr).trans (Chip.refuseOrWake_wakes hw))
  case stops => exact next_act ((Chip.scrum2_passes hst hr).trans (if_neg hn))
  case ap1 => exact next_act ((Chip.scrum2_passes hst hr).trans ((if_pos hn).trans (Chip.abortPoint_passes hdue)))
  case woken2 => exact next_act ((Chip.scrum2_refused hst hr).trans (Chip.refuseOrWake_wakes hw))
  case refused2 =>
    exact next_act ((Chip.scrum2_refused hst hr).trans ((Chip.refuseOrWake_stays hs).trans Chip.refuse_phase2))

end Sys2Proof.Machine
end

/-! DVFS and heat (R390 to R395). -/
section
namespace Sys2Proof.Machine

variable {c : Chip} {p : Pwr}

/-! ### Firing a source changes the Whistle alone -/

theorem Chip.OffersOnly.pwr {d : Chip} (h : c.OffersOnly d) : d.pwr = c.pwr := by rw [h.rest]
theorem Chip.OffersOnly.hold {d : Chip} (h : c.OffersOnly d) : d.hold = c.hold := by rw [h.rest]
theorem Chip.OffersOnly.boot {d : Chip} (h : c.OffersOnly d) : d.boot = c.boot := by rw [h.rest]

theorem Chip.pwr_pend (n : Nat) : (c.pend n).pwr = c.pwr := (Chip.offers_only _).pwr.trans (Chip.updSrc_pwr ..)
theorem Chip.hold_pend (n : Nat) : (c.pend n).hold = c.hold := (Chip.offers_only _).hold.trans (Chip.updSrc_hold ..)
theorem Chip.boot_pend (n : Nat) : (c.pend n).boot = c.boot := (Chip.offers_only _).boot.trans (Chip.updSrc_boot ..)
theorem Chip.clocked_pend (n : Nat) : (c.pend n).clocked = c.clocked := by
  unfold Chip.clocked
  rw [Chip.pwr_pend, Chip.boot_pend]

/-! ### Steps of DVFS -/

theorem Chip.dvfsStep_busy (h : c.pwr.dvfs ≠ .idle) : c.dvfsStep = { c with pwr := { c.pwr with pending := true } } := if_pos h

theorem Chip.dvfsStep_raise (h : c.pwr.dvfs = .idle) (hv : c.pwr.vid.toNat < c.pwr.wantVid) : c.dvfsStep = { c with
    pwr := { c.pwr with vid := BitVec.ofNat 4 c.pwr.wantVid, dvfs := .raise, stepFreq := c.pwr.wantFreq } } :=
  (if_neg (not_not_intro h)).trans (if_pos hv)

theorem Chip.dvfsStep_lower (h : c.pwr.dvfs = .idle) (hv : c.pwr.wantVid < c.pwr.vid.toNat) : c.dvfsStep = { c with
    pwr := { c.pwr with freqNow := c.pwr.wantFreq, vid := BitVec.ofNat 4 c.pwr.wantVid, dvfs := .lower } } :=
  (if_neg (not_not_intro h)).trans ((if_neg (Nat.lt_asymm hv)).trans (if_pos hv))

theorem Chip.dvfsStep_rests (h : c.pwr.dvfs = .idle) (hv : c.pwr.wantVid = c.pwr.vid.toNat) (hf : c.pwr.freqNow = c.pwr.wantFreq) :
    c.dvfsStep = { c with pwr := { c.pwr with pending := false } } :=
  (if_neg (not_not_intro h)).trans ((if_neg (by rw [hv]; exact Nat.lt_irrefl _)).trans
    ((if_neg (by rw [hv]; exact Nat.lt_irrefl _)).trans (if_neg (not_not_intro hf))))

theorem Chip.vrdy_raise (hst : ∀ n, c.pwr.st ≠ .exiting n) (h : c.pwr.dvfs = .raise) :
    c.vrdy = { c with pwr := { c.pwr with dvfs := .settle } } := by
  unfold Chip.vrdy
  split
  · next hx => exact absurd hx (hst 1)
  · rw [h]

theorem Chip.vrdy_lower (hst : ∀ n, c.pwr.st ≠ .exiting n) (h : c.pwr.dvfs = .lower) :
    c.vrdy = (({ c with pwr := c.pwr.stepEnd } : Chip).pend 420).dvfsStep := by
  unfold Chip.vrdy
  split
  · next hx => exact absurd hx (hst 1)
  · rw [h]

theorem Chip.dvfsLate_idle (h : c.pwr.dvfs = .idle) : c.dvfsLate = c := if_neg (by rw [h]; decide)

/-! ### Samples and the throttle -/

/-- A sample that passes a threshold fires its source (R394). -/
def Chip.passes (was temp : Int) (t : Byte) (k : Nat) (c : Chip) : Chip := if was ≤ t.toNat ∧ t.toNat < temp then c.pend k else c

theorem Chip.clocked_ite_pend (b : Prop) [Decidable b] (k : Nat) : (if b then c.pend k else c).clocked = c.clocked := by
  split
  · exact Chip.clocked_pend k
  · rfl

theorem Chip.hold_ite_pend (b : Prop) [Decidable b] (k : Nat) : (if b then c.pend k else c).hold = c.hold := by
  split
  · exact Chip.hold_pend k
  · rfl

theorem Chip.pwr_ite_pend (b : Prop) [Decidable b] (k : Nat) : (if b then c.pend k else c).pwr = c.pwr := by
  split
  · exact Chip.pwr_pend k
  · rfl

/-- What a sample is taken in as. -/
def Chip.sampled (c : Chip) (temp : Int) : Chip := { c with pwr := { c.pwr with
    temp := temp, hotRuns := if 135 ≤ temp then c.pwr.hotRuns + 1 else 0
    relaxed := c.pwr.relaxed && decide (temp < c.pwr.low.toNat) } }

/-- While the core is clocked, the thresholds that a sample passes fire their sources. -/
theorem Chip.passes_clocked {was temp : Int} {t : Byte} {k : Nat} (h : c.clocked = true) :
    (if c.clocked && (decide (was ≤ t.toNat) && decide (t.toNat < temp)) then c.pend k else c) = c.passes was temp t k := by
  unfold Chip.passes
  rw [h, Bool.true_and]
  simp only [Bool.and_eq_true, decide_eq_true_eq]

theorem Chip.thermal_eq {temp : Int} : c.thermal temp =
    (let d := c.sampled temp
     let passed (t : Byte) : Bool := decide (c.pwr.temp ≤ t.toNat) && decide (t.toNat < temp)
     let e := if d.clocked && passed c.pwr.high then d.pend 421 else d
     let f := if e.clocked && passed e.pwr.warn then e.pend 423 else e
     if (decide (135 ≤ temp) && decide (1 ≤ c.pwr.hotRuns)) && !f.hold.trip then f.thermalTrip else f) := by
  unfold Chip.thermal
  simp only [decide_eq_true_eq]
  rfl

/-- A sample with the core clocked that is not the second in a row of at least 135 degrees. -/
theorem Chip.thermal_sampled {temp : Int} (h : temp < 135 ∨ c.pwr.hotRuns = 0) (hc : c.clocked = true) :
    c.thermal temp = ((c.sampled temp).passes c.pwr.temp temp c.pwr.high 421).passes c.pwr.temp temp c.pwr.warn 423 := by
  have htwo : (decide (135 ≤ temp) && decide (1 ≤ c.pwr.hotRuns)) = false := by
    rcases h with h | h
    · rw [decide_eq_false (by omega), Bool.false_and]
    · rw [h]; exact Bool.and_false _
  have hs : (c.sampled temp).clocked = true := hc
  rw [Chip.thermal_eq, htwo]
  dsimp only
  have hp : ((c.sampled temp).passes c.pwr.temp temp c.pwr.high 421).clocked = true := (Chip.clocked_ite_pend ..).trans hs
  rw [Chip.passes_clocked hs, Chip.passes_clocked hp,
    show ((c.sampled temp).passes c.pwr.temp temp c.pwr.high 421).pwr = (c.sampled temp).pwr from Chip.pwr_ite_pend ..]
  rfl

/-- The second sample in a row of at least 135 degrees trips the chip (R395). -/
theorem Chip.thermal_trips {temp : Int} (h : 135 ≤ temp) (hr : 1 ≤ c.pwr.hotRuns) (ht : c.hold.trip = false) :
    ∃ d : Chip, c.thermal temp = d.thermalTrip := by
  rw [Chip.thermal_eq, decide_eq_true h, decide_eq_true hr]
  dsimp only
  rw [if_pos]
  · exact ⟨_, rfl⟩
  · rw [Chip.hold_ite_pend, Chip.hold_ite_pend, show (c.sampled temp).hold.trip = false from ht]
    rfl

theorem Chip.coreCleared_thermalTrip : c.thermalTrip.coreCleared := by
  unfold Chip.coreCleared
  refine ⟨?_, ?_, ?_, ?_, ?_, ?_, ?_, ?_, ?_, ?_, ?_, ?_, ?_, ?_, ?_, ?_, ?_, ?_, ?_, ?_, ?_, ?_, ?_, ?_, ?_, ?_, ?_, ?_, ?_⟩ <;> rfl

theorem Chip.calmed_thermalTrip : c.thermalTrip.calmed = true := Chip.calmed_pfTable _ rfl rfl

theorem Chip.throttle_down (hh : c.pwr.high.toNat < c.pwr.temp) (hcap : c.pwr.cap ≠ 3) :
    c.throttle = (({ c with pwr := { c.pwr with cap := c.pwr.cap + 1 } } : Chip).mgrEvent evPower noSubject
      (toWord (flagAt (c.pwr.st == .doze) 0 + 2 ^ 4)) 0).dvfsStep := if_pos ⟨hh, hcap⟩

/-- The throttle goes up a level below LOW: the first time source 422 fires, and at the top the manager hears of it (R394). -/
theorem Chip.throttle_up (hl : c.pwr.temp < c.pwr.low.toNat) (hlh : c.pwr.low.toNat ≤ c.pwr.high.toNat) (hcap : c.pwr.cap ≠ 0) :
    c.throttle =
      (let x : Chip := { c with pwr := { c.pwr with cap := c.pwr.cap - 1, relaxed := true } }
       let y := if c.pwr.relaxed = true then x else x.pend 422
       (if c.pwr.cap = 1 then y.mgrEvent evPower noSubject (toWord (flagAt (c.pwr.st == .doze) 0 + 2 ^ 5)) 0 else y).dvfsStep) := by
  unfold Chip.throttle
  dsimp only
  rw [if_neg (by omega), if_pos ⟨hl, hcap⟩]
  have hy (x : Chip) : (if c.pwr.relaxed = true then x else x.pend 422).pwr = x.pwr := by
    split
    · rfl
    · exact Chip.pwr_pend 422
  rw [hy]
  refine congrArg Chip.dvfsStep (if_congr ?_ rfl rfl)
  exact sub_eq_zero

theorem Chip.throttle_stays (hl : c.pwr.low.toNat ≤ c.pwr.temp) (hh : c.pwr.temp ≤ c.pwr.high.toNat) : c.throttle = c :=
  (if_neg fun h => absurd h.1 (not_lt.mpr hh)).trans (if_neg fun h => absurd h.1 (not_lt.mpr hl))

/-- Settles O50: each command's cases, one lemma of the model's function for each. -/
theorem voltageAndHeatAct : Obligations.VoltageAndHeatAct := by
  unfold Obligations.VoltageAndHeatAct
  intro s w val temp
  refine ⟨fun hm => next_foreign hm, fun hm => ⟨fun h => ?busy, fun h hv => ?raise, fun h hv => ?lower, fun h hv hf => ?rests⟩,
    fun hst => ⟨fun h => next_act (Chip.vrdy_raise hst h), fun h => next_act (Chip.vrdy_lower hst h)⟩,
    fun h => next_act (if_pos h), fun h => next_act (if_neg h), fun h => next_act (if_pos h),
    fun h => next_act (Chip.dvfsLate_idle h), fun h hc => next_actReset (Chip.thermal_sampled h hc),
    fun h hr ht => ?trip, fun hh hcap => next_act (Chip.throttle_down hh hcap),
    fun hl hlh hcap => next_act (Chip.throttle_up hl hlh hcap), fun hl hh => next_act (Chip.throttle_stays hl hh)⟩
  case busy => exact next_byMgr hm (Chip.dvfsStep_busy h)
  case raise => exact next_byMgr hm (Chip.dvfsStep_raise h hv)
  case lower => exact next_byMgr hm (Chip.dvfsStep_lower h hv)
  case rests => exact next_byMgr hm (Chip.dvfsStep_rests h hv hf)
  case trip =>
    obtain ⟨d, hd⟩ := Chip.thermal_trips h hr ht
    exact ⟨_, congrArg Host.Outcome.next (State.actReset_eq hd Chip.calmed_thermalTrip rfl), rfl, rfl, rfl, rfl, rfl,
      Chip.coreCleared_thermalTrip, rfl⟩

end Sys2Proof.Machine
end

/-! Fabric ports, link control, replay and the loss of a link (R343, R345 to R347, R362). -/
section
namespace Sys2Proof.Machine

variable {c : Chip} {p : Nat} {h : LinkHdr}

theorem Chip.fabPort_updFab_same (f : FabPort → FabPort) : (c.updFab p f).fabPort p = f (c.fabPort p) := Tbl.get_upd_same ..
theorem Chip.fabPort_updFab_other {k : Nat} (hk : k ≠ p) (f : FabPort → FabPort) : (c.updFab p f).fabPort k = c.fabPort k :=
  (Tbl.get_upd ..).trans (if_neg hk)

/-! ### A link comes up -/

theorem Chip.fabSignal_trains (hst : (c.fabPort p).st = 0) (hon : c.fabPortOn p = true) :
    c.fabSignal p = c.updFab p (fun q => { q with st := 1 }) := if_pos ⟨hst, hon⟩

theorem Chip.fabSignal_ignored (h : (c.fabPort p).st ≠ 0 ∨ c.fabPortOn p = false) : c.fabSignal p = c :=
  if_neg fun ⟨hst, hon⟩ => h.elim (fun h => h hst) (fun h => absurd hon (ne_true_of_eq_false h))

theorem Chip.fabLock_ignored {lanes : Nat} (h : (c.fabPort p).st ≠ 1) : c.fabLock p lanes = c := if_neg fun hc => h hc.1

theorem Chip.fabLock_up {lanes : Nat} (hst : (c.fabPort p).st = 1) (hl : 1 ≤ min lanes (2 - c.fabLanesDown p)) :
    c.fabLock p lanes = ((c.updFab p (fun q => { q with
      st := 2, lanes := min lanes (2 - c.fabLanesDown p), peer := none, peerUid := 0, peerCaptain := 0, txSeq := 0, rxSeq := 0
      unacked := 0, tries := 0
      nakSent := false, credits := (16, 44, 4), owed := (0, 0, 0), withheld := (0, 0, 0), queue := [] })).linkSend p 0
        c.linkInfo).pend (392 + 8 * p) := if_pos ⟨hst, hl⟩

/-! ### Link-control frames -/

theorem Chip.recvLink_off {act : Chip → Chip} (h' : (c.fabPort p).st < 2 ∨ 4 < (c.fabPort p).st) : c.recvLink p h act = c := if_pos h'

theorem Chip.recvLink_bad {act : Chip → Chip} (hlo : 2 ≤ (c.fabPort p).st) (hhi : (c.fabPort p).st ≤ 4) (hg : h.good = false) :
    c.recvLink p h act = c.updFab p (fun q => { q with crc := q.crc + 1 }) :=
  (if_neg (by simp only [fsUp, fsExcluded]; omega)).trans (if_pos (by rw [hg]; rfl))

theorem Chip.recvLink_good {act : Chip → Chip} (hlo : 2 ≤ (c.fabPort p).st) (hhi : (c.fabPort p).st ≤ 4) (hg : h.good = true) :
    c.recvLink p h act = (act (c.updFab p (fun q => { q with credits := crAdd q.credits h.credits }))).drainFab p 64 :=
  (if_neg (by simp only [fsUp, fsExcluded]; omega)).trans (if_neg (by rw [hg]; decide))

/-- A peer that a member already knows as it is changes nothing else (R345). -/
theorem Chip.peerSeen_same (hst : (c.fabPort p).st = 3) (hu : (c.fabPort p).peerUid = h.uid) (hp : (c.fabPort p).peer = h.node)
    (hc : (c.fabPort p).peerCaptain = h.captain) :
    c.peerSeen p h = c.updFab p (fun q => { q with peer := h.node, peerUid := h.uid, peerCaptain := h.captain }) := by
  unfold Chip.peerSeen
  exact if_pos (by simp only [hst, hu, hp, hc, beq_self_eq_true, Bool.true_and]; decide)

/-- An acknowledgement of frames that are out takes them off (R346). -/
theorem Chip.acked_some {seq : BitVec 12} {n : Nat} {q : FabPort} (hq : c.fabPort p = q)
    (hn : n = (seq + 1 - (q.txSeq - BitVec.ofNat 12 q.unacked)).toNat)
    (h1 : 1 ≤ n) (h2 : n ≤ q.unacked) :
    c.acked p seq = (c.updFab p (fun q => { q with unacked := q.unacked - n, tries := 0 })).drainFab p 64 := by
  unfold Chip.acked
  rw [hq]
  dsimp only
  rw [← hn]
  exact if_neg (by omega)

theorem Chip.replayFab_none (h : (c.fabPort p).unacked = 0 ∨ (c.fabPort p).st < 2 ∨ 4 < (c.fabPort p).st) : c.replayFab p = c :=
  if_pos h

theorem Chip.replayFab_again (h0 : 0 < (c.fabPort p).unacked) (hlo : 2 ≤ (c.fabPort p).st) (hhi : (c.fabPort p).st ≤ 4)
    (ht : (c.fabPort p).tries < 8) :
    c.replayFab p = (c.updFab p (fun q => { q with replays := q.replays + 1, tries := q.tries + 1 })).emit
      (.replay p ((c.fabPort p).txSeq - BitVec.ofNat 12 (c.fabPort p).unacked)) :=
  (if_neg (by simp only [fsUp, fsExcluded]; omega)).trans (if_neg (by omega))

theorem Chip.replayFab_spent (h0 : 0 < (c.fabPort p).unacked) (hlo : 2 ≤ (c.fabPort p).st) (hhi : (c.fabPort p).st ≤ 4)
    (ht : 8 ≤ (c.fabPort p).tries) : c.replayFab p = c.linkLoss p (some 3) :=
  (if_neg (by simp only [fsUp, fsExcluded]; omega)).trans (if_pos ht)

theorem Chip.helloTx_off (h : (c.fabPort p).st < 2 ∨ 4 < (c.fabPort p).st) : c.helloTx p = c := if_pos h
theorem Chip.ackTx_off (h : (c.fabPort p).st < 2 ∨ 4 < (c.fabPort p).st) : c.ackTx p = c := if_pos h

theorem Chip.helloTx_sends (hlo : 2 ≤ (c.fabPort p).st) (hhi : (c.fabPort p).st ≤ 4) : c.helloTx p = c.linkSend p 1 c.linkInfo :=
  if_neg (by simp only [fsUp, fsExcluded]; omega)

theorem Chip.ackTx_sends (hlo : 2 ≤ (c.fabPort p).st) (hhi : (c.fabPort p).st ≤ 4) :
    c.ackTx p = c.linkSend p 2 ((c.fabPort p).rxSeq - 1).toNat :=
  if_neg (by simp only [fsUp, fsExcluded]; omega)

/-! ### The loss of a link -/

/-- A message to ports that pass none changes nothing. -/
theorem Chip.protoTo_silent {ps : List Nat} {msg val : Nat} (h : ∀ p ∈ ps, (c.fabPort p).st < 2) : c.protoTo ps msg val = c :=
  List.foldl_of_fixed ps fun p hp => if_neg (by have := h p hp; simp only [fsUp, fsMember]; omega)

/-- Neighbours that are not there are told nothing of the list. -/
theorem Chip.tellList_alone (h : ∀ p < 2, (c.fabPort p).st < 2) : c.tellList = c.setInfo Config.uid c.ownInfo :=
  Chip.protoTo_silent fun p hp => h p (by simp [bothPorts] at hp; omega)

theorem Chip.fabRefit_nil (h : c.peps = []) : c.fabRefit = c := by
  unfold Chip.fabRefit
  rw [h]
  rfl

theorem Chip.OffersOnly.fab {d : Chip} (h : c.OffersOnly d) : d.fab = c.fab := by rw [h.rest]
theorem Chip.OffersOnly.peps {d : Chip} (h : c.OffersOnly d) : d.peps = c.peps := by rw [h.rest]

theorem Chip.fab_pend (n : Nat) : (c.pend n).fab = c.fab := (Chip.offers_only _).fab.trans rfl
theorem Chip.peps_pend (n : Nat) : (c.pend n).peps = c.peps := (Chip.offers_only _).peps.trans (Chip.updSrc_peps ..)

/-- Where no route fails and no fabric is formed, only the count of members is made anew. -/
theorem Chip.pathsLost_none (hv : c.fab.valid = false) (hr : c.fab.role ≠ 2) (hp : c.peps = []) : c.pathsLost [] [] = c.memberCount := by
  have hv' : c.memberCount.fab.valid = false := hv
  have hr' : c.memberCount.fab.role ≠ 2 := by
    show (if c.fab.role = 3 then 3 else if !c.fab.valid then c.fab.role else _) ≠ 2
    split
    · decide
    · rw [hv]; exact hr
  unfold Chip.pathsLost
  simp only [List.foldl_nil, hv, hv', Bool.false_and, Bool.false_eq_true, if_false, Chip.fabRefit_nil (c := c.memberCount) hp, if_neg hr']

/-- What the loss of a link leaves of its port, and its source. -/
def Chip.portLost (c : Chip) (p cause : Nat) : Chip :=
  (c.updFab p (fun q => { q with
    st := 0, lanes := 0, peer := none, peerUid := 0, peerCaptain := 0, downs := q.downs + 1, unacked := 0, tries := 0, nakSent := false
    owed := (0, 0, 0), withheld := (0, 0, 0), queue := [], credits := (16, 44, 4) })).pend (392 + 8 * p + cause)

theorem Chip.fab_portLost (p cause : Nat) : (c.portLost p cause).fab.routes = c.fab.routes ∧ (c.portLost p cause).fab.valid = c.fab.valid
    ∧ (c.portLost p cause).fab.role = c.fab.role := by
  unfold Chip.portLost
  rw [Chip.fab_pend]
  exact ⟨rfl, rfl, rfl⟩

theorem Chip.peps_portLost (p cause : Nat) : (c.portLost p cause).peps = c.peps := Chip.peps_pend _

theorem Chip.fabPort_portLost (p cause k : Nat) (h : k = p ∨ (c.fabPort k).st < 2) : ((c.portLost p cause).fabPort k).st < 2 := by
  unfold Chip.portLost Chip.fabPort
  rw [Chip.fab_pend]
  by_cases hk : k = p
  · subst hk
    exact lt_of_eq_of_lt (congrArg FabPort.st (Chip.fabPort_updFab_same (c := c) _)) Nat.zero_lt_two
  · exact lt_of_eq_of_lt (congrArg FabPort.st (Chip.fabPort_updFab_other (c := c) hk _)) (h.resolve_left hk)

/-- Without routes, a change of each route changes nothing. -/
theorem Chip.routes_mapv (h : c.fab.routes = []) (f : Nat → Route → Route) :
    ({ c with fab := { c.fab with routes := Tbl.mapv {} c.fab.routes f } } : Chip) = c := by
  have hfab : ({ c.fab with routes := Tbl.mapv {} c.fab.routes f } : Fab) = c.fab := by
    rw [h, show (Tbl.mapv {} [] f : Tbl Route) = c.fab.routes from h.symm]
  rw [hfab]

/-- What follows the loss of a port: the routes through it fail, and the neighbours are told (R362 to R365). -/
def Chip.lossFollows (c : Chip) (p : Nat) : Chip :=
  let via := c.fab.routes.filter (fun r => r.2.member && r.2.port.toNat == p + 1)
  let moved := (via.filter (fun r => r.2.altPort != 0)).map (fun r => r.1)
  let lost := (via.filter (fun r => r.2.altPort == 0)).map (fun r => r.1)
  let d : Chip := { c with fab := { c.fab with routes := Tbl.mapv {} c.fab.routes (fun _ r =>
    if r.altPort.toNat = p + 1 then { r with altPort := 0, altHops := 0 } else r) } }
  (d.protoTo [1 - p] 4 0).tellList.pathsLost lost moved

theorem Chip.linkLoss_eq (c : Chip) (p cause : Nat) : c.linkLoss p (some cause) =
    if (c.fabPort p).st = 0 ∨ (c.fabPort p).st = 5 then c
    else ((c.portLost p cause).setInfo Config.uid (c.portLost p cause).ownInfo).lossFollows p := by
  unfold Chip.linkLoss
  refine if_congr Iff.rfl rfl ?_
  extract_lets c1 c2 c3
  have h3 : c3 = (c.portLost p cause).setInfo Config.uid (c.portLost p cause).ownInfo := rfl
  rw [← h3]
  clear_value c3
  rfl

/-- At a node without routes and in no fabric, that is its own list and the count of members. -/
theorem Chip.lossFollows_alone {p : Nat} (hp : p < 2) (hv : c.fab.valid = false)
    (hr : c.fab.role ≠ 2) (hroutes : c.fab.routes = []) (hpeps : c.peps = []) (hports : ∀ k < 2, (c.fabPort k).st < 2) :
    c.lossFollows p = (c.setInfo Config.uid c.ownInfo).memberCount := by
  have hproto : c.protoTo [1 - p] 4 0 = c := Chip.protoTo_silent fun k hk => hports k (by simp at hk; omega)
  unfold Chip.lossFollows
  dsimp only
  rw [Chip.routes_mapv hroutes, hproto, Chip.tellList_alone hports, hroutes]
  exact Chip.pathsLost_none hv hr hpeps

/-- The loss of a link at a node that is in no fabric (R362). -/
theorem Chip.linkLoss_alone {p cause : Nat} (hp : p < 2) (h0 : (c.fabPort p).st ≠ 0) (h5 : (c.fabPort p).st ≠ 5)
    (hv : c.fab.valid = false) (hr : c.fab.role ≠ 2) (hroutes : c.fab.routes = []) (hpeps : c.peps = [])
    (hother : (c.fabPort (1 - p)).st < 2) :
    c.linkLoss p (some cause) =
      (let d := c.portLost p cause
       let e := d.setInfo Config.uid d.ownInfo
       (e.setInfo Config.uid e.ownInfo).memberCount) := by
  obtain ⟨hroutes', hv', hr'⟩ := c.fab_portLost p cause
  have hports (k : Nat) (hk : k < 2) : ((c.portLost p cause).fabPort k).st < 2 :=
    c.fabPort_portLost p cause k (by
      by_cases h : k = p
      · exact .inl h
      · exact .inr (by rwa [show k = 1 - p by omega]))
  have hpeps' : (c.portLost p cause).peps = [] := (Chip.peps_portLost p cause).trans hpeps
  rw [hroutes] at hroutes'
  rw [hv] at hv'
  rw [← hr'] at hr
  rw [Chip.linkLoss_eq, if_neg (not_or.mpr ⟨h0, h5⟩)]
  generalize c.portLost p cause = d at *
  exact Chip.lossFollows_alone (c := d.setInfo Config.uid d.ownInfo) hp hv' hr hroutes' hpeps' hports

/-! ### The frames of a link, and its loss -/

/-- A signal of a port's link reaches the one function that handles its kind of frame. -/
theorem exec_linkFrame_off {s : State} {p : Fin 2} {i : Instr} {seq off : BitVec 12} {mf trim delay : BitVec 16}
    (hoff : (s.chip.fabPort p.val).st < 2 ∨ 4 < (s.chip.fabPort p.val).st)
    (hi : i ∈ ([.linkInit p h, .hello p h, .ack p seq h, .nak p seq h, .sync p mf off trim h, .syncEcho p delay h] : List Instr)) :
    exec i s = .next (s.onward s.chip) := by
  simp only [List.mem_cons, List.not_mem_nil, or_false] at hi
  rcases hi with rfl | rfl | rfl | rfl | rfl | rfl <;> exact next_act (Chip.recvLink_off hoff)

theorem exec_linkFrame_bad {s : State} {p : Fin 2} {i : Instr} {seq off : BitVec 12} {mf trim delay : BitVec 16}
    (hlo : 2 ≤ (s.chip.fabPort p.val).st) (hhi : (s.chip.fabPort p.val).st ≤ 4) (hg : h.good = false)
    (hi : i ∈ ([.linkInit p h, .hello p h, .ack p seq h, .nak p seq h, .sync p mf off trim h, .syncEcho p delay h] : List Instr)) :
    exec i s = .next (s.onward (s.chip.updFab p.val (fun q => { q with crc := q.crc + 1 }))) := by
  simp only [List.mem_cons, List.not_mem_nil, or_false] at hi
  rcases hi with rfl | rfl | rfl | rfl | rfl | rfl <;> exact next_act (Chip.recvLink_bad hlo hhi hg)

/-- The chip after a good frame's credits. -/
def Chip.heard (c : Chip) (p : Nat) (h : LinkHdr) : Chip := c.updFab p (fun q => { q with credits := crAdd q.credits h.credits })

theorem Chip.fabPort_heard : (c.heard p h).fabPort p = { c.fabPort p with credits := crAdd (c.fabPort p).credits h.credits } :=
  Chip.fabPort_updFab_same _

theorem Chip.linkHello_same (hlo : 2 ≤ (c.fabPort p).st) (hhi : (c.fabPort p).st ≤ 4) (hg : h.good = true)
    (hst : (c.fabPort p).st = 3) (hu : (c.fabPort p).peerUid = h.uid) (hp : (c.fabPort p).peer = h.node)
    (hc : (c.fabPort p).peerCaptain = h.captain) :
    c.linkHello p h = ((c.heard p h).updFab p (fun q => { q with
      peer := h.node, peerUid := h.uid, peerCaptain := h.captain })).drainFab p 64 := by
  refine (Chip.recvLink_good hlo hhi hg).trans (congrArg (fun d => Chip.drainFab d p 64) (Chip.peerSeen_same (c := c.heard p h) ?_ ?_ ?_ ?_))
  all_goals rw [Chip.fabPort_heard]; assumption

theorem Chip.linkAck_some {seq : BitVec 12} {n : Nat} (hlo : 2 ≤ (c.fabPort p).st) (hhi : (c.fabPort p).st ≤ 4) (hg : h.good = true)
    (hn : n = (seq + 1 - ((c.fabPort p).txSeq - BitVec.ofNat 12 (c.fabPort p).unacked)).toNat) (h1 : 1 ≤ n)
    (h2 : n ≤ (c.fabPort p).unacked) :
    c.linkAck p seq h = (((c.heard p h).updFab p (fun q =>
      { q with unacked := q.unacked - n, tries := 0 })).drainFab p 64).drainFab p 64 :=
  (Chip.recvLink_good hlo hhi hg).trans
    (congrArg (fun d => Chip.drainFab d p 64) (Chip.acked_some (c := c.heard p h) Chip.fabPort_heard hn h1 h2))

/-- A member's time from its captain, with no port to pass it on to (R356). -/
theorem Chip.sync_taken {mf trim : BitVec 16} {off : BitVec 12} (hlo : 2 ≤ (c.fabPort p).st) (hhi : (c.fabPort p).st ≤ 4)
    (hg : h.good = true) (hp : p < 2) (hv : c.fab.valid = true) (hr : c.fab.role ≠ 2) (hst : (c.fabPort p).st = 3)
    (hother : (c.fabPort (1 - p)).st ≠ 3) :
    c.sync p mf off trim h = ({ c.heard p h with
      mf := if c.fab.locked = true then c.mf else mf
      fab := { (c.heard p h).fab with offset := off, trim := trim, locked := true } } : Chip).drainFab p 64 := by
  have hother' : ((c.heard p h).fabPort (1 - p)).st ≠ 3 := by
    rw [show (c.heard p h).fabPort (1 - p) = c.fabPort (1 - p) from Chip.fabPort_updFab_other (by omega) _]
    exact hother
  have hst' : ((c.heard p h).fabPort p).st = 3 := by rw [Chip.fabPort_heard]; exact hst
  refine (Chip.recvLink_good hlo hhi hg).trans (congrArg (fun d => Chip.drainFab d p 64) ?_)
  have hpass : (!c.fab.valid || c.fab.role == 2 || ((c.heard p h).fabPort p).st != fsMember) = false := by
    rw [hst', hv, beq_false_of_ne hr]
    rfl
  exact (if_neg (ne_true_of_eq_false hpass)).trans (if_neg hother')

theorem Chip.sync_ignored {mf trim : BitVec 16} {off : BitVec 12} (hlo : 2 ≤ (c.fabPort p).st) (hhi : (c.fabPort p).st ≤ 4)
    (hg : h.good = true) (hno : c.fab.valid = false ∨ c.fab.role = 2 ∨ (c.fabPort p).st ≠ 3) :
    c.sync p mf off trim h = (c.heard p h).drainFab p 64 := by
  refine (Chip.recvLink_good hlo hhi hg).trans (congrArg (fun d => Chip.drainFab d p 64) (if_pos ?_))
  have hst' : ((c.heard p h).fabPort p).st = (c.fabPort p).st := by rw [Chip.fabPort_heard]
  show (!c.fab.valid || c.fab.role == 2 || ((c.heard p h).fabPort p).st != fsMember) = true
  rw [hst']
  rcases hno with hv | hr | hst
  · simp [hv]
  · simp [hr]
  · simp [hst, fsMember]

/-- Settles O51: what each frame and event of a link does, one lemma of the model's function for each case. -/
theorem fabricLinks : Obligations.FabricLinks := by
  unfold Obligations.FabricLinks
  refine ⟨fun s p lanes n h seq off mf trim delay => ?frames, fun s p => ?loss⟩
  case frames =>
    exact ⟨fun hst hon => ⟨next_act (Chip.fabSignal_trains hst hon), next_act (Chip.fabSignal_trains hst hon)⟩,
      fun h => ⟨next_act (Chip.fabSignal_ignored h), next_act (Chip.fabSignal_ignored h)⟩,
      fun hst hl => next_act (Chip.fabLock_up hst hl), fun hst => next_act (Chip.fabLock_ignored hst),
      fun hst => next_act (if_pos hst), fun hst => next_act (if_neg hst),
      fun hoff => ⟨fun i hi => exec_linkFrame_off hoff hi, next_act (Chip.helloTx_off hoff), next_act (Chip.ackTx_off hoff)⟩,
      fun hlo hhi => ⟨fun hg i hi => exec_linkFrame_bad hlo hhi hg hi, next_act (Chip.helloTx_sends hlo hhi),
        next_act (Chip.ackTx_sends hlo hhi), fun hg => ⟨rfl,
          fun hst hu hp hc => next_act (Chip.linkHello_same hlo hhi hg hst hu hp hc),
          fun hn h1 h2 => next_act (Chip.linkAck_some hlo hhi hg hn h1 h2), next_act (Chip.recvLink_good hlo hhi hg),
          next_act (Chip.recvLink_good hlo hhi hg),
          fun hv hr hst hother => next_act (Chip.sync_taken hlo hhi hg p.isLt hv hr hst hother),
          fun hno => next_act (Chip.sync_ignored hlo hhi hg hno)⟩⟩⟩
  case loss =>
    have hlost (k : Nat) (hv : s.chip.fab.valid = false) (hr : s.chip.fab.role ≠ 2) (hroutes : s.chip.fab.routes = [])
        (hpeps : s.chip.peps = []) (hother : (s.chip.fabPort (1 - p.val)).st < 2) (hlo : 1 ≤ (s.chip.fabPort p.val).st)
        (hhi : (s.chip.fabPort p.val).st ≤ 4) :=
      Chip.linkLoss_alone (cause := k) p.isLt (by omega) (by omega) hv hr hroutes hpeps hother
    exact ⟨fun h => next_act (Chip.replayFab_none h), fun h0 hlo hhi ht => next_act (Chip.replayFab_again h0 hlo hhi ht),
      fun h => next_act (if_pos h), fun h => next_act (if_pos h),
      fun hv hr hroutes hpeps hother => ⟨fun hlo hhi => next_act (hlost 1 hv hr hroutes hpeps hother hlo hhi),
        fun hlo hhi => next_act ((if_neg (Nat.not_lt.mpr hlo)).trans (hlost 6 hv hr hroutes hpeps hother (by omega) hhi)),
        fun h0 hlo hhi ht => next_act ((Chip.replayFab_spent h0 hlo hhi ht).trans
          (hlost 3 hv hr hroutes hpeps hother (by omega) hhi))⟩⟩

end Sys2Proof.Machine
end

/-! Election, installation and fabric sleep (R350, R366, R368, R369). -/
section
namespace Sys2Proof.Machine

variable {c : Chip}

theorem Chip.declare_plans (hon : c.fabOn = true) (hf : c.fab.forming = true) (hc : c.fab.candidate = Config.uid)
    (hr : c.fab.role ≠ 2) (hi : c.fab.install = none) :
    c.declare = ({ c with fab := { c.fab with role := 2, captainUid := Config.uid } } : Chip).plan :=
  if_pos (by simpa [hon, hf, hc, hi] using hr)

theorem Chip.declare_not (h : ¬ (c.fabOn = true ∧ c.fab.forming = true ∧ c.fab.candidate = Config.uid ∧ c.fab.role ≠ 2
    ∧ c.fab.install = none)) : c.declare = c :=
  if_neg fun hb => h (by simpa [and_assoc] using hb)

theorem Chip.topoInstall_none (h : c.fab.install = none) : c.topoInstall = c := by
  unfold Chip.topoInstall
  rw [h]

section
variable {node captain : BitVec 4} {uid : BitVec 64} {members : List (BitVec 4 × BitVec 64)}
  {routes : List (BitVec 4 × BitVec 2 × BitVec 4 × BitVec 2 × BitVec 4)} {topo tick : BitVec 16}

theorem Chip.topoInstall_some (h : c.fab.install = some (.install node captain uid members routes topo tick)) :
    c.topoInstall = c.installTopo node captain uid members routes topo := by
  unfold Chip.topoInstall
  rw [h]

theorem Chip.fabMembers_alone (h : c.fab.ports = []) : c.fabMembers = c := by
  refine List.foldl_of_fixed bothPorts fun p _ => ?_
  have hnone : c.fab.members.find? (fun m => m.2 == (c.fabPort p).peerUid && m.2 != 0) = none := by
    rw [List.find?_eq_none]
    intro m _ hm
    have h0 : (c.fabPort p).peerUid = 0 := by unfold Chip.fabPort; rw [h]; rfl
    rw [h0] at hm
    simp at hm
  rw [hnone]

theorem Chip.renumber_nil (h : c.slots = []) : c.renumber = c := by
  have hmap (f : Nat → Slot → Slot) : Tbl.mapv {} c.slots f = c.slots := by rw [h]; rfl
  unfold Chip.renumber
  rw [hmap]

/-- What follows an installation at a node without ports that pass frames, slots or endpoints: its own list. -/
theorem Chip.installed_alone (hs : c.slots = []) (hpeps : c.peps = []) (hports : c.fab.ports = []) :
    c.renumber.fabMembers.fabRefit.tellList = c.setInfo Config.uid c.ownInfo := by
  rw [Chip.renumber_nil hs, Chip.fabMembers_alone hports, Chip.fabRefit_nil hpeps]
  refine Chip.tellList_alone fun p _ => ?_
  unfold Chip.fabPort
  rw [hports]
  exact Nat.zero_lt_two

/-- A distribution that names this node alone, installed at a node in no fabric (R350, R366). -/
theorem Chip.installTopo_alone (hv : c.fab.valid = false) (hm : c.fab.members = []) (hs : c.slots = []) (hpeps : c.peps = [])
    (hports : c.fab.ports = []) :
    c.installTopo node captain Config.uid [(node, Config.uid)] [] topo =
      (let d : Chip := { c with fab := { c.fab with
          node := node, valid := true, captain := captain, captainUid := Config.uid, members := [(node, Config.uid)],
          routes := routeTbl node [(node, Config.uid)] []
          topo := topo, forming := false, install := none, role := 0, count := 1 } }
       d.setInfo Config.uid d.ownInfo) := by
  unfold Chip.installTopo
  simp only [hm, hv, List.filter_cons, List.filter_nil, bne_self_eq_false, Bool.false_and, Bool.false_eq_true, if_false,
    List.map_nil, List.foldl_nil, List.contains_nil, Bool.not_false, Bool.true_or]
  exact Chip.installed_alone hs hpeps hports
end

/-- Settles O54: each command's cases, one lemma of the model's function for each. -/
theorem electionAndSleep : Obligations.ElectionAndSleep := by
  unfold Obligations.ElectionAndSleep
  intro s p t node captain uid members routes topo tick
  refine ⟨fun ⟨hon, hf, hc, hr, hi⟩ => next_act (Chip.declare_plans hon hf hc hr hi), fun h => next_act (Chip.declare_not h),
    fun h => next_act (Chip.topoInstall_none h), fun h => ⟨next_act (Chip.topoInstall_some h), ?alone⟩, next_act rfl,
    fun h => next_act (if_pos h), fun hrun hdoze => ?wakes⟩
  case wakes =>
    have htap : s.chip.tapSeen p t = s.chip.wakeEvent (.tap p) t := if_neg (not_or.mpr ⟨hrun, hdoze⟩)
    exact (next_act htap).trans (exec_wakeSource s t).symm
  case alone =>
    rintro rfl rfl rfl hv hm hs hpeps hports
    exact next_act ((Chip.topoInstall_some h).trans (Chip.installTopo_alone hv hm hs hpeps hports))

end Sys2Proof.Machine
end

/-! Routed frames and what far frames do (R344 to R347, R352, R357 to R361). -/
section
namespace Sys2Proof.Machine

variable {c : Chip} {p : Nat} {h : FrameHdr}

/-! ### What a port takes -/

/-- A frame that a port can take (R345). -/
def frameFits (h : FrameHdr) : Prop := h.good = true ∧ h.tc ≠ 3 ∧ h.len ≤ 2048

theorem frameFits_iff : (!h.good || h.tc == 3 || decide (2048 < h.len)) = false ↔ frameFits h := by
  simp only [frameFits, Bool.or_eq_false_iff, Bool.not_eq_false', beq_eq_false_iff_ne, decide_eq_false_iff_not, Nat.not_lt, and_assoc]

theorem Chip.nakOnce_first (hn : (c.fabPort p).nakSent = false) :
    c.nakOnce p = (c.updFab p (fun q => { q with nakSent := true })).linkSend p 3 (c.fabPort p).rxSeq.toNat :=
  if_neg (ne_true_of_eq_false hn)

theorem Chip.nakOnce_again (hn : (c.fabPort p).nakSent = true) : c.nakOnce p = c := if_pos hn

section
variable {kind val : Nat} {act : Chip → Chip}

theorem Chip.recv_off (hst : (c.fabPort p).st < 2) : c.recv p h kind val act = c := by
  refine if_pos ?_
  have h3 : ((c.fabPort p).st == fsMember) = false := beq_false_of_ne (by simp only [fsMember]; omega)
  have h2 : ((c.fabPort p).st == fsUp) = false := beq_false_of_ne (by simp only [fsUp]; omega)
  rw [h3, h2, Bool.and_false]
  rfl

/-- A port in MEMBER takes every kind of frame, one in UP PROTOCOL alone. -/
def Chip.portTakes (c : Chip) (p kind : Nat) : Prop := (c.fabPort p).st = 3 ∨ ((c.fabPort p).st = 2 ∧ kind = 8)

theorem Chip.recv_open (hst : c.portTakes p kind) :
    (!((c.fabPort p).st == fsMember || (kind == 8 && (c.fabPort p).st == fsUp))) = false := by
  rcases hst with h3 | ⟨h2, rfl⟩
  · rw [h3]; rfl
  · rw [h2]; rfl

theorem Chip.recv_bad (hst : c.portTakes p kind) (hbad : ¬ frameFits h) :
    c.recv p h kind val act = (c.updFab p (fun q => { q with crc := q.crc + 1 })).nakOnce p :=
  (if_neg (ne_true_of_eq_false (Chip.recv_open hst))).trans
    (if_pos (by rw [← Bool.not_eq_false]; exact fun hf => hbad (frameFits_iff.mp hf)))

theorem Chip.recv_gap (hst : c.portTakes p kind) (hfits : frameFits h) (hseq : h.seq ≠ (c.fabPort p).rxSeq) :
    c.recv p h kind val act = c.nakOnce p :=
  (if_neg (ne_true_of_eq_false (Chip.recv_open hst))).trans
    ((if_neg (ne_true_of_eq_false (frameFits_iff.mpr hfits))).trans (if_pos hseq))

/-- The port once a frame has been counted as received. -/
def Chip.seen (c : Chip) (p : Nat) : Chip := c.updFab p (fun q => { q with rxSeq := q.rxSeq + 1, nakSent := false })

/-- What a frame does that is accepted and acknowledges none. -/
theorem Chip.recv_taken (hst : c.portTakes p kind) (hfits : frameFits h) (hseq : h.seq = (c.fabPort p).rxSeq) (hack : h.ack = none) :
    c.recv p h kind val act = (if !(kind == 8) && h.dst.toNat != c.nodeNo then
        (if c.portTo h.dst.toNat = 1 ∨ c.portTo h.dst.toNat = 2 then
          (c.seen p).sendFab (c.portTo h.dst.toNat - 1) (h.tc.toNat, h.dst.toNat, kind, val)
        else (c.seen p).dropFrame)
      else act (c.seen p)).oweCredit p h.tc.toNat := by
  unfold Chip.recv
  rw [hack]
  exact (if_neg (ne_true_of_eq_false (Chip.recv_open hst))).trans
    ((if_neg (ne_true_of_eq_false (frameFits_iff.mpr hfits))).trans (if_neg (not_not_intro hseq)))

theorem Chip.recv_own (hst : c.portTakes p kind) (hfits : frameFits h) (hseq : h.seq = (c.fabPort p).rxSeq) (hack : h.ack = none)
    (hown : h.dst.toNat = c.nodeNo ∨ kind = 8) : c.recv p h kind val act = (act (c.seen p)).oweCredit p h.tc.toNat := by
  rw [Chip.recv_taken hst hfits hseq hack, if_neg]
  rcases hown with h | rfl
  · rw [h, bne_self_eq_false, Bool.and_false]; decide
  · exact Bool.false_ne_true

theorem Chip.recv_forwards (hst : c.portTakes p kind) (hfits : frameFits h) (hseq : h.seq = (c.fabPort p).rxSeq) (hack : h.ack = none)
    (hp : p < 2) (hk : kind ≠ 8) (hfar : h.dst.toNat ≠ c.nodeNo) (hto : c.portTo h.dst.toNat = 2 - p) :
    c.recv p h kind val act = ((c.seen p).sendFab (1 - p) (h.tc.toNat, h.dst.toNat, kind, val)).oweCredit p h.tc.toNat := by
  rw [Chip.recv_taken hst hfits hseq hack, if_pos (by simp [hk, hfar]), hto, if_pos (by omega), show 2 - p - 1 = 1 - p by omega]

theorem Chip.recv_drops (hst : c.portTakes p kind) (hfits : frameFits h) (hseq : h.seq = (c.fabPort p).rxSeq) (hack : h.ack = none)
    (hk : kind ≠ 8) (hfar : h.dst.toNat ≠ c.nodeNo) (hto : c.portTo h.dst.toNat = 0) :
    c.recv p h kind val act = (c.seen p).dropFrame.oweCredit p h.tc.toNat := by
  rw [Chip.recv_taken hst hfits hseq hack, if_pos (by simp [hk, hfar]), hto, if_neg (by omega)]

end

/-! ### What far frames do (R344, R357 to R359) -/

theorem Chip.farElement_unfit {raw : List Byte} (hf : c.farFits h = false) : c.farElement h raw = c :=
  if_pos (by rw [hf]; rfl)

theorem Chip.farDataOut_unfit (hf : c.farFits h = false) : c.farDataOut h = c := if_pos (by rw [hf]; rfl)

theorem Chip.farDataOut_fits {n : Nat} (hf : c.farFits h = true) (hr : (c.ep (homeKey h)).rings = [n]) :
    c.farDataOut h = (c.updRing (farSender h) n (fun r => { r with
      ids := r.ids.map (fun i => if i.1 = h.tdid.toNat then (i.1, i.2 + h.len) else i) })).stir (homeKey h) := by
  refine (if_neg (by rw [hf]; decide)).trans ?_
  rw [hr]
  rfl

/-- The oldest kept frame's cells are freed on its bus and its endpoint (R358). -/
theorem Chip.freeKept_eq (key : Nat) : c.freeKept key =
    (c.updBus (c.slotBus (keySlot key)) (fun x =>
      if (c.ep key).ty = .isoch ∨ (c.ep key).ty = .interrupt then { x with pcells := x.pcells - (c.ep key).kept.headD 0 }
      else { x with cells := x.cells - (c.ep key).kept.headD 0 })).updEp
        key (fun e => { e with cells := e.cells - (c.ep key).kept.headD 0, kept := e.kept.drop 1 }) := by
  unfold Chip.freeKept
  simp only [Bool.or_eq_true, beq_iff_eq]

theorem Chip.farDataIn_unfit {off : Nat} (hf : c.hostFits h = false) : c.farDataIn h off = c.e2eAck h := by
  unfold Chip.farDataIn
  rw [hf]
  rfl

theorem Chip.farResult_unfit {code : Byte} {moved elem : Nat} {mf : Option (BitVec 16)} (hf : c.hostFits h = false) :
    c.farResult h code moved elem mf = c.e2eAck h := by
  unfold Chip.farResult
  rw [hf]
  rfl

section
variable {src tag result n : Nat} {code : Byte} {data : List Byte}

theorem Chip.farReply_none (hp : Tbl.get (0, 0) c.fab.proxies (tag + 65536 * src) = (0, 0)) : c.farReply src tag code result data
    = { c with fab := { c.fab with proxies := c.fab.proxies.filter (fun x => x.1 != tag + 65536 * src) } } :=
  if_pos hp

theorem Chip.farReply_mgr (hp : Tbl.get (0, 0) c.fab.proxies (tag + 65536 * src) = (128, n)) : c.farReply src tag code result data
    = ({ c with fab := { c.fab with proxies := c.fab.proxies.filter (fun x => x.1 != tag + 65536 * src) } } : Chip).mgrDone n code
      result := by
  have hmgr : (Tbl.get (0, 0) c.fab.proxies (tag + 65536 * src)).1 = 128 := congrArg Prod.fst hp
  have hsome : Tbl.get (0, 0) c.fab.proxies (tag + 65536 * src) ≠ (0, 0) := by rw [hp]; simp
  exact ((if_neg hsome).trans (if_pos hmgr)).trans (congrArg (fun k => Chip.mgrDone _ k code result) (congrArg Prod.snd hp))

end

/-! ### Frames of a port -/

/-- What a port answers to a frame that it does not take. -/
def FrameRefused (s : State) (p : Nat) (h : FrameHdr) (i : Instr) : Prop :=
  ((s.chip.fabPort p).st < 2 → exec i s = .next (s.onward s.chip))
  ∧ ((s.chip.fabPort p).st = 3 → ¬ frameFits h → (s.chip.fabPort p).nakSent = false →
    exec i s = .next (s.onward (((s.chip.updFab p (fun q => { q with crc := q.crc + 1 })).updFab p (fun q => { q with
      nakSent := true })).linkSend p 3 (s.chip.fabPort p).rxSeq.toNat)))
  ∧ ((s.chip.fabPort p).st = 3 → ¬ frameFits h → (s.chip.fabPort p).nakSent = true →
    exec i s = .next (s.onward (s.chip.updFab p (fun q => { q with crc := q.crc + 1 }))))
  ∧ ((s.chip.fabPort p).st = 3 → frameFits h → h.seq ≠ (s.chip.fabPort p).rxSeq → (s.chip.fabPort p).nakSent = false →
    exec i s = .next (s.onward ((s.chip.updFab p (fun q => { q with nakSent := true })).linkSend p 3
      (s.chip.fabPort p).rxSeq.toNat)))
  ∧ ((s.chip.fabPort p).st = 3 → frameFits h → h.seq ≠ (s.chip.fabPort p).rxSeq → (s.chip.fabPort p).nakSent = true →
    exec i s = .next (s.onward s.chip))

/-- What a port does with a frame that it takes: its node's own acts, another's goes on or is dropped. -/
def FrameRouted (s : State) (p : Nat) (h : FrameHdr) (i : Instr) (kind val : Nat) (act : Chip → Chip) : Prop :=
  (s.chip.fabPort p).st = 3 → frameFits h → h.seq = (s.chip.fabPort p).rxSeq → h.ack = none →
    (h.dst.toNat = s.chip.nodeNo → exec i s = .next (s.onward ((act (s.chip.seen p)).oweCredit p h.tc.toNat)))
    ∧ (h.dst.toNat ≠ s.chip.nodeNo → s.chip.portTo h.dst.toNat = 2 - p →
      exec i s = .next (s.onward (((s.chip.seen p).sendFab (1 - p) (h.tc.toNat, h.dst.toNat, kind, val)).oweCredit p h.tc.toNat)))
    ∧ (h.dst.toNat ≠ s.chip.nodeNo → s.chip.portTo h.dst.toNat = 0 →
      exec i s = .next (s.onward ((s.chip.seen p).dropFrame.oweCredit p h.tc.toNat)))

section
variable {s : State} {i : Instr} {kind val : Nat} {act : Chip → Chip}
variable (hi : exec i s = .next (s.act (fun c => c.recv p h kind val act)))
include hi

theorem exec_refused : FrameRefused s p h i := by
  have hcrc : (s.chip.updFab p (fun q => { q with crc := q.crc + 1 })).fabPort p
      = { s.chip.fabPort p with crc := (s.chip.fabPort p).crc + 1 } := Chip.fabPort_updFab_same _
  refine ⟨fun hst => hi.trans (next_act (Chip.recv_off hst)),
    fun hst hbad hn => hi.trans (next_act ((Chip.recv_bad (.inl hst) hbad).trans ?_)),
    fun hst hbad hn => hi.trans (next_act ((Chip.recv_bad (.inl hst) hbad).trans (Chip.nakOnce_again (by rw [hcrc]; exact hn)))),
    fun hst hfits hseq hn => hi.trans (next_act ((Chip.recv_gap (.inl hst) hfits hseq).trans (Chip.nakOnce_first hn))),
    fun hst hfits hseq hn => hi.trans (next_act ((Chip.recv_gap (.inl hst) hfits hseq).trans (Chip.nakOnce_again hn)))⟩
  rw [Chip.nakOnce_first (by rw [hcrc]; exact hn), hcrc]

theorem exec_routed (hp : p < 2) (hk : kind ≠ 8) : FrameRouted s p h i kind val act :=
  fun hst hfits hseq hack =>
    ⟨fun hown => hi.trans (next_act (Chip.recv_own (.inl hst) hfits hseq hack (.inl hown))),
      fun hfar hto => hi.trans (next_act (Chip.recv_forwards (.inl hst) hfits hseq hack hp hk hfar hto)),
      fun hfar hto => hi.trans (next_act (Chip.recv_drops (.inl hst) hfits hseq hack hk hfar hto))⟩

theorem exec_frame (hp : p < 2) (hk : kind ≠ 8) : FrameRefused s p h i ∧ FrameRouted s p h i kind val act :=
  ⟨exec_refused hi, exec_routed hi hp hk⟩

end

/-- Settles O52: a frame is refused, taken or passed on by its port whatever its kind; the far frames' effects follow. -/
theorem routedFramesAct : Obligations.RoutedFramesAct := by
  unfold Obligations.RoutedFramesAct
  refine ⟨fun s p h raw data off moved elem code mf k tag par result e space2 m => ?ports,
    fun c h raw data off moved elem n code mf src tag result sub => ?far⟩
  case ports =>
    refine ⟨?_, ?_, ?_, ?_, ?_, ?_, ?_, ?_, ?_,
      exec_refused (i := .protocol p h m) (act := fun c => c.protocol p.val m) rfl,
      fun hst hfits hseq hack => next_act (Chip.recv_own (hst.elim (fun h2 => .inr ⟨h2, rfl⟩) .inl) hfits hseq hack (.inr rfl))⟩
    · exact exec_frame (i := .element p h raw) (act := fun c => c.farElement h raw) rfl p.isLt (by decide)
    · exact exec_frame (i := .dataOut p h) (act := fun c => c.farDataOut h) rfl p.isLt (by decide)
    · exact exec_frame (i := .dataIn p h off) (act := fun c => c.farDataIn h off) rfl p.isLt (by decide)
    · exact exec_frame (i := .result p h code moved elem mf) (act := fun c => c.farResult h code moved elem mf) rfl p.isLt (by decide)
    · exact exec_frame (i := .command p h k tag par) (act := fun c => c.farCommand h k tag par) rfl p.isLt (by decide)
    · exact exec_frame (i := .reply p h tag code result data)
        (act := fun c => c.farReply h.src.toNat tag.toNat code result.toNat data) rfl p.isLt (by decide)
    · exact exec_frame (i := .event p h e) (act := fun c => c.farEvent h.inst.toNat e) rfl p.isLt (by decide)
    · exact exec_frame (i := .carry p h space2) (act := fun c => c) rfl p.isLt (by decide)
    · exact exec_frame (i := .e2eAck p h) (act := fun c => c.farAcked h) rfl p.isLt (by decide)
  case far =>
    exact ⟨fun hf => ⟨Chip.farElement_unfit hf, Chip.farDataOut_unfit hf⟩, fun hf hr => Chip.farDataOut_fits hf hr,
      congrArg (fun d => Chip.kick d _) (Chip.freeKept_eq _), fun hf => ⟨Chip.farDataIn_unfit hf, Chip.farResult_unfit hf⟩,
      fun hp => Chip.farReply_none hp, fun hp => Chip.farReply_mgr hp, rfl⟩

end Sys2Proof.Machine
end

/-! Replay checks: their start, their end, and the commits to OTP (R400 to R403, R409, R420). -/
section
namespace Sys2Proof.Machine

variable {c : Chip} {b : Nat} {bits us : BitVec 16} {row slot f : Nat} {second : Bool}

/-! ### A check starts -/

theorem Chip.startCheck_none (h : c.clocked = false ∨ c.rel.auto = false ∨ c.rel.queue = []) : c.startCheck = c := by
  unfold Chip.startCheck
  rcases h with h | h | h
  · rw [if_pos (by rw [h]; rfl)]
  · rw [if_pos (by rw [h]; simp)]
  · rw [h]
    exact ite_self _

section
variable {t : List (CheckJob × Bool)} (hc : c.clocked = true) (ha : c.rel.auto = true)
include hc ha

/-- The queue's first check starts where its part is free (R400). -/
theorem Chip.startCheck_sram {word : Nat} (hq : c.rel.queue = (.sram b row word slot, second) :: t) (hrow : (c.bank b).row = none) :
    c.startCheck = ({ c with rel := { c.rel with queue := t } } : Chip).startSram b row slot second := by
  have hcan : c.canStart (.sram b row word slot) = true := congrArg Option.isNone hrow
  unfold Chip.startCheck
  rw [if_neg (by rw [hc, ha]; decide), hq, List.find?_cons, hcan]
  exact congrArg (fun l => Chip.startSram { c with rel := { c.rel with queue := l } } b row slot second) (if_pos rfl)

theorem Chip.startCheck_fielder (hq : c.rel.queue = (.fielder f slot, second) :: t) (hjob : c.rel.fielderJob = none) :
    c.startCheck = ({ c with rel := { c.rel with queue := t } } : Chip).startFielderCheck f slot second := by
  have hcan : c.canStart (.fielder f slot) = true := congrArg Option.isNone hjob
  unfold Chip.startCheck
  rw [if_neg (by rw [hc, ha]; decide), hq, List.find?_cons, hcan]
  exact congrArg (fun l => Chip.startFielderCheck { c with rel := { c.rel with queue := l } } f slot second) (if_pos rfl)

end

theorem Chip.startSram_spare (h : c.freeSpare b ≠ none) :
    c.startSram b row slot second = c.updBank b (fun x => { x with row := some row, slot := slot, copied := false, second := second }) :=
  if_neg (by rw [Option.isNone_iff_eq_none]; exact h)

/-- A halted Fielder that is not the bench is tested (R401). -/
theorem Chip.startFielderCheck_halted (hst : (c.fielder f).st = .halted) (hb : c.fw.bench ≠ some f) :
    c.startFielderCheck f slot second =
      (let d := c.updFielder f (fun x => { x with st := .test, wfi := false, takes := none })
       { d with rel := { d.rel with fielderJob := some (f, slot, second) } }) := by
  unfold Chip.startFielderCheck
  rw [hst]
  dsimp only
  rw [if_neg hb]

theorem Chip.shadowDone_some (h : (c.bank b).row = some row) : c.shadowDone b = c.updBank b (fun x => { x with copied := true }) :=
  if_pos (by rw [h]; rfl)

theorem Chip.shadowDone_none (h : (c.bank b).row = none) : c.shadowDone b = c := if_neg (by rw [h]; decide)

/-! ### The check of a row ends -/

/-- The bank whose check has ended (R402). -/
def Chip.freed (c : Chip) (b : Nat) : Chip := c.updBank b (fun x => { x with row := none, copied := false, second := false })

/-- DETAIL1 of a corrected error's entry: what the check found (R412). -/
def Flog.found (e : Flog) (bits us : BitVec 16) : Word := if e.cls = 1 then toWord (bits.toNat + 2 ^ 16 * us.toNat) else e.d1

/-- A row with its third corrected error within 1 s, or made to stick, fails its march (R402, R420). -/
def Chip.rowLasting (c : Chip) (b row : Nat) : Prop :=
  c.sticky b row = true ∨ (Tbl.get [] c.rel.rowCe (1024 * b + row)).length = 3

theorem Chip.sramDone_none {r : CheckEnd} (h : (c.bank b).row = none) : c.sramDone b r bits us = c := by
  unfold Chip.sramDone
  dsimp only
  rw [h]

theorem Chip.sramDone_uncopied {r : CheckEnd} (h : (c.bank b).row = some row) (hc : (c.bank b).copied = false) :
    c.sramDone b r bits us = c := by
  unfold Chip.sramDone
  dsimp only
  rw [h]
  exact if_pos (by rw [hc]; rfl)

theorem Chip.sramDone_inconclusive (h : (c.bank b).row = some row) (hc : (c.bank b).copied = true) :
    c.sramDone b .inconclusive bits us =
      ((c.freed b).logResult (c.bank b).slot (fun e => { e.withOutcome 3 5 false with d1 := e.found bits us })).checkOver 1 b
        .inconclusive := by
  unfold Chip.sramDone
  dsimp only
  rw [h]
  dsimp only
  rw [if_neg (by rw [hc]; decide)]
  rfl

theorem Chip.sramDone_transient (h : (c.bank b).row = some row) (hc : (c.bank b).copied = true) (hl : ¬ c.rowLasting b row) :
    c.sramDone b .transient bits us =
      ((c.freed b).logResult (c.bank b).slot (fun e => { e.withOutcome 1 0 false with d1 := e.found bits us })).checkOver 1 b
        .transient := by
  unfold Chip.sramDone
  dsimp only
  rw [h]
  dsimp only
  rw [if_neg (by rw [hc]; decide), if_neg (fun hx => hl hx.2)]
  rfl

theorem Chip.sramDone_marched (h : (c.bank b).row = some row) (hl : c.rowLasting b row) :
    c.sramDone b .transient bits us = c.sramDone b .lasting bits us := by
  unfold Chip.sramDone
  dsimp only
  rw [h]
  dsimp only
  have hr : (if CheckEnd.transient = .transient ∧ (c.sticky b row = true ∨ (Tbl.get [] c.rel.rowCe (1024 * b + row)).length = 3)
      then CheckEnd.lasting else .transient) = .lasting := if_pos ⟨rfl, hl⟩
  rw [hr, ite_self]

/-- A LASTING row without a spare: the check is INCONCLUSIVE, and the want of spares is logged (R402, R412). -/
theorem Chip.sramDone_spareless (h : (c.bank b).row = some row) (hc : (c.bank b).copied = true) (hs : c.freeSpare b = none) :
    c.sramDone b .lasting bits us =
      (((c.freed b).logResult (c.bank b).slot (fun e => e.withOutcome 3 5 true)).log 0x20 0x0B b 0 0 0).checkOver 1 b
        .inconclusive := by
  have hs' : (c.freed b).freeSpare b = none := hs
  unfold Chip.sramDone
  dsimp only
  rw [h]
  dsimp only
  rw [if_neg (by rw [hc]; decide), ite_self]
  dsimp only
  rw [show c.updBank b (fun x => { x with row := none, copied := false, second := false }) = c.freed b from rfl, hs']
  rfl

/-- The row's repair, its entry, and the queued checks of its bank marked (R403, R416). -/
def Chip.repaired (c : Chip) (b row k : Nat) (bits us : BitVec 16) : Chip :=
  let d := c.freed b
  let inj := bitAt (c.flog (c.bank b).slot).outcome 5 || c.sticky b row
  (({ d with rel := { d.rel with
    repairs := { bank := b, row := row, spare := k, injected := inj } :: d.rel.repairs } } : Chip).logResult (c.bank b).slot (fun e =>
      { e.withOutcome 2 1 (c.bank b).second with
        loc := e.loc ||| BitVec.ofNat 64 (2 ^ 32 * k + 2 ^ 38), d1 := e.found bits us })).markSecond (fun j => j == b)

theorem Chip.sramDone_spare {k : Nat} (h : (c.bank b).row = some row) (hc : (c.bank b).copied = true) (hs : c.freeSpare b = some k) :
    c.sramDone b .lasting bits us =
      (let e := c.repaired b row k bits us
       if e.rel.otpCommit && !(bitAt (c.flog (c.bank b).slot).outcome 5 || c.sticky b row) then
         ({ e with rel := { e.rel with
           otpDue := e.rel.otpDue ++ [((c.bank b).slot, OtpItem.row { bank := b, row := row, spare := k })] } } : Chip)
       else e).checkOver 1 b .lasting := by
  have hs' : (c.freed b).freeSpare b = some k := hs
  unfold Chip.sramDone
  dsimp only
  rw [h]
  dsimp only
  rw [if_neg (by rw [hc]; decide), ite_self]
  dsimp only
  rw [show c.updBank b (fun x => { x with row := none, copied := false, second := false }) = c.freed b from rfl, hs']
  rfl

/-! ### What reports a fault keeps the OTP switch -/

theorem Chip.otpCommit_faultLogged (e : Flog) : (c.faultLogged e).rel.otpCommit = c.rel.otpCommit := by
  unfold Chip.faultLogged
  extract_lets d1
  split
  · unfold Chip.mgrEvent
    split
    · rfl
    · obtain ⟨x, o, fr, -, h⟩ := c.post_frame 0 { body := .event evError noSubject d1 e.seq } (show 0 < 128 by decide)
      rw [Chip.event, h]
  · rfl

theorem Chip.otpCommit_logResult (g : Flog → Flog) : (c.logResult slot g).rel.otpCommit = c.rel.otpCommit := by
  unfold Chip.logResult
  extract_lets e e' r d
  have hd : d.rel.otpCommit = c.rel.otpCommit := rfl
  split
  · exact (Chip.otpCommit_faultLogged _).trans hd
  · exact hd

theorem Chip.otpCommit_markSecond (g : Nat → Bool) : (c.markSecond g).rel.otpCommit = c.rel.otpCommit := rfl

theorem Chip.otpCommit_repaired {k : Nat} : (c.repaired b row k bits us).rel.otpCommit = c.rel.otpCommit :=
  (Chip.otpCommit_markSecond _).trans ((Chip.otpCommit_logResult _).trans rfl)

/-- A repair that is not due for OTP (R403). -/
theorem Chip.sramDone_kept {k : Nat} (h : (c.bank b).row = some row) (hc : (c.bank b).copied = true) (hs : c.freeSpare b = some k)
    (ho : c.rel.otpCommit = false) : c.sramDone b .lasting bits us = (c.repaired b row k bits us).checkOver 1 b .lasting := by
  refine (Chip.sramDone_spare h hc hs).trans (congrArg (fun d => Chip.checkOver d 1 b .lasting) (if_neg ?_))
  rw [Chip.otpCommit_repaired, ho, Bool.false_and]
  exact Bool.false_ne_true

/-- The repair of a row whose error no injection led to. -/
def Chip.repairedClean (c : Chip) (b row k : Nat) (bits us : BitVec 16) : Chip :=
  let d := c.freed b
  (({ d with rel := { d.rel with repairs := { bank := b, row := row, spare := k, injected := false } :: d.rel.repairs } } : Chip).logResult
    (c.bank b).slot (fun e => { e.withOutcome 2 1 (c.bank b).second with
      loc := e.loc ||| BitVec.ofNat 64 (2 ^ 32 * k + 2 ^ 38), d1 := e.found bits us })).markSecond (fun j => j == b)

theorem Chip.repaired_clean {k : Nat} (hi : bitAt (c.flog (c.bank b).slot).outcome 5 = false) (hk : c.sticky b row = false) :
    c.repaired b row k bits us = c.repairedClean b row k bits us := by
  unfold Chip.repaired
  rw [hi, hk]
  rfl

/-- A repair that no injection led to is due for OTP (R403). -/
theorem Chip.sramDone_due {k : Nat} (h : (c.bank b).row = some row) (hc : (c.bank b).copied = true) (hs : c.freeSpare b = some k)
    (ho : c.rel.otpCommit = true) (hi : bitAt (c.flog (c.bank b).slot).outcome 5 = false) (hk : c.sticky b row = false) :
    c.sramDone b .lasting bits us =
      (let e := c.repairedClean b row k bits us
       { e with rel := { e.rel with
         otpDue := e.rel.otpDue ++ [((c.bank b).slot, OtpItem.row { bank := b, row := row, spare := k })] } } : Chip).checkOver 1 b
           .lasting := by
  rw [Chip.sramDone_spare h hc hs, if_pos (by rw [Chip.otpCommit_repaired, ho, hi, hk]; rfl), Chip.repaired_clean hi hk]

/-! ### The check of a Fielder ends, and a commit -/

theorem Chip.fielderDone_none {r : CheckEnd} (h : c.rel.fielderJob = none) : c.fielderDone f r = c := by
  unfold Chip.fielderDone
  rw [h]

theorem Chip.fielderDone_some {r : CheckEnd} (h : c.rel.fielderJob = some (f, slot, second)) : c.fielderDone f r =
    (let d : Chip := { c with rel := { c.rel with fielderJob := none } }
     match r with
     | .transient => ((d.logResult slot (fun e => e.withOutcome 1 (fld e.outcome 4 2) false)).afterTransient f).checkOver 2 f .transient
     | .lasting => (((d.logResult slot (fun e => e.withOutcome 2 3 second)).retire f slot).markSecond (fun k => k == 16)).checkOver 2 f
       .lasting
     | .inconclusive => ((d.logResult slot (fun e => e.withOutcome 3 3 second)).retire f slot).checkOver 2 f .inconclusive) := by
  unfold Chip.fielderDone
  rw [h]
  dsimp only
  rw [if_neg (not_not_intro rfl)]
  cases r <;> rfl

theorem Chip.otpDone_none (h : c.rel.otpDue = []) : c.otpDone = c := by
  unfold Chip.otpDone
  rw [h]

section
variable {due : List (Nat × OtpItem)}

theorem Chip.otpDone_row {rep : Repair} (h : c.rel.otpDue = (slot, .row rep) :: due) (hl : c.rel.otpLeft ≠ 0) : c.otpDone =
    ({ c with rel := { c.rel with
      otpDue := due, otpLeft := c.rel.otpLeft - 1, otpRows := rep :: c.rel.otpRows } } : Chip).logResult slot (fun e => { e with
        outcome := e.outcome ||| 0x40 }) := by
  unfold Chip.otpDone
  rw [h]
  exact if_neg hl

theorem Chip.otpDone_fielder {g : Nat} (h : c.rel.otpDue = (slot, .fielder g) :: due) (hl : c.rel.otpLeft ≠ 0) : c.otpDone =
    ({ c with rel := { c.rel with
      otpDue := due, otpLeft := c.rel.otpLeft - 1, otpFielders := g :: c.rel.otpFielders.filter (fun k => k != g) } } : Chip).logResult
        slot (fun e => { e with outcome := e.outcome ||| 0x40 }) := by
  unfold Chip.otpDone
  rw [h]
  exact if_neg hl

theorem Chip.otpDone_full {item : OtpItem} (h : c.rel.otpDue = (slot, item) :: due) (hl : c.rel.otpLeft = 0) : c.otpDone =
    ({ c with rel := { c.rel with otpDue := due } } : Chip).log 0x20 0x0B 0x10 0 0 0 := by
  unfold Chip.otpDone
  rw [h]
  exact if_pos hl

end

/-- RESULT of a check (R409). -/
def checkRes (r : CheckEnd) : BitVec 2 :=
  match r with
  | .transient => 1
  | .lasting => 2
  | .inconclusive => 3

/-- REPLAY_STS and source 449 at the end of a check (R401, R409). -/
theorem Chip.checkOver_eq (X : Chip) (kind target : Nat) (r : CheckEnd) : X.checkOver kind target r = ({ X with rel := { X.rel with
    kind := BitVec.ofNat 2 kind, res := checkRes r, target := BitVec.ofNat 5 target, checks := X.rel.checks + 1 } } : Chip).pend 449 := by
  cases r <;> rfl

theorem next_checkOver {s : State} {g : Chip → Chip} {X : Chip} {kind target : Nat} {r : CheckEnd} {res : BitVec 2}
    (h : g s.chip = X.checkOver kind target r) (hr : checkRes r = res) :
    (.next (s.act g) : Host.Outcome State Fault Refusal) = .next (s.onward (({ X with rel := { X.rel with
      kind := BitVec.ofNat 2 kind, res := res, target := BitVec.ofNat 5 target, checks := X.rel.checks + 1 } } : Chip).pend 449)) := by
  subst hr
  exact next_act (h.trans (X.checkOver_eq kind target r))

/-- Settles O55: each command's cases, one lemma of the model's function for each. -/
theorem checksStartAndEnd : Obligations.ChecksStartAndEnd := by
  unfold Obligations.ChecksStartAndEnd
  intro s b f r bits us row word slot k second t due rep fi
  refine ⟨fun h => next_act (Chip.startCheck_none h), fun hc ha => ⟨fun hq hrow hs => ?sram, fun hq hjob hst hb => ?fielder⟩,
    fun h => ⟨next_act (Chip.shadowDone_none h), next_act (Chip.sramDone_none h)⟩,
    fun h => ⟨next_act (Chip.shadowDone_some h), fun hc => next_act (Chip.sramDone_uncopied h hc), fun hc =>
      ⟨next_checkOver (Chip.sramDone_inconclusive h hc) rfl, fun hst h3 => next_checkOver (Chip.sramDone_transient h hc ?soft) rfl,
        fun hl => (next_act (Chip.sramDone_marched h hl)).trans (next_act rfl).symm,
        fun hs ho => next_checkOver (Chip.sramDone_kept h hc hs ho) rfl, fun hs ho hi hk => next_checkOver (Chip.sramDone_due h hc hs ho hi hk) rfl,
        fun hs => next_checkOver (Chip.sramDone_spareless h hc hs) rfl⟩⟩,
    fun h => next_act (Chip.fielderDone_none h),
    fun h => ⟨next_checkOver (Chip.fielderDone_some h) rfl, next_checkOver (Chip.fielderDone_some h) rfl,
      next_checkOver (Chip.fielderDone_some h) rfl⟩,
    fun h => next_act (Chip.otpDone_none h), fun h hl => next_act (Chip.otpDone_row h hl),
    fun h hl => next_act (Chip.otpDone_fielder h hl), fun item h hl => next_act (Chip.otpDone_full h hl)⟩
  case sram => exact next_act ((Chip.startCheck_sram hc ha hq hrow).trans (Chip.startSram_spare hs))
  case fielder => exact next_act ((Chip.startCheck_fielder hc ha hq hjob).trans (Chip.startFielderCheck_halted hst hb))
  case soft => exact fun h => h.elim (fun h => absurd h (ne_true_of_eq_false hst)) h3

end Sys2Proof.Machine
end

/-! Lanes, the scrubber and the Sideline's (R354, R396, R399 to R401, R407). -/
section
namespace Sys2Proof.Machine

variable {c : Chip} {lane slot was : Nat} {second : Bool} {kind : BitVec 3}

theorem Chip.OffersOnly.rel {d : Chip} (h : c.OffersOnly d) : d.rel = c.rel := by rw [h.rest]
theorem Chip.OffersOnly.us {d : Chip} (h : c.OffersOnly d) : d.us = c.us := by rw [h.rest]

theorem Chip.rel_pend (n : Nat) : (c.pend n).rel = c.rel := (Chip.offers_only _).rel.trans (Chip.updSrc_rel ..)
theorem Chip.us_pend (n : Nat) : (c.pend n).us = c.us := (Chip.offers_only _).us.trans (Chip.updSrc_us ..)

/-! ### Errors of a lane -/

/-- What every error of a lane sets: its fabric port's source and loss count, and source 451 (R354, R400). -/
def Chip.laneMarked (c : Chip) (lane : Nat) (kind : BitVec 3) : Chip :=
  (if lane < 16 then c
   else (if bitAt kind 0 = true then c.updFab ((lane - 16) / 2) (fun q => { q with laneLoss := q.laneLoss + 1 }) else c).pend
     (392 + 8 * ((lane - 16) / 2) + 4)).pend 451

theorem Chip.rel_laneMarked : (c.laneMarked lane kind).rel = c.rel := by
  unfold Chip.laneMarked
  rw [Chip.rel_pend]
  split
  · rfl
  · rw [Chip.rel_pend]; split <;> rfl

theorem Chip.us_laneMarked : (c.laneMarked lane kind).us = c.us := by
  unfold Chip.laneMarked
  rw [Chip.us_pend]
  split
  · rfl
  · rw [Chip.us_pend]; split <;> rfl

/-- The errors of a lane within its window, this one included (R400). -/
def Chip.laneTimes (c : Chip) (lane : Nat) : List Nat :=
  c.us :: (Tbl.get [] c.rel.laneErr lane).filter (fun t => decide (c.us - t ≤ 1000))

def Chip.withErr (c : Chip) (lane : Nat) (ts : List Nat) : Chip :=
  { c with rel := { c.rel with laneErr := Tbl.set [] c.rel.laneErr lane ts } }

theorem Chip.laneTimes_marked : (c.laneMarked lane kind).laneTimes lane = c.laneTimes lane := by
  unfold Chip.laneTimes
  rw [Chip.us_laneMarked, Chip.rel_laneMarked]

/-- Marking an error leaves the checks of the lane as they are. -/
theorem Chip.laneSlot_marked (k : Nat) : (c.laneMarked lane kind).laneSlot k = c.laneSlot k := by
  unfold Chip.laneSlot
  rw [Chip.rel_laneMarked]

/-- What an error of a lane does once it is marked. -/
def Chip.laneCounted (c : Chip) (lane : Nat) (kind : BitVec 3) : Chip :=
  match c.laneSlot lane with
  | some s => c.logAgain s
  | none =>
    if (c.laneTimes lane).length < c.rel.laneTh.toNat then c.withErr lane (c.laneTimes lane)
    else
      let d := (c.withErr lane []).log 0x1E 0x05 lane (c.laneTimes lane).length kind.toNat 0
      d.queueCheck (.lane lane d.lastLog) d.lastLog

theorem Chip.laneError_eq : c.laneError lane kind = (c.laneMarked lane kind).laneCounted lane kind := by
  unfold Chip.laneError
  extract_lets fab p c1 c2 c3
  have h3 : c3 = c.laneMarked lane kind := by
    unfold Chip.laneMarked
    by_cases hl : lane < 16
    · have hfab : fab = false := decide_eq_false (Nat.not_le.mpr hl)
      simp only [c3, c2, c1, hfab, if_pos hl, Bool.false_and, Bool.false_eq_true, if_false]
    · have hfab : fab = true := decide_eq_true (Nat.not_lt.mp hl)
      simp only [c3, c2, c1, hfab, if_neg hl, Bool.true_and, if_true]
      rfl
  rw [← h3]
  clear_value c3
  rfl

section
variable {d : Chip} (hd : d = c.laneMarked lane kind)
include hd

theorem Chip.laneError_again (h : c.laneSlot lane = some slot) : c.laneError lane kind =
    d.logResult slot (fun e => { e with count := if e.count.toNat = 65535 then e.count else e.count + 1 }) := by
  rw [Chip.laneError_eq, hd, Chip.laneCounted, Chip.laneSlot_marked, h]
  rfl

theorem Chip.laneError_few (h : c.laneSlot lane = none) (ht : (c.laneTimes lane).length < c.rel.laneTh.toNat) :
    c.laneError lane kind = d.withErr lane (c.laneTimes lane) := by
  rw [Chip.laneError_eq, hd, Chip.laneCounted, Chip.laneSlot_marked, h]
  dsimp only
  rw [Chip.laneTimes_marked, Chip.rel_laneMarked, if_pos ht]

theorem Chip.laneError_many (h : c.laneSlot lane = none) (ht : c.rel.laneTh.toNat ≤ (c.laneTimes lane).length) :
    c.laneError lane kind =
      (let e := (d.withErr lane []).log 0x1E 0x05 lane (c.laneTimes lane).length kind.toNat 0
       e.queueCheck (.lane lane e.lastLog) e.lastLog) := by
  rw [Chip.laneError_eq, hd, Chip.laneCounted, Chip.laneSlot_marked, h]
  dsimp only
  rw [Chip.laneTimes_marked, Chip.rel_laneMarked, if_neg (Nat.not_lt.mpr ht)]

end

/-! ### The check of a lane ends -/

theorem Chip.laneDone_none {r : CheckEnd} (h : c.rel.laneJobs = []) : c.laneDone lane r = c := by
  unfold Chip.laneDone
  rw [h]
  rfl

theorem Chip.laneDone_one {r : CheckEnd} (h : c.rel.laneJobs = [(lane, slot, second, was)]) : c.laneDone lane r =
    (let d : Chip := { c with rel := { c.rel with laneJobs := [] } }
     match r with
     | .transient => ((d.logResult slot (fun e => e.withOutcome 1 0 false)).laneBack lane was).checkOver 3 lane .transient
     | .lasting => (((d.logResult slot (fun e => e.withOutcome 2 4 second)).markSecond
         (fun k => decide (17 ≤ k) && c.laneLink (k - 17) == c.laneLink lane)).laneDropped lane).checkOver 3 lane .lasting
     | .inconclusive => ((d.logResult slot (fun e => e.withOutcome 3 4 second)).laneDropped lane).checkOver 3 lane .inconclusive) := by
  have hfind : [(lane, slot, second, was)].find? (fun j => j.1 == lane) = some (lane, slot, second, was) :=
    List.find?_cons_of_pos (beq_self_eq_true lane)
  have hrest : [(lane, slot, second, was)].filter (fun j => j.1 != lane) = [] :=
    List.filter_cons_of_neg (by simp)
  unfold Chip.laneDone
  rw [h, hfind]
  dsimp only
  rw [hrest]
  cases r <;> rfl

/-- All four lanes are link 0's where it is x4. -/
theorem Chip.laneLink_x4 (hl : lane < 4) (hb : c.straps.bifur = false) : c.laneLink lane = 0 := by
  unfold Chip.laneLink
  rw [if_pos hl, hb]
  rfl

/-- One lane of four down does not end the link. -/
theorem Chip.linkDead_x4 (hl : lane < 4) (hb : c.straps.bifur = false) (hd : c.rel.laneDown = BitVec.ofNat 20 (2 ^ lane)) :
    c.linkDead lane = false := by
  obtain ⟨k, hk, hup⟩ : ∃ k, k < 4 ∧ bitAt (BitVec.ofNat 20 (2 ^ lane)) k = false := by
    interval_cases lane
    · exact ⟨1, by decide, by decide⟩
    all_goals exact ⟨0, by decide, by decide⟩
  refine List.all_eq_false.mpr ⟨k, List.mem_range.mpr (by omega), ?_⟩
  rw [Chip.laneLink_x4 hk hb, Chip.laneLink_x4 hl hb, hd, hup]
  decide

/-- A lane of an x4 link stays out alone: the link goes on with the rest (R407). -/
theorem Chip.laneDropped_x4 (hl : lane < 4) (hb : c.straps.bifur = false) (hd : c.rel.laneDown = 0) :
    c.laneDropped lane = { c with rel := { c.rel with laneDown := BitVec.ofNat 20 (2 ^ lane) } } := by
  have hor : c.rel.laneDown ||| BitVec.ofNat 20 (2 ^ lane) = BitVec.ofNat 20 (2 ^ lane) := by rw [hd]; exact BitVec.zero_or
  have hdead := Chip.linkDead_x4 (c := { c with rel := { c.rel with laneDown := BitVec.ofNat 20 (2 ^ lane) } }) hl hb rfl
  unfold Chip.laneDropped
  rw [hor]
  exact (if_pos hl).trans (if_neg (ne_true_of_eq_false hdead))

/-! ### The scrubber (R396, R399) -/

theorem Chip.scrub_off {x : ScrubFind} (h : c.clocked = false ∨ c.boot.sram = false ∨ c.rel.scrub = 0) : c.scrub x = c := by
  refine if_pos ?_
  rcases h with h | h | h
  · rw [h]; rfl
  · rw [h]; simp
  · rw [h]; simp

section
variable (hc : c.clocked = true) (hs : c.boot.sram = true) (hr : c.rel.scrub ≠ 0)
include hc hs hr

/-- The scrubber reads the next row (R399). -/
theorem Chip.scrub_on (x : ScrubFind) : c.scrub x =
    (let b := c.rel.scrubRow / 1024
     let row := c.rel.scrubRow % 1024
     let d : Chip := { c with rel := { c.rel with scrubRow := (c.rel.scrubRow + 1) % 16384 } }
     match x with
     | .clean => d
     | .corrected w bit => d.corrected b row w.val bit.toNat
     | .uncorrectable w => d.uncorrectable b row w.val) := by
  refine (if_neg ?_).trans ?_
  · rw [hc, hs, beq_false_of_ne hr]; decide
  · cases x <;> rfl

end

/-- What every uncorrectable word sets, counts and logs (R398, R409). -/
def Chip.uncorrected (c : Chip) (b row word : Nat) : Chip :=
  let v := c.fresh
  let d := v.2.updBank b (fun x => { x with uncorr := if x.uncorr = 255 then 255 else x.uncorr + 1 })
  (({ d with rel := { d.rel with ue := d.rel.ue ||| BitVec.ofNat 16 (2 ^ b) } } : Chip).pend 448).rowError b row word 0x02
    (v.1.toNat % 128) 0

section
variable {b row word : Nat}

theorem Chip.uncorrectable_buffer (hb : b < 10) : c.uncorrectable b row word = (c.uncorrected b row word).loseBuffer := if_pos hb

theorem Chip.uncorrectable_fielder (hb : 12 ≤ b) (hb' : b < 15) : c.uncorrectable b row word =
    (c.uncorrected b row word).fault (4 * (b - 12) + row / 256) (.uncorrectable (decide (row % 256 < 128))) :=
  (if_neg (by omega)).trans ((if_neg (by omega)).trans (if_pos hb'))

theorem Chip.uncorrectable_sideline (hb : b = 15) : c.uncorrectable b row word = c.uncorrected b row word :=
  (if_neg (by omega)).trans ((if_neg (by omega)).trans (if_neg (by omega)))

end

/-- Settles O56: each command's cases, one lemma of the model's function for each. -/
theorem lanesAndScrubbing : Obligations.LanesAndScrubbing := by
  unfold Obligations.LanesAndScrubbing
  refine ⟨fun s l kind slot was second r => ?lanes, fun s w bit x => ?scrub⟩
  case lanes =>
    intro c p f d times withErr
    have hd : d = c.laneMarked l.val kind := congrArg (fun e => Chip.pend e 451) (if_congr Iff.rfl rfl rfl)
    clear_value d
    exact ⟨fun h => next_act (Chip.laneError_again hd h), fun h ht => next_act (Chip.laneError_few hd h ht),
      fun h ht => next_act (Chip.laneError_many hd h ht), fun h => next_act (Chip.laneDone_none h),
      fun h => ⟨next_checkOver (Chip.laneDone_one h) rfl, next_checkOver (Chip.laneDone_one h) rfl,
        next_checkOver (Chip.laneDone_one h) rfl⟩,
      fun hl => ⟨if_pos hl, fun hb hd => Chip.laneDropped_x4 hl hb hd⟩⟩
  case scrub =>
    intro c b row d n ce ue lost
    have hlost : lost = d.uncorrected b row w.val := rfl
    rw [hlost]
    clear_value lost ue
    exact ⟨fun h => next_act (Chip.scrub_off h), fun hc hs hr => ⟨next_act (Chip.scrub_on hc hs hr _),
      next_act (Chip.scrub_on hc hs hr _),
      fun hb => next_act ((Chip.scrub_on hc hs hr _).trans (Chip.uncorrectable_buffer hb)),
      fun hb hb' => next_act ((Chip.scrub_on hc hs hr _).trans (Chip.uncorrectable_fielder hb hb')),
      fun hb => next_act ((Chip.scrub_on hc hs hr _).trans (Chip.uncorrectable_sideline hb))⟩,
      next_act rfl, next_act rfl, next_act rfl⟩

end Sys2Proof.Machine
end
